-- ==== Sys2Proof/Word.lean ====
section
/-! DEFINITION. The word types of the SX3 (R7, R8, R164) and their plainest arithmetic. -/

namespace Sys2Proof

abbrev Byte := BitVec 8
/-- A scalar register, an instruction word, one lane of a vector register. -/
abbrev Word := BitVec 32
abbrev Half := BitVec 16
/-- A 64-bit pair of scalar registers, an address as instructions compute it (R236). -/
abbrev DWord := BitVec 64
/-- One bit per lane (R148). -/
abbrev LaneMask := BitVec 64
/-- A register number as an 8-bit field names it (R117). -/
abbrev R8 := BitVec 8
/-- A mask register number (R117). -/
abbrev K4 := BitVec 4

/-- The group width W (R11). -/
def laneCount : Nat := 64

/-- The lanes 0-63 in ascending order. -/
def allLanes : List Nat := List.range 64

/-- A vector register: 64 lanes of 32 bits, lane 0 first (R164). -/
abbrev VReg := List Word

/-- A sparse table: pairs of a key and a value, keys strictly rising, no entry equal to what an unlisted key holds. -/
abbrev KV (α : Type) := List (Nat × α)

/-- The high word over the low word of a 64-bit pair (R117). -/
def pairOf (lo hi : Word) : DWord := hi ++ lo

def loWord (x : DWord) : Word := x.truncate 32
def hiWord (x : DWord) : Word := (x >>> (32 : Nat)).truncate 32

end Sys2Proof
end

