-- ==== Sys2Proof/Syntax.lean ====
section
/-! DEFINITION. The instructions: the operand layouts of R118 to R124, the data that an event of the outside world carries,
and Instr, one constructor per row of the opcode table. The first 238 constructors are the AM-3 instructions; the last 83
are the table's events (steps of the device that no instruction word encodes), whose operands stand in State.input. `c` is the
chain bit of an instruction's last word (R109, R112); the forms in which it must be zero have no `c`. -/

namespace Sys2Proof

/-- The pipes (R114); `nop` uses none. -/
inductive Pipe where
  | none | S | C | V | L | A | Y
deriving DecidableEq, Repr

/-- Format V4 (R120): the fields of both words. -/
structure V4 where
  vd : R8
  va : R8
  vb : R8
  vc : R8
  km : K4
  z : Bool
  ty : BitVec 4
  rnd : BitVec 2
  sat : Bool
  nega : Bool
  negb : Bool
  absa : Bool
  fnx : Bool
deriving DecidableEq, Repr

/-- Format VS (R120), less fn, which the constructor gives. -/
structure VS where
  vd : R8
  va : R8
  sb : R8
  km : K4
  z : Bool
  ty : BitVec 4
  rnd : BitVec 2
  sat : Bool
  nega : Bool
  negb : Bool
  absa : Bool
  fnx : Bool
deriving DecidableEq, Repr

/-- Format M (R121). In `atom`, imm10 holds AOP, RET and RA (R272). -/
structure MF where
  vt : R8
  sbase : R8
  voff : R8
  km : K4
  width : BitVec 3
  scope : BitVec 3
  order : BitVec 2
  cache : BitVec 2
  imm : BitVec 10
deriving DecidableEq, Repr

/-- Format T (R122), less fnt and sp, which the constructor gives. -/
structure TF where
  ta : R8
  tb : R8
  tc : R8
  nd : BitVec 3
  km : K4
  z : Bool
  cm : BitVec 2
  ct : R8
  ty : BitVec 4
  td : R8
  scope : BitVec 3
  order : BitVec 2
  cache : BitVec 2
  btype : BitVec 4
deriving DecidableEq, Repr

/-- Format A with two words (R123), less fn, which the constructor gives. -/
structure A2 where
  aa : R8
  ab : R8
  ac : R8
  cm : BitVec 2
  ct : R8
  scope : BitVec 3
  order : BitVec 2
  fl : BitVec 5
deriving DecidableEq, Repr

/-- Format A with three words (R123). Such an instruction ends at word 2, so its C bit is zero (R112). -/
structure A3 where
  aa : R8
  ab : R8
  ac : R8
  cm : BitVec 2
  ct : R8
  scope : BitVec 3
  order : BitVec 2
  fl : BitVec 5
  imm : BitVec 24
deriving DecidableEq, Repr

/-- A firmware image as flash holds it (R406). -/
structure FirmwareImage where
  magic : Word
  headerVersion : Word
  securityVersion : Word
  bodyLen : Word
  bodyDigest : BitVec 384
  edKey : BitVec 256
  mlKey : List Byte
  edSig : BitVec 512
  mlSig : List Byte
  zeroTail : Bool
  body : List Byte
deriving DecidableEq, Repr

/-- What the host grants for a page: the host page, and whether it may be written or executed (R247). -/
structure PageGrant where
  hostPage : Nat
  w : Bool
  x : Bool
deriving DecidableEq, Repr

/-- One constructor per row of the opcode table. -/
inductive Instr where
  /-- R22. nop does nothing and uses no pipe. -/
  | nop (c : Bool)
  /-- R21. A function header word executes as a nop and declares BUDGET and MSTK for call. -/
  | nopHeader (budget mstk : BitVec 6)
  /-- R185. s[sd] := s[sa] + s[sb], wrapped. -/
  | sadd (c : Bool) (d a b : R8)
  /-- R185. s[sd] := s[sa] − s[sb], wrapped. -/
  | ssub (c : Bool) (d a b : R8)
  /-- R185. s[sd] := bits 31:0 of the product. -/
  | smul (c : Bool) (d a b : R8)
  /-- R185. s[sd] := bits 63:32 of the signed product. -/
  | smulh (c : Bool) (d a b : R8)
  /-- R185. s[sd] := bits 63:32 of the unsigned product. -/
  | smulhu (c : Bool) (d a b : R8)
  /-- R185. s[sd] := signed quotient, truncated. -/
  | sdiv (c : Bool) (d a b : R8)
  /-- R185. s[sd] := unsigned quotient. -/
  | sdivu (c : Bool) (d a b : R8)
  /-- R185. s[sd] := signed remainder with the dividend's sign. -/
  | srem (c : Bool) (d a b : R8)
  /-- R185. s[sd] := unsigned remainder. -/
  | sremu (c : Bool) (d a b : R8)
  /-- R185. s[sd] := bitwise AND. -/
  | sand (c : Bool) (d a b : R8)
  /-- R185. s[sd] := bitwise OR. -/
  | sor (c : Bool) (d a b : R8)
  /-- R185. s[sd] := bitwise XOR. -/
  | sxor (c : Bool) (d a b : R8)
  /-- R185. s[sd] := s[sa] << s[sb], zero for amounts of 32 or more. -/
  | sshl (c : Bool) (d a b : R8)
  /-- R185. s[sd] := logical s[sa] >> s[sb]. -/
  | sshr (c : Bool) (d a b : R8)
  /-- R185. s[sd] := arithmetic s[sa] >> s[sb]. -/
  | ssra (c : Bool) (d a b : R8)
  /-- R185. s[sd] := signed minimum. -/
  | smin (c : Bool) (d a b : R8)
  /-- R185. s[sd] := signed maximum. -/
  | smax (c : Bool) (d a b : R8)
  /-- R185. s[sd] := unsigned minimum. -/
  | sminu (c : Bool) (d a b : R8)
  /-- R185. s[sd] := unsigned maximum. -/
  | smaxu (c : Bool) (d a b : R8)
  /-- R186. sadd with a sign-extended 24-bit immediate, OP 0x15. -/
  | saddSi (c : Bool) (d a : R8) (imm : BitVec 24)
  /-- R186. sadd with a 32-bit immediate, OP 0x16. -/
  | saddSi32 (d a : R8) (imm : Word)
  /-- R186. ssub with a 24-bit immediate. -/
  | ssubSi (c : Bool) (d a : R8) (imm : BitVec 24)
  /-- R186. ssub with a 32-bit immediate. -/
  | ssubSi32 (d a : R8) (imm : Word)
  /-- R186. smul with a 24-bit immediate. -/
  | smulSi (c : Bool) (d a : R8) (imm : BitVec 24)
  /-- R186. smul with a 32-bit immediate. -/
  | smulSi32 (d a : R8) (imm : Word)
  /-- R186. smulh with a 24-bit immediate. -/
  | smulhSi (c : Bool) (d a : R8) (imm : BitVec 24)
  /-- R186. smulh with a 32-bit immediate. -/
  | smulhSi32 (d a : R8) (imm : Word)
  /-- R186. smulhu with a 24-bit immediate read unsigned. -/
  | smulhuSi (c : Bool) (d a : R8) (imm : BitVec 24)
  /-- R186. smulhu with a 32-bit immediate. -/
  | smulhuSi32 (d a : R8) (imm : Word)
  /-- R186. sdiv with a 24-bit immediate. -/
  | sdivSi (c : Bool) (d a : R8) (imm : BitVec 24)
  /-- R186. sdiv with a 32-bit immediate. -/
  | sdivSi32 (d a : R8) (imm : Word)
  /-- R186. sdivu with a 24-bit immediate read unsigned. -/
  | sdivuSi (c : Bool) (d a : R8) (imm : BitVec 24)
  /-- R186. sdivu with a 32-bit immediate. -/
  | sdivuSi32 (d a : R8) (imm : Word)
  /-- R186. srem with a 24-bit immediate. -/
  | sremSi (c : Bool) (d a : R8) (imm : BitVec 24)
  /-- R186. srem with a 32-bit immediate. -/
  | sremSi32 (d a : R8) (imm : Word)
  /-- R186. sremu with a 24-bit immediate read unsigned. -/
  | sremuSi (c : Bool) (d a : R8) (imm : BitVec 24)
  /-- R186. sremu with a 32-bit immediate. -/
  | sremuSi32 (d a : R8) (imm : Word)
  /-- R186. sand with a 24-bit immediate. -/
  | sandSi (c : Bool) (d a : R8) (imm : BitVec 24)
  /-- R186. sand with a 32-bit immediate. -/
  | sandSi32 (d a : R8) (imm : Word)
  /-- R186. sor with a 24-bit immediate. -/
  | sorSi (c : Bool) (d a : R8) (imm : BitVec 24)
  /-- R186. sor with a 32-bit immediate. -/
  | sorSi32 (d a : R8) (imm : Word)
  /-- R186. sxor with a 24-bit immediate. -/
  | sxorSi (c : Bool) (d a : R8) (imm : BitVec 24)
  /-- R186. sxor with a 32-bit immediate. -/
  | sxorSi32 (d a : R8) (imm : Word)
  /-- R186. sshl by a 24-bit immediate read unsigned. -/
  | sshlSi (c : Bool) (d a : R8) (imm : BitVec 24)
  /-- R186. sshl by a 32-bit immediate. -/
  | sshlSi32 (d a : R8) (imm : Word)
  /-- R186. sshr by a 24-bit immediate read unsigned. -/
  | sshrSi (c : Bool) (d a : R8) (imm : BitVec 24)
  /-- R186. sshr by a 32-bit immediate. -/
  | sshrSi32 (d a : R8) (imm : Word)
  /-- R186. ssra by a 24-bit immediate read unsigned. -/
  | ssraSi (c : Bool) (d a : R8) (imm : BitVec 24)
  /-- R186. ssra by a 32-bit immediate. -/
  | ssraSi32 (d a : R8) (imm : Word)
  /-- R186. smin with a 24-bit immediate. -/
  | sminSi (c : Bool) (d a : R8) (imm : BitVec 24)
  /-- R186. smin with a 32-bit immediate. -/
  | sminSi32 (d a : R8) (imm : Word)
  /-- R186. smax with a 24-bit immediate. -/
  | smaxSi (c : Bool) (d a : R8) (imm : BitVec 24)
  /-- R186. smax with a 32-bit immediate. -/
  | smaxSi32 (d a : R8) (imm : Word)
  /-- R186. sminu with a 24-bit immediate read unsigned. -/
  | sminuSi (c : Bool) (d a : R8) (imm : BitVec 24)
  /-- R186. sminu with a 32-bit immediate. -/
  | sminuSi32 (d a : R8) (imm : Word)
  /-- R186. smaxu with a 24-bit immediate read unsigned. -/
  | smaxuSi (c : Bool) (d a : R8) (imm : BitVec 24)
  /-- R186. smaxu with a 32-bit immediate. -/
  | smaxuSi32 (d a : R8) (imm : Word)
  /-- R186. s[sd] := a sign-extended 24-bit immediate. -/
  | smovSi (c : Bool) (d : R8) (imm : BitVec 24)
  /-- R186. s[sd] := a 32-bit immediate. -/
  | smovSi32 (d : R8) (imm : Word)
  /-- R187. Compares a scalar with a register or immediate, writing 1 or 0 to s[sd] and scc.T. -/
  | scmp (c : Bool) (d a : R8) (cc : BitVec 4) (i : Bool) (imm : BitVec 24)
  /-- R188. s[sd] := s[sa] when scc.T = 1, else s[sb]. -/
  | ssel (c : Bool) (d a b : R8)
  /-- R189. Extracts a bit field, sign-extended. -/
  | sbfe (c : Bool) (d a : R8) (pos : BitVec 5) (len : BitVec 6)
  /-- R189. Extracts a bit field, zero-extended. -/
  | sbfeu (c : Bool) (d a : R8) (pos : BitVec 5) (len : BitVec 6)
  /-- R189. Inserts the low len bits of s[sa] into s[sd] at pos. -/
  | sbfi (c : Bool) (d a : R8) (pos : BitVec 5) (len : BitVec 6)
  /-- R190. s[sd] := count of leading zero bits of s[sa]. -/
  | sclz (c : Bool) (d a : R8)
  /-- R190. s[sd] := count of trailing zero bits of s[sa]. -/
  | sctz (c : Bool) (d a : R8)
  /-- R190. s[sd] := count of one bits of s[sa]. -/
  | spopc (c : Bool) (d a : R8)
  /-- R190. s[sd] := s[sa] with its bits reversed. -/
  | sbrev (c : Bool) (d a : R8)
  /-- R190. s[sd] := s[sa][7:0] sign-extended. -/
  | sext8 (c : Bool) (d a : R8)
  /-- R190. s[sd] := s[sa][15:0] sign-extended. -/
  | sext16 (c : Bool) (d a : R8)
  /-- R191. Pair sd := pair sa + B, mod 2^64. -/
  | sadd64 (c : Bool) (d a : R8) (i : Bool) (imm : BitVec 24)
  /-- R191. Pair sd := pair sa − B, mod 2^64. -/
  | ssub64 (c : Bool) (d a : R8) (i : Bool) (imm : BitVec 24)
  /-- R191. Pair sd := bits 63:0 of A × B. -/
  | smul64 (c : Bool) (d a : R8) (i : Bool) (imm : BitVec 24)
  /-- R191. Pair sd := A << B, zero for amounts of 64 or more. -/
  | sshl64 (c : Bool) (d a : R8) (i : Bool) (imm : BitVec 24)
  /-- R191. Pair sd := logical A >> B. -/
  | sshr64 (c : Bool) (d a : R8) (i : Bool) (imm : BitVec 24)
  /-- R191. Pair sd := arithmetic A >> B. -/
  | ssra64 (c : Bool) (d a : R8) (i : Bool) (imm : BitVec 24)
  /-- R191. Pair sd := B. -/
  | smov64 (c : Bool) (d : R8) (i : Bool) (imm : BitVec 24)
  /-- R192. Writes fmt's control fields, sticky flags or both, from an immediate or a register, after earlier vector flags are set. -/
  | setfmt (c : Bool) (src a : R8) (imm : BitVec 24)
  /-- R152. Reads a special register into s[sd], or a pair for 64-bit registers. -/
  | sget (c : Bool) (d n : R8)
  /-- R152. Writes a writable special register from s[sa], inld only downward. -/
  | sput (c : Bool) (n a : R8)
  /-- R193. Branches the whole wave to a packet. -/
  | b (c : Bool) (off : BitVec 20)
  /-- R193. Branches when the cond of scc holds. -/
  | bc (c : Bool) (cond : BitVec 4) (off : BitVec 20)
  /-- R194. Branches on a mask condition uniform over active lanes, or traps NONUNIFORM_BRANCH. -/
  | bu (c : Bool) (ka : K4) (off : BitVec 20)
  /-- R195. Decrements s[sa] and branches while it is not zero. -/
  | loop (c : Bool) (a : R8) (imm : BitVec 24)
  /-- R197. Checks the target's header and the call depth, then pushes a plain entry and jumps. -/
  | call (off : BitVec 20)
  /-- R198. Calls each distinct per-lane target in turn for its subset of lanes, using two mask-stack entries. -/
  | callp (a : R8)
  /-- R199. Pops a call-stack entry to return, continue a callp or end an inline run, or ends the wave at depth 0. -/
  | ret
  /-- R200. Undoes the call that reached it and raises LINK with its identifier and lane subset. -/
  | stub (ident : BitVec 20)
  /-- R201. Pushes exec and fmt and sets exec := exec AND k[ka]. -/
  | mpush (c : Bool) (ka : K4)
  /-- R201. Sets exec := top exec AND NOT k[ka] and restores fmt, keeping the entry. -/
  | melse (c : Bool) (ka : K4)
  /-- R201. Pops exec and fmt from the mask stack. -/
  | mpop (c : Bool)
  /-- R202. k[kd] := k[ka] AND k[kb]. -/
  | kand (c : Bool) (kd ka kb : K4)
  /-- R202. k[kd] := k[ka] OR k[kb]. -/
  | kor (c : Bool) (kd ka kb : K4)
  /-- R202. k[kd] := k[ka] XOR k[kb]. -/
  | kxor (c : Bool) (kd ka kb : K4)
  /-- R202. k[kd] := k[ka] AND NOT k[kb]. -/
  | kandn (c : Bool) (kd ka kb : K4)
  /-- R202. k[kd] := NOT k[ka]. -/
  | knot (c : Bool) (kd ka : K4)
  /-- R202. k[kd] := k[ka]. -/
  | kmov (c : Bool) (kd ka : K4)
  /-- R202. k[kd] := k[ka] << n. -/
  | kshl (c : Bool) (kd ka : K4) (n : Byte)
  /-- R202. k[kd] := k[ka] >> n, logical. -/
  | kshr (c : Bool) (kd ka : K4) (n : Byte)
  /-- R202. s[s] := number of set bits of k[ka]. -/
  | kpopc (c : Bool) (ka : K4) (s : R8)
  /-- R202. s[s] := index of the lowest set bit of k[ka], or all ones. -/
  | kffs (c : Bool) (ka : K4) (s : R8)
  /-- R202. k[kd] := the scalar pair at s. -/
  | kfroms (c : Bool) (kd : K4) (s : R8)
  /-- R202. The scalar pair at s := k[ka]. -/
  | ktos (c : Bool) (ka : K4) (s : R8)
  /-- R203. k[kd] := k[ka] AND exec AND k[kb]. -/
  | voteK (c : Bool) (kd ka kb : K4)
  /-- R203. Sets scc ANY, ALL and UNI from a lane condition. -/
  | voteF (c : Bool) (ka kb : K4)
  /-- R203. Writes both the mask and the scc flags. -/
  | voteKf (c : Bool) (kd ka kb : K4)
  /-- R204. Posts a job card to a core's task queue, runs it inline when the queue is full, or reports BAD_CARD, DEPTH or REFUSED. -/
  | spawn (d a b : R8)
  /-- R205. Takes the next tile record from a feed slot, parking until one is available. -/
  | tnext (c : Bool) (d a : R8)
  /-- R206. Inserts one entry into the partition's admission heap. -/
  | hpush (c : Bool) (d a : R8)
  /-- R207. Admits heap entries in deadline order within tbudget into scratchpad. -/
  | hadmit (c : Bool) (d a b : R8)
  /-- R208. Admits for up to eight budget groups in one atomic heap operation. -/
  | hadmitMulti (c : Bool) (d a b : R8)
  /-- R212. Short-form f32 add, rne, under exec. -/
  | vaddF32Short (c : Bool) (d a b : R8)
  /-- R212. Short-form f32 multiply, rne, under exec. -/
  | vmulF32Short (c : Bool) (d a b : R8)
  /-- R212. Short-form i32 add, wrapping, under exec. -/
  | vaddI32Short (c : Bool) (d a b : R8)
  /-- R212. vd := va bit for bit under exec. -/
  | vmovShort (c : Bool) (d a : R8)
  /-- R213. Lane-wise add with rounding, saturation and modifiers. -/
  | vadd (c : Bool) (p : V4)
  /-- R213. Lane-wise subtract. -/
  | vsub (c : Bool) (p : V4)
  /-- R213. Lane-wise multiply. -/
  | vmul (c : Bool) (p : V4)
  /-- R213. Lane-wise fused multiply-add with one rounding. -/
  | vfma (c : Bool) (p : V4)
  /-- R214. Lane-wise minimum. -/
  | vmin (c : Bool) (p : V4)
  /-- R214. Lane-wise maximum. -/
  | vmax (c : Bool) (p : V4)
  /-- R215. High half of the 64-bit product. -/
  | vmulh (c : Bool) (p : V4)
  /-- R216. Correctly rounded reciprocal. -/
  | vrcp (c : Bool) (p : V4)
  /-- R216. Correctly rounded square root. -/
  | vsqrt (c : Bool) (p : V4)
  /-- R216. Correctly rounded reciprocal square root. -/
  | vrsqrt (c : Bool) (p : V4)
  /-- R217. Correctly rounded base-2 logarithm of f32. -/
  | vlog2 (c : Bool) (p : V4)
  /-- R217. Correctly rounded power of two of f32. -/
  | vexp2 (c : Bool) (p : V4)
  /-- R220. Lane-wise bitwise AND. -/
  | vand (c : Bool) (p : V4)
  /-- R220. Lane-wise bitwise OR. -/
  | vor (c : Bool) (p : V4)
  /-- R220. Lane-wise bitwise XOR. -/
  | vxor (c : Bool) (p : V4)
  /-- R220. Lane-wise shift left on the type's bits. -/
  | vshl (c : Bool) (p : V4)
  /-- R220. Lane-wise logical shift right. -/
  | vshr (c : Bool) (p : V4)
  /-- R220. Lane-wise arithmetic shift right. -/
  | vsra (c : Bool) (p : V4)
  /-- R230. vadd with a broadcast scalar in place of vb. -/
  | vaddVs (c : Bool) (p : VS)
  /-- R230. vsub with a broadcast scalar. -/
  | vsubVs (c : Bool) (p : VS)
  /-- R230. vmul with a broadcast scalar. -/
  | vmulVs (c : Bool) (p : VS)
  /-- R230. vd := va × scalar + vd with one rounding. -/
  | vfmaVs (c : Bool) (p : VS)
  /-- R230. vmin with a broadcast scalar. -/
  | vminVs (c : Bool) (p : VS)
  /-- R230. vmax with a broadcast scalar. -/
  | vmaxVs (c : Bool) (p : VS)
  /-- R230. vrcp in VS form with sb = 0. -/
  | vrcpVs (c : Bool) (p : VS)
  /-- R230. vsqrt in VS form with sb = 0. -/
  | vsqrtVs (c : Bool) (p : VS)
  /-- R230. vrsqrt in VS form with sb = 0. -/
  | vrsqrtVs (c : Bool) (p : VS)
  /-- R230. vlog2 in VS form with sb = 0. -/
  | vlog2Vs (c : Bool) (p : VS)
  /-- R230. vexp2 in VS form with sb = 0. -/
  | vexp2Vs (c : Bool) (p : VS)
  /-- R230. vand with a broadcast scalar. -/
  | vandVs (c : Bool) (p : VS)
  /-- R230. vor with a broadcast scalar. -/
  | vorVs (c : Bool) (p : VS)
  /-- R230. vxor with a broadcast scalar. -/
  | vxorVs (c : Bool) (p : VS)
  /-- R230. vshl by the whole unsigned scalar. -/
  | vshlVs (c : Bool) (p : VS)
  /-- R230. vshr by the whole unsigned scalar. -/
  | vshrVs (c : Bool) (p : VS)
  /-- R230. vsra by the whole unsigned scalar. -/
  | vsraVs (c : Bool) (p : VS)
  /-- R222. Compares lanes into a mask register. -/
  | vcmp (c : Bool) (p : V4)
  /-- R223. Chooses va or vb per lane by a selector mask. -/
  | vsel (c : Bool) (p : V4)
  /-- R224. Converts between types by R175. -/
  | vcvt (c : Bool) (p : V4)
  /-- R225. Deprecated f32/32-bit integer conversion with the generation-2 out-of-range result. -/
  | vcvtLegacy (c : Bool) (p : V4)
  /-- R226. Packs narrow values of consecutive registers into each lane. -/
  | vpack (c : Bool) (p : V4)
  /-- R227. Unpacks half of each lane into consecutive registers. -/
  | vunpack (c : Bool) (p : V4)
  /-- R228. vd[l] := va[vb[l][5:0]]. -/
  | vperm (c : Bool) (p : V4)
  /-- R229. Broadcasts lane n of va. -/
  | vbcast (c : Bool) (p : VS)
  /-- R229. Rotates va across lanes by n. -/
  | vrot (c : Bool) (p : VS)
  /-- R229. Shifts va up by n lanes with zero fill. -/
  | vshup (c : Bool) (p : VS)
  /-- R229. Shifts va down by n lanes with zero fill. -/
  | vshdn (c : Bool) (p : VS)
  /-- R229. vd := s[sb] in every active lane. -/
  | vsplat (c : Bool) (p : VS)
  /-- R231. Reduces va over active lanes in ascending order and writes the result to every active lane. -/
  | vred (c : Bool) (p : V4)
  /-- R232. Inclusive or exclusive running reduction over active lanes. -/
  | vscan (c : Bool) (p : V4)
  /-- R233. Maximum across active lanes with its index, ties to the lowest index, and NOMAX. -/
  | vredmaxi (c : Bool) (p : V4)
  /-- R234. Inserts a candidate into each lane's top-k list, optionally starting it afresh. -/
  | vtopk (c : Bool) (p : V4)
  /-- R219. Four-way packed 8-bit dot product with accumulation, types from fmt. -/
  | vdot4 (c : Bool) (p : V4)
  /-- R235. Experimental counter-based random bits or uniforms. -/
  | vrand (c : Bool) (p : V4)
  /-- R221. Lane-wise count of leading zeros. -/
  | vclz (c : Bool) (p : V4)
  /-- R221. Lane-wise count of one bits. -/
  | vpopc (c : Bool) (p : V4)
  /-- R221. Lane-wise bit reversal. -/
  | vbrev (c : Bool) (p : V4)
  /-- R218. Rounds to an integral value in the same float type. -/
  | vrnd (c : Bool) (p : V4)
  /-- R263. Loads each active lane's bytes from global memory into vector registers. -/
  | ld (c : Bool) (p : MF)
  /-- R263. Stores each active lane's bytes to global memory. -/
  | st (c : Bool) (p : MF)
  /-- R264. Loads one access into scalar registers. -/
  | sld (c : Bool) (p : MF)
  /-- R264. Stores one access from scalar registers. -/
  | sst (c : Bool) (p : MF)
  /-- R265. Loads from scratchpad into vector registers. -/
  | ldp (c : Bool) (p : MF)
  /-- R265. Stores vector registers to scratchpad, trapping on a live barrier word. -/
  | stp (c : Bool) (p : MF)
  /-- R266. Deprecated load of signed halves from scratchpad with generation-2 indexing. -/
  | lds16 (c : Bool) (p : MF)
  /-- R267. Loads a tensor box through a layout record into vector registers. -/
  | ldt (p : TF)
  /-- R267. Stores vector registers to a tensor box through a layout record. -/
  | stt (p : TF)
  /-- R270. Issues a byte-run copy from the leader lane to the copy streamer. -/
  | cpy (p : A3)
  /-- R271. Issues a box copy between two layout records. -/
  | cpyt (p : TF)
  /-- R272. Atomic read-modify-write at the home or in scratchpad, one step per address. -/
  | atom (c : Bool) (p : MF)
  /-- R274. Adds increments to histogram bins at their home, posting cards for bins that leave zero. -/
  | hinc (c : Bool) (p : MF)
  /-- R275. Loads data with its line's version atomically at the home. -/
  | ldv (c : Bool) (p : MF)
  /-- R277. Validates up to eight line versions under holds at one instant. -/
  | valset (c : Bool) (d a : R8)
  /-- R277. Validates versions and stores one word when all match. -/
  | valst (c : Bool) (d a sv : R8)
  /-- R278. Writes only when the line's version is the one expected, returning the version. -/
  | casv (c : Bool) (p : MF)
  /-- R279. Takes the next guided self-scheduling chunk at the record's home. -/
  | chunk (c : Bool) (d a : R8)
  /-- R280. Parks until the class counters fall to the given limits. -/
  | waitc (c : Bool) (nl ns nc nm : BitVec 6)
  /-- R281. Prefetches lines into the core's L1. -/
  | prefL1 (c : Bool) (a : R8) (n : Half)
  /-- R281. Prefetches lines into their home L2 or the RDC. -/
  | prefL2 (c : Bool) (a : R8) (n : Half)
  /-- R281. Writes the core's dirty L1 bytes of lines back to their homes. -/
  | cwb (c : Bool) (a : R8) (n : Half)
  /-- R281. Writes back and then drops lines from the core's L1. -/
  | cinv (c : Bool) (a : R8) (n : Half)
  /-- R299. Enters one eight-row quarter per active quarter into the batch-forming queue against a B slot. -/
  | mmq (p : TF)
  /-- R299. As mmq with 2:4 sparse A rows. -/
  | mmqSp (p : TF)
  /-- R300. Starts filling one B slot from memory through a layout record. -/
  | bload (p : TF)
  /-- R301. Zeroes accumulator tiles. -/
  | accz (p : TF)
  /-- R301. Reads column groups of a tile into vector registers, converting by fmt. -/
  | accrd (p : TF)
  /-- R301. Writes column groups of a tile from vector registers. -/
  | accwr (p : TF)
  /-- R302. Hands a walk card to the matrix engine for a blocked product with epilogue. -/
  | mwalk (c : Bool) (p : A2)
  /-- R303. Closes open matrix operations into batch LAST + 1 and returns its number. -/
  | mfence (c : Bool) (d : R8)
  /-- R303. Parks until a named matrix batch completes. -/
  | mwait (c : Bool) (a : R8)
  /-- R304. Loads an attention-mask parameter block into the wave's parameter copy. -/
  | mparam (c : Bool) (p : A2)
  /-- R336. Orders the wave's accesses at a scope as a release, acquire or both. -/
  | fence (c : Bool) (order : BitVec 2) (scope : BitVec 3)
  /-- R337. Joins a cohort of the cluster, at once or as a pending joiner. -/
  | join (c : Bool) (name : BitVec 6)
  /-- R337. Leaves the wave's cohort, counting as an arrival when needed. -/
  | leave (c : Bool)
  /-- R338. Arrives at a cohort or named barrier group and returns the generation. -/
  | barr (c : Bool) (d a : R8) (lvl : BitVec 2) (name : BitVec 6)
  /-- R338. Parks until the group's generation differs from the one held. -/
  | bwait (c : Bool) (a : R8) (lvl : BitVec 2) (name : BitVec 6)
  /-- R338. Arrives and then waits for that generation. -/
  | barrw (c : Bool) (d a : R8) (lvl : BitVec 2) (name : BitVec 6)
  /-- R339. Deprecated arrive-and-wait at a cluster group with a count in the instruction. -/
  | barOld (c : Bool) (name : BitVec 6) (count : Half)
  /-- R340. Initialises a scratchpad barrier word and sets its live tag. -/
  | binit (c : Bool) (a : R8) (expected : Half)
  /-- R340. Clears a barrier word's live tag and wakes its waiters with status 1. -/
  | bfree (c : Bool) (a : R8)
  /-- R340. Arrives at a scratchpad barrier word, completing its generation at EXPECTED. -/
  | sarr (c : Bool) (d a : R8)
  /-- R340. Parks until the barrier word's generation changes or the word is freed. -/
  | swait (c : Bool) (d a sb : R8)
  /-- R341. Waits in order until the semaphore reaches the amount, then subtracts it. -/
  | semacq (c : Bool) (d a : R8) (n : BitVec 6) (i : Bool) (amount : Half)
  /-- R341. Adds to one of the wave's own semaphores and serves its waiters. -/
  | semadd (c : Bool) (a : R8) (n : BitVec 6) (i : Bool) (amount : Half)
  /-- R341. Adds to a semaphore of another wave of the launch on the core, named by slot. -/
  | semaddW (c : Bool) (d a : R8) (n : BitVec 6) (i : Bool) (amount : Half)
  /-- R357. Binds a Bramble context to a grammar image at a start state. -/
  | gbind (p : A3)
  /-- R358. Advances a context by one token, or rejects it. -/
  | gstep (c : Bool) (p : A2)
  /-- R359. Writes the mask of tokens allowed next. -/
  | gmask (p : A3)
  /-- R359. Experimental: rewrites only changed mask lines and writes a change map. -/
  | gmaskDelta (p : A3)
  /-- R360. Forks a bound context into a free one, sharing its stack. -/
  | gfork (c : Bool) (p : A2)
  /-- R361. Steps a context back by n uncommitted steps. -/
  | groll (c : Bool) (p : A2)
  /-- R361. Makes n steps of a context final. -/
  | gcommit (c : Bool) (p : A2)
  /-- R362. Frees a context and returns its unshared segments. -/
  | gfree (c : Bool) (p : A2)
  /-- R385. Raises USER_TRAP with a code. -/
  | trap (a : R8) (code : BitVec 10)
  /-- R386. Parks and asks the control-core firmware for a service. -/
  | ecall (a : R8) (code : BitVec 10)
  /-- R387. Parks for a time, or until one of its semaphores rises with .sem. -/
  | sleep (a : R8) (sem : Bool)
  /-- R388. Returns from a user trap handler to TPC and TEXEC and makes any pending transfer. -/
  | rte
  /-- R389. Writes a checkpoint with the named registers, clears the seal and consumes claims. -/
  | ckpt (vb : R8) (sb : BitVec 6) (sg : Byte) (vm : Half)
  /-- R395. Bequeaths the bequest list as a FORMING estate block on a reserved route. -/
  | will (c : Bool) (p : A2)
  /-- R396. Takes estate registers for per-lane keys from the estate-in domain in mid-kernel. -/
  | claim (c : Bool) (p : A2)
  /-- R397. Reads the directory entry of one key group into eight scalars. -/
  | eprobe (c : Bool) (p : A2)
  /-- R398. Ends the wave, which retires once its pending operations complete. -/
  | exit
  /-- R410. Power-on or device reset runs the boot ROM's firmware check, then DRAM training, metadata reset, B slot and FLOOR reset, link training and link 0 enumeration. -/
  | powerOn
  /-- R406. In recovery, the DOE mailbox accepts a firmware image load. Its operands in State.input: slot, img. -/
  | recoveryImageLoad
  /-- R408. An orderly power-down commits the field-life counters. -/
  | powerDown
  /-- R408. Every 10 minutes the field-life counts are committed to non-volatile store. -/
  | lifeCommit
  /-- R409. Reaching the power cap or a 105 °C junction makes the firmware lower the arithmetic clock in 100 MHz steps, with the engine clock held at half. -/
  | thermalThrottle
  /-- R409. At 115 °C the hub removes core power within 1 ms, saves no state and counts the trip. -/
  | thermalTrip
  /-- R399. A host PCI Express link trains, or retrains, to its width and rate, and a retrain is counted. Its operands in State.input: link in port, width in slot, rate in tenths of a GT/s in size. -/
  | pcieLinkTrain
  /-- R403. A peer port trains, records the neighbour's identity in PORTSTAT, and comes up only when a window names that identity on the port. Its operands in State.input: port, neighbour in value. -/
  | peerPortTrain
  /-- R405. A peer port goes down, and the requests already sent on it await the 50 µs timeout. Its operands in State.input: port. -/
  | peerPortDown
  /-- R405. 50 µs after a port goes down, its outstanding reads return poisoned data and its writes are dropped. Its operands in State.input: port. -/
  | peerDownTimeout
  /-- R404. A peer request is applied only inside a valid outgoing range naming its sender; otherwise a write is dropped, a read returns poison, and the drop is counted. Its operands in State.input: port, isWrite in write, addr, data, len of a read in size, and slot 1 for a write marked as poisoned data. -/
  | peerRequestIn
  /-- R319. A posted host write is applied at its home L2 in link arrival order, bumping versions and computing the ICV. Its operands in State.input: addr, data, poisoned in write, and in fn the virtual function whose IDE stream carries it (0 for none). At or above 2^56 it is the host's own store to its memory. -/
  | hostWriteIn
  /-- R319. A host read of device memory is served by the home L2 after holders are recalled. Its operands in State.input: addr, len in size, and in fn the virtual function whose IDE stream carries it (0 for none). With port 1 it reads the BAR0 registers of function fn from offset addr, with port 2 the notify page of queue `queue` of function fn. -/
  | hostReadIn
  /-- R247. An ATS completion or Page Request answer arrives, and whatever waited on the page (a wave, an engine, the CP or an ENABLE) is replayed or fails. Its operands in State.input: pasid in fn, page in addr, answer in grant. -/
  | pageResponse
  /-- R247. A host ATS invalidation removes translations and completes under the rule of R246 for pages that are not pinned. Its operands in State.input: pasid in fn, page in addr, count in size; op is 0 but for one whose completion waits. -/
  | atsInvalidation
  /-- R400. A virtual function's TDI entering CONFIG_LOCKED makes its partition confidential, draws a slice key and freezes the physical function's control of it. Its operands in State.input: f in fn. -/
  | tdiConfigLocked
  /-- R400. A TDI leaving RUN halts every wave of the partition as RESET does, zeroes its slice, and then returns control to the physical function. Its operands in State.input: f in fn. -/
  | tdiLeaveRun
  /-- R407. An SPDM VENDOR_DEFINED request returns an attestation report signed with both identity keys. Its operands in State.input: nonce. -/
  | attestationRequest
  /-- R31. ENABLE of a DISABLED queue reads and checks the descriptor, loads both indices and enters IDLE, or fails with BAD_QUEUE. Its operands in State.input: f in fn, q in queue; op is 0 but for the next try of an ENABLE that waits. -/
  | qcmdEnable
  /-- R54. DISABLE stops consumption; the queue becomes DISABLED once every consumed packet has started and completed. Its operands in State.input: f in fn, q in queue. -/
  | qcmdDisable
  /-- R54. RESET halts and frees the queue's waves without bequest, removes its queued job cards, clears sticky bits and CAUSE, and leaves the queue DISABLED. Its operands in State.input: f in fn, q in queue. -/
  | qcmdReset
  /-- R35. CLEAR clears the queue's sticky status bits and leaves CAUSE and STATE. Its operands in State.input: f in fn, q in queue. -/
  | qcmdClear
  /-- R34. A store to the notify page is checked for size, back, range and equality, and an accepted value makes packets available. Its operands in State.input: f in fn, q in queue, offset in addr, size, value. -/
  | notify
  /-- R57. CREATE checks the clusters and the slice and makes the partition LIVE with empty heap, closed domains and fresh state, or sets ERR. Its operands in State.input: p in part. -/
  | pctlCreate
  /-- R57. DESTROY frees the clusters and slice of a LIVE partition that no function is assigned to. Its operands in State.input: p in part. -/
  | pctlDestroy
  /-- R381. A write of PCSW makes the named context active by a partition context switch. Its operands in State.input: p in part, value. -/
  | pcsw
  /-- R246. A DPTINV write with SIZE 0–3 invalidates one page of the function from every TLB and translation cache and sets BUSY, or sets DROP while BUSY. Its operands in State.input: f in fn, va in value, size; write is true for a write of the physical function's driver. -/
  | dptinvPage
  /-- R246. A DPTINV write with SIZE 4 invalidates every translation of the function and sets BUSY. Its operands in State.input: f in fn; write is true for a write of the physical function's driver. -/
  | dptinvAll
  /-- R246. BUSY clears once every access translated through the old entries, and any deferred tile operation on pinned pages, has completed. Its operands in State.input: f in fn. -/
  | dptinvBusyClear
  /-- R380. BUSY still set 50 µs after a DPTINV write halts every wave of the partition with TRANSLATION FSUB 3 and puts every queue into ERROR. Its operands in State.input: f in fn. -/
  | pinFault
  /-- R246. A read of DPTSTAT returns BUSY and DROP and clears DROP. Its operands in State.input: f in fn. -/
  | dptstatRead
  /-- R92. A write of RESRIDX consumes residue space, drops the directory entries of passed records, and lets waiting residue writers go on. Its operands in State.input: p in part, value. -/
  | resridxWrite
  /-- R92. A write to any other register stores its value when the register's write rule allows, and is otherwise ignored whole. Its operands in State.input: f in fn, offset in addr, size, value. -/
  | registerWrite
  /-- R38. The CP reads an available packet's header with acquire, re-reads while V = 0, checks the packet, clears V and publishes the read index. Its operands in State.input: f in fn, q in queue. -/
  | packetConsume
  /-- R44. A started LAUNCH becomes a placement candidate for ceil(ITEMS / 64) waves and opens its estate-out domain. Its operands in State.input: f in fn, q in queue. -/
  | launch
  /-- R51. A started TILELAUNCH without FEED polls its count word until FINAL = 1 and then builds waves from record pairs. Its operands in State.input: f in fn, q in queue. -/
  | tilelaunch
  /-- R53. A TILELAUNCH with FEED = 1 binds its list and count word to a feed slot once any earlier feed there has completed. Its operands in State.input: f in fn, q in queue. -/
  | tilelaunchFeed
  /-- R51. At least once every 1 µs the CP reads a TILELAUNCH's count word with acquire, and sees FINAL, a larger COUNT or a bad record. Its operands in State.input: f in fn, q in queue, idx. -/
  | tileCountPoll
  /-- R47. BARRIER_AND completes when every named dependency signal is zero or negative. Its operands in State.input: f in fn, q in queue. -/
  | barrierAnd
  /-- R47. BARRIER_OR completes when any named dependency signal is zero or negative. Its operands in State.input: f in fn, q in queue. -/
  | barrierOr
  /-- R47. At least once every 1 µs the CP reads a barrier packet's dependencies with acquire at system scope. Its operands in State.input: f in fn, q in queue, idx. -/
  | barrierDepPoll
  /-- R48. A SIGNAL packet with OP 0 stores VALUE to TARGET with release at system scope and completes at once. Its operands in State.input: f in fn, q in queue. -/
  | signalStore
  /-- R48. A SIGNAL packet with OP 1 adds VALUE, wrapping, to TARGET with release at system scope and completes at once. Its operands in State.input: f in fn, q in queue. -/
  | signalAdd
  /-- R48. ESTATE_CLOSE waits for earlier launches naming CDOM to retire, then closes CDOM and completes when the close completes. Its operands in State.input: f in fn, q in queue. -/
  | estateClose
  /-- R48. A COPY packet copies LEN bytes at the engine clock, stores the bytes done to DONE, and enters COPY_FAULT on an early stop. Its operands in State.input: f in fn, q in queue. -/
  | copy
  /-- R48. A GRAMMAR_BIND packet binds a Bramble context to an image as gbind does, failing on an image not aligned to 128. Its operands in State.input: f in fn, q in queue. -/
  | grammarBind
  /-- R40. A packet not yet started whose DEADLINE has passed starts nothing, sets EXPIRED and EXPIDX, and completes. Its operands in State.input: f in fn, q in queue, idx. -/
  | packetDeadlineExpire
  /-- R41. When a packet's work is done and released, the CP decrements its completion signal with release at system scope and raises its IRQ. Its operands in State.input: f in fn, q in queue, idx. -/
  | packetComplete
  /-- R60. When resources free, a wave becomes ready or a hold ends, the CP places restarting waves and candidate waves in rank order, evicting, backfilling or blocking. Its operands in State.input: p in part. -/
  | placementPass
  /-- R65. After PAFFWIN ticks a held wave's affinity hold ends and it may be placed on any core. Its operands in State.input: p in part, launch in idx, wave in slot. -/
  | affinityHoldExpire
  /-- R60. A wave blocked for PBFLIM ticks stops every later wave of the pass from being placed until it is placed. Its operands in State.input: p in part. -/
  | backfillLimitExpire
  /-- R72. The head card of a core's task queue becomes a child wave on that core once its footprint fits. Its operands in State.input: cc in core. -/
  | taskCardBirth
  /-- R93. A heir's take is applied at the group's home once FORMING or MOVING ends, consuming or copying the slots that its active lanes take. Its operands in State.input: uid. -/
  | estateTake
  /-- R94. The estate transfer unit finishes filling a heir's estate window, locally or from another core, the Orchard or the residue buffer. Its operands in State.input: uid. -/
  | estateTransferDone
  /-- R143. A BORN wave whose clears and estate fill are done becomes READY. Its operands in State.input: uid. -/
  | waveBirthDone
  /-- R101. An evicted block, its pending writes landed, is written to its Orchard slot, goes to ORCHARD and frees its run. Its operands in State.input: block in idx. -/
  | estateEvictDone
  /-- R421. A residue place is written whole, and RESWIDX advances over the places written in the order they were given. Its operands in State.input: p in part. -/
  | residueRecordWritten
  /-- R104. At the group's home, once FORMING, MOVING, pending writes and residue space allow, one block of a closing domain is written as residue or discarded. Its operands in State.input: p in part, dom. -/
  | estateCloseStep
  /-- R103. A domain with TIMER ≠ 0 begins to close with REASON 3 once dtime reaches OPENTIME + TIMER. Its operands in State.input: p in part, dom. -/
  | domainTimerExpire
  /-- R155. An asynchronous register write lands, its scoreboard count and class counter fall, and a stalled reader may issue. Its operands in State.input: id in op. -/
  | asyncWriteLands
  /-- R268. A copy finishes or stops, its destination lines are released, and its token or semaphore is written with cause and bytes done. Its operands in State.input: id in op. -/
  | copyComplete
  /-- R300. A bload completes, making its slot VALID, POISONED or FAILED and writing its completion. Its operands in State.input: id in op. -/
  | bloadComplete
  /-- R297. A B slot reloaded from its tag after a context restore completes as VALID, FAILED or POISONED. Its operands in State.input: cc in core, slot. -/
  | bSlotReloadDone
  /-- R80. A forming pass leaves for the array when it holds 16 quarters or its oldest quarter has waited 64 cycles. Its operands in State.input: cc in core. -/
  | matrixPassDepart
  /-- R291. A pass finishes in the array and each of its quarters is applied to its tile. Its operands in State.input: cc in core. -/
  | matrixPassDone
  /-- R302. A walk finishes or stops at a failing output block and writes its completion target. Its operands in State.input: id in op. -/
  | mwalkComplete
  /-- R356. A Bramble operation completes and writes its status word and result value, or its semaphore, with release at core scope. Its operands in State.input: id in op. -/
  | brambleComplete
  /-- R373. A sealed stretch that reaches 1 ms halts the wave with WATCH. Its operands in State.input: uid. -/
  | watchdogExpire
  /-- R160. A wave eligible for 512 consecutive cycles without issuing becomes overdue and is chosen first. Its operands in State.input: uid. -/
  | waveOverdue
  /-- R387. A sleeping wave wakes when dtime reaches its issue time plus its interval. Its operands in State.input: uid. -/
  | sleepExpire
  /-- R183. The firmware completes an emulated f64 form, writing destinations, flags and pc in one step, or halts the wave. Its operands in State.input: uid. -/
  | firmwareEmulateDone
  /-- R386. The firmware writes an ecall's status and results and wakes the wave. Its operands in State.input: uid. -/
  | ecallDone
  /-- R376. Once its matrix operations and in-flight operations drain, a chosen wave's estate window, scratchpad, semaphores and tiles are saved and its resources freed, leaving it PREEMPTED. Its operands in State.input: uid. -/
  | waveTakeOff
  /-- R377. A restarting wave's scratchpad, LIVE block and checkpoint are restored, it acquires at cluster scope and issues at its region head. Its operands in State.input: uid. -/
  | waveRestartDone
  /-- R381. PSLICE ticks after a context became active, the CP switches to the next context that has work. Its operands in State.input: p in part. -/
  | contextSliceExpire
  /-- R383. Once the outgoing context's halt and drains are complete, each core's save engine swaps the whole core state with the shadow slot. Its operands in State.input: p in part. -/
  | contextHaltDone
  /-- R383. The incoming context's state is restored, and its waves issue and its packets are consumed again. Its operands in State.input: p in part. -/
  | contextRestoreDone
  /-- R392. Once its A-pipe and ST operations have completed, a retiring wave's block takes its route, its claims are consumed, it leaves its cohort and its resources are freed. Its operands in State.input: uid. -/
  | waveRetire
  /-- R314. An L1 evicts a line and writes its dirty bytes back to the home, bumping its version. Its operands in State.input: core, line in addr. -/
  | l1Evict
  /-- R253. An L2 evicts a line, recalling holders of a synchronising line and raising FLOOR for a system-memory line. Its operands in State.input: line in addr; slot is 0 for its home, or d + 1 for the copy in die d's RDC. -/
  | l2Evict
  /-- R259. A store, a non-returning atomic, a hinc, cwb or cinv stands in the L1 or is applied at its home or in scratchpad, and the wave's ST counter falls. Its operands in State.input: id in op. -/
  | storeApplied
  /-- R294. A running walk's load of one of its B slots completes, and the walk quarters that use that slot enter the batch-forming queue. Its operands in State.input: id in op. -/
  | walkBLoadDone
  /-- R408. Each hour of power-on adds one to the power-on-hours counter and to the junction-temperature bin of that hour. Its operands in State.input: celsius in size. -/
  | powerOnHour
deriving DecidableEq, Repr

end Sys2Proof
end

