-- ==== Sys2Proof/Config.lean ====
section
/-! DEFINITION. What the part fixes (R3, R6, R25) and the free values: constants without a body, of which nothing can be
proved but what holds for every value. State.draws numbers the draws of a fresh value. -/

namespace Sys2Proof.Config

/-- The part's stepping key (R25). -/
def stepping : Byte := 0x11
def coreCount : Nat := 192
def coresPerCluster : Nat := 8
def coresPerDie : Nat := 48
def clusterCount : Nat := 24
def dieCount : Nat := 4
def slotCount : Nat := 128
/-- Register-file blocks of a core (R6). -/
def blockCount : Nat := 768
def tileCount : Nat := 256
def semCount : Nat := 64
def spadKiB : Nat := 512
def bslotCount : Nat := 2048
/-- Bytes of DRAM of one die (R6). -/
def dieBytes : Nat := 96 * 2 ^ 30
/-- Bytes of device DRAM (R6): device physical addresses run below it. -/
def dramBytes : Nat := 384 * 2 ^ 30
/-- PA[56] = 1: system memory, or a peer with PA[55] = 1 (R401). -/
def sysBase : Nat := 2 ^ 56
def peerBase : Nat := 2 ^ 56 + 2 ^ 55
def lineBytes : Nat := 128

/-- The byte that a peer device answers, in its n-th answer, for a physical address: the spec of this device gives no value.
DESIGN CHOICE (log 7). -/
opaque peerByte : Nat → Nat → Byte
/-- A peer answers with poisoned data in its n-th answer for a line (R404): as for a range that it does not open. DESIGN CHOICE (log 13). -/
opaque peerPoisoned : Nat → Nat → Bool
/-- A word that the spec leaves open. DESIGN CHOICE (log 7). -/
opaque freeWord : Nat → Word
/-- Layer and bank, 32 · layer + bank, of the DRAM bank that holds a line (R408). DESIGN CHOICE (log 51). -/
opaque dramBank : Nat → Nat
/-- The slice key drawn when a TDI is locked (R400): not 0. -/
opaque freeKey : Nat → Nat
/-- Major, minor and build of the running firmware, which `ecall` FWVERSION reports (R386). DESIGN CHOICE (log 61). -/
opaque firmwareVersion : List Byte → Word × Word
/-- SHA-384 of bytes (R406). DESIGN CHOICE (log 8). -/
opaque sha384 : List Byte → BitVec 384
/-- Ed25519 and ML-DSA-65: does a signature of bytes verify under a key (R406)? DESIGN CHOICE (log 8). -/
opaque ed25519Verifies : BitVec 256 → List Byte → BitVec 512 → Bool
opaque mlDsaVerifies : List Byte → List Byte → List Byte → Bool
/-- The signatures of the identity keys over bytes (R407), 64 and 3,309 bytes long: the keys follow from the started image's body
digest. -/
opaque ed25519Sign : BitVec 384 → List Byte → BitVec 512
opaque mlDsaSign : BitVec 384 → List Byte → BitVec 26472
/-- The register contents of the confidential partitions as an attestation report hashes them (R407): layout open. -/
opaque registerBytes : List (List (BitVec 64)) → List Byte
/-- Digests of the public keys, and the minimum security version, that the fuses hold (R406). -/
opaque fusedEdDigest : BitVec 384
opaque fusedMlDigest : BitVec 384
opaque fusedSecurityVersion : Word

end Sys2Proof.Config
end

