-- ==== Sys2Proof/Machine/State.lean ====
section
/-! DEFINITION. The state of the device as plain data (R142 and the rules each field names), the reasons a step can
stop, and State.reset: the device as bring-up leaves it (R410). Registers and memories are sparse tables (KV). -/

namespace Sys2Proof.Machine

/-- Why the machine stops. No rule of the spec stops the device: every trap is a next state. -/
inductive Fault where
  /-- Raised by exec of a wave instruction when no wave stands at the issue stage (State.cur names none). The step
  function never does this: it sets State.cur before it calls exec. Safe: the model stops where the hardware has no step. DESIGN CHOICE (log 15). -/
  | noIssuingWave
deriving DecidableEq, Repr

/-- Why the model has no meaning for an instruction. -/
inductive Refusal where
  /-- Raised by a refused arm of exec: the instruction of this mnemonic has no meaning in the model yet. Safe: the model stops. -/
  | notModelled (mnemonic : String)
deriving DecidableEq, Repr

/-- The class counters (R156, R259). -/
inductive Cls where
  | LD | ST | CP | MM
deriving DecidableEq, Repr

/-- An entry of the mask stack (R149): exec and fmt. -/
structure MaskEntry where
  exec : LaneMask
  fmt : Word
deriving DecidableEq, Repr

/-- The seven registers that an inline run saves and replaces (R71), the PARENT counter of the inline child (R73), and the
destination of the `spawn` (R199). DEDUCED (log 39). -/
structure InlineSave where
  args : DWord
  icount : DWord
  ibase : DWord
  ctaglo : Word
  ctaghi : Word
  sdepth : Nat
  inld : Nat
  parent : Nat
  sd : Nat
deriving DecidableEq, Repr

/-- An entry of the call stack (R196): the return address with its kind in bits 1:0, and an inline frame's save. -/
structure CallEntry where
  ra : DWord
  save : Option InlineSave
deriving DecidableEq, Repr

/-- The kernel descriptor as the CP read it (R15, R20). -/
structure KDesc where
  addr : Nat
  entry : DWord
  step : Byte
  gen : Byte
  exp : Bool
  dep : Bool
  inld : Nat
  sema : Nat
  acc : Nat
  spad : Nat
  ewin : Nat
  wwin : Nat
  tv : Bool
  trapEntry : DWord
  ninh : Nat
  nbeq : Nat
  beqlist : List Nat
  inhmap : List Nat
  kid : DWord
  mstk : Nat
deriving DecidableEq, Repr

/-- The descriptor permits the experimental forms of this stepping (R25). -/
def KDesc.permits (d : KDesc) : Bool := d.exp && d.step == 0x11

/-- The footprint that a wave holds (R16). -/
structure Footprint where
  ewin : Nat
  wwin : Nat
  spad : Nat
  acc : Nat
  sema : Nat
deriving DecidableEq, Repr

/-- A space in which addresses translate (R56): the function, PV and the PASID. -/
structure Space where
  fn : Nat
  pv : Bool
  pasid : Nat
deriving DecidableEq, Repr

/-- An attention-mask parameter copy (R296, R304): CLEN, NROWS, ROWBASE and the entries (AM, POS). -/
structure ParamCopy where
  clen : Nat
  nrows : Nat
  rowbase : Nat
  rows : List (LaneMask × Nat)
deriving DecidableEq, Repr

/-- A barrier group (R327): level, place (cluster, die or partition number), name. Level 0 is a cohort of a cluster. -/
structure GroupKey where
  cx : Nat
  level : Nat
  place : Nat
  name : Nat
deriving DecidableEq, Repr

/-- Why a wave is parked (R145). -/
inductive Park where
  /-- A replayable translation fault: the pages it waits for. -/
  | page (sp : Space) (pages : List Nat)
  | sem (sem : Nat) (amount : Word) (d : Nat)
  | word (addr : Nat) (d : Nat)
  | group (g : GroupKey)
  | joining (g : GroupKey)
  | batch (n : Nat)
  | counters (ld st cp mm : Nat)
  | sleep (untilTime : DWord) (sem : Bool)
  | emulate (i : Instr)
  | ecall (svc : Nat) (a : Nat)
  | feed (slot : Nat) (d : Nat)
deriving DecidableEq, Repr

/-- The life states of R144. READY and SEALED are `ready` with the seal flag clear and set; SAVED is a wave whose
context is not active; a RETIRED wave is no longer in the list. `exiting` is a wave that waits at R391. -/
inductive Life where
  | born
  | ready
  | parked (why : Park)
  | preempted
  | restoring
  | exiting
deriving DecidableEq, Repr

/-- What a `ckpt` saved (R371). -/
structure Checkpoint where
  exec : LaneMask
  k : KV LaneMask
  fmt : Word
  scc : Word
  maskStack : List MaskEntry
  callStack : List CallEntry
  tbudget : Word
  inld : Nat
  head : DWord
  args : DWord
  icount : DWord
  ibase : DWord
  ctaglo : Word
  ctaghi : Word
  sdepth : Nat
  sregs : List (Nat × Word)
  vregs : List (Nat × VReg)
deriving DecidableEq, Repr

/-- One wave (R142). Windows, scratchpad, tiles and semaphores name runs of the core's resources. -/
structure Wave where
  /-- Names the wave for the model: no two waves ever share it. -/
  uid : Nat
  core : Nat
  slot : Nat
  part : Nat
  cx : Nat
  fn : Nat
  queue : Nat
  launch : Nat
  /-- The wave's index g in its launch (R11). -/
  index : Nat
  child : Bool
  desc : KDesc
  foot : Footprint
  space : Space
  prio : Nat
  placed : Nat
  life : Life
  pc : DWord
  /-- The pipes of the earlier members of the current issue group (R112). -/
  grp : List Pipe
  /-- The transfer pending in the current group (R113). -/
  xfer : Option DWord
  exec : LaneMask
  s : KV Word
  k : KV LaneMask
  fmt : Word
  scc : Word
  maskStack : List MaskEntry
  callStack : List CallEntry
  tbudget : Word
  inld : Nat
  sdepth : Nat
  args : DWord
  icount : DWord
  ibase : DWord
  ctaglo : Word
  ctaghi : Word
  parent : Nat
  /-- First register-file block of each window (R99, R151). -/
  ebase : Nat
  wbase : Nat
  spadBase : Nat
  accBase : Nat
  semBase : Nat
  /-- Backing-store registers written since birth (R146). -/
  backed : List Nat
  sealFlag : Bool
  sealSince : DWord
  inTrap : Bool
  hidden : List Word
  /-- The seal flag as it stood at the user trap (R368, R388). -/
  hiddenSeal : Bool
  /-- 0, or the wave's place in the order of becoming overdue (R160). -/
  overdueAt : Nat
  /-- The batch counter LAST (R292). -/
  last : Nat
  /-- Operations issued since the last `mfence`, and the batches not yet complete (number, operations). -/
  openOps : List Nat
  batches : List (Nat × List Nat)
  params : Option ParamCopy
  didWill : Bool
  /-- Slots claimed and not yet consumed (R98): block id and slots. -/
  claims : List (Nat × LaneMask)
  /-- The lanes' inheritance keys at birth (R85): none for a lane without a key. -/
  keys : List (Option Nat)
  /-- Takes still to be applied before the first issue (R94): key groups. -/
  takes : List Nat
  /-- Values taken and not yet moved into the estate window (R94): register, lanes and values. -/
  fill : List (Nat × LaneMask × VReg)
  /-- Chosen for fine pre-emption: it issues no further group (R376). -/
  chosen : Bool
  ckpt : Option Checkpoint
  /-- A halting trap or RESET ended the wave: it retires without bequest (R367, R390). -/
  halted : Bool
  /-- The instruction in which the wave is parked: its words, C bit and pipe, and its place in the order of parking. -/
  parkWords : Nat
  parkC : Bool
  parkPipe : Pipe
  ticket : Nat
  /-- Scope of a release fence that the wave's next write will use up (R313); 0 for none. -/
  fence : Nat
  /-- Its instruction has been issued and its access waits for an engine (R263, R321): it is tried again when an operation has completed. -/
  stall : Bool
  /-- Pages whose Page Request the host refused while the wave waited for them: its replay traps (R244, R247). -/
  refused : List Nat
  /-- A restarting wave blocked in placement (R60): when the block stops the pass, and whether that time has come. DEDUCED (log 56). -/
  blocked : Option (DWord × Bool)
deriving DecidableEq, Repr

/-- One register write of an operation that lands later (R155). A vector write carries its lanes. -/
inductive RegWrite where
  | s (n : Nat) (v : Word)
  | v (n : Nat) (lanes : LaneMask) (v : VReg)
  | k (n : Nat) (lanes : LaneMask) (v : LaneMask)
deriving DecidableEq, Repr

/-- How an engine reports (R126, R268): nothing, a token in s(ct), s(ct+1), or a semaphore. -/
inductive Completion where
  | none
  | token (s : Nat)
  | semOne (n : Nat)
  | semBytes (n : Nat)
deriving DecidableEq, Repr

/-- A layout record as an instruction reads it (R240). -/
structure Layout where
  raw : List Byte
  base : Nat
  ty : Nat
  ndim : Nat
  circ : Nat
  perm : Nat
  csm : Bool
  sp : Bool
  box : List Nat
  extent : List Nat
  stride : List Int
deriving DecidableEq, Repr

/-- A walk card (R293) with what `mwalk` captured at issue (R302). -/
structure WalkJob where
  a : Layout
  b : Layout
  cRec : Layout
  bias : Nat
  scale : Word
  scv : Bool
  mask : Bool
  params : Option ParamCopy
  /-- The core's number of the first tile, and how many tiles the walk uses. -/
  accBase : Nat
  accN : Nat
  mt : Nat
  slotBase : Nat
  slotN : Nat
  levels : List (Nat × Nat)
  m0 : Int
  n0 : Int
  k0 : Int
  g0 : Int
  acct : Nat
  rnd : Nat
  sat : Bool
  /-- The number of index tuples begun, and C bytes written so far. -/
  pos : Nat
  bytes : Nat
  poisoned : Bool
  stop : Nat
  side : Bool
  /-- The last tuple begun was the last along K of its block, whose epilogue has not yet run. -/
  epi : Bool
  /-- Rows and columns of the accumulating blocks into which poison has come: tile and row, tile and column. -/
  badRows : List (Nat × Nat)
  badCols : List (Nat × Nat)
deriving DecidableEq, Repr

/-- The Bramble operations (R356). -/
inductive BrambleFn where
  | gbind | gmask | gmaskDelta | gstep | gfork | groll | gcommit | gfree
deriving DecidableEq, Repr

/-- One Bramble operation on one context: lane (for `.v`), context address, second operand, immediate. -/
structure BrambleJob where
  fn : BrambleFn
  lane : Nat
  ctx : Nat
  arg : Nat
  imm : Int
  /-- HIST as the peer answered at issue, of a record in a peer window. -/
  hist : Option Nat := none
deriving DecidableEq, Repr

/-- The kinds of operation that complete after issue (R155, R259, R268, R292). -/
inductive OpKind where
  | regs (writes : List RegWrite)
  | store
  /-- `cpy` (R270): destination, source, length, DSP, SSP. -/
  | copy (dst src len : Nat) (dsp ssp : Bool)
  /-- `cpyt` (R271). -/
  | box (dst src : Layout) (dc sc : List Int)
  /-- `bload` (R300): slot, record and coordinates. -/
  | bload (slot : Nat) (rec : Layout) (coords : List Int)
  | walk (w : WalkJob)
  /-- Bramble operations (R356): the register of the status words, the jobs left, whether one stopped early, and the status words so
  far, by lane. -/
  | bramble (vec : Option Nat) (jobs : List BrambleJob) (stopped : Bool) (words : List (Nat × Word))
  /-- `mmq` (R299): its quarters stand in State.quarters until applied. -/
  | mmq
  | accz (tile n : Nat)
  | accrd (d tile g n : Nat) (ty acct rnd : Nat) (sat : Bool) (lanes : LaneMask) (z : Bool)
  | accwr (tile g n : Nat) (ty : Nat) (lanes : LaneMask) (vals : List VReg)
  /-- The post of a card by `hinc` (R274): the card, the target core, the physical address of MISSED, and of the issuing wave its
  sdepth, priority and descriptor. -/
  | post (card : Nat) (target : Nat) (missed : Nat) (depth prio : Nat) (desc : KDesc)
  /-- `claim` (R396): the first destination, the register count, kd, the lanes with their keys whose groups have still to be taken, and
  of the others, each with the words that it receives, whether its slot was present. -/
  | claim (d n kd : Nat) (keys : List (Nat × Nat)) (got : List (Nat × Bool × List Word))
  /-- An operation that is done but for its register writes and its completion (status word, result, whether it stopped early, bytes):
  those of a wave that leaves its core do not land (R376). -/
  | report (writes : List RegWrite) (status result : Word) (stopped : Bool) (bytes : Nat)
  /-- The decrement of PARENT (R73): the address. -/
  | parent (addr : Nat)
  /-- The CP's write of a trap record (R366) with the error entry that follows it, and its decrement of ERRSIG (R54). -/
  | trapRecord (fn q : Nat) (addr : Nat) (va : Option Nat) (bits : Nat)
  | errSignal (fn q : Nat) (addr : Nat)
deriving DecidableEq, Repr

/-- Where a captured register write lands in an estate (R88, R97): the operation, the register that it writes, the estate
register (of a block) or register-file row (of a run adopted in place), and the slot that each lane fills. -/
structure Landing where
  op : Nat
  reg : Nat
  row : Nat
  slots : List (Option Nat)
deriving DecidableEq, Repr

/-- A page as a tile operation translated it at issue (R379): virtual page, physical page base, W, PIN, and whether a
deferred invalidation keeps this translation in force for the operation. -/
structure Pin where
  page : Nat
  pa : Nat
  w : Bool
  pin : Bool
  held : Bool
deriving DecidableEq, Repr

/-- A translated address and what its page permits (R245). -/
structure Page where
  pa : Nat
  w : Bool
  x : Bool
  nol1 : Bool
  pin : Bool
deriving DecidableEq, Repr

/-- Who reaches memory (R244 to R247, R321): the address space, the partition whose slice bounds it, the translation buffers
that it looks in, the pages refused to it, whether it is the CP, which sees State.atsFailed, and, for an engine's operation, its
number: only operations issued before it hold it off a line. -/
structure View where
  sp : Space
  part : Nat
  tlbs : List Nat
  refused : List Nat
  cp : Bool
  op : Option Nat
deriving DecidableEq, Repr

/-- A translation held in a core's TLB (owner 0 to 191), a die's translation cache (192 to 195) or a core's instruction TLB
(196 and up): function, first virtual page, how many pages of 4 KiB, and the page at its first byte (R115, R244, R245). -/
structure TlbEntry where
  owner : Nat
  fn : Nat
  first : Nat
  pages : Nat
  page : Page
deriving DecidableEq, Repr

/-- A line of a core's instruction cache (R115). -/
structure CodeLine where
  core : Nat
  line : Nat
  data : List Byte
deriving DecidableEq, Repr

/-- The error state of a line's ECC (R249, R250): the code of the line, or an error that the code corrects, or one it does not. -/
inductive Ecc where
  | good | correctable | uncorrectable
deriving DecidableEq, Repr

/-- An operation in flight. `uid` is the issuing wave; an operation of the CP carries the packet instead. -/
structure Op where
  id : Nat
  uid : Nat
  core : Nat
  cx : Nat
  part : Nat
  launch : Nat
  space : Space
  cls : Option Cls
  pipeA : Bool
  kind : OpKind
  done : Completion
  /-- Packet of the CP, as (function, queue, index). -/
  packet : Option (Nat × Nat × Nat)
  /-- Physical lines the engine owns (R321). -/
  owned : List Nat
  /-- Register writes and completions are dropped (R261, R376, R391). -/
  dropped : Bool
  /-- Waits for these pages (R255). -/
  waits : List Nat
  /-- Register-file rows that its writes will reach (R64, R97). -/
  rows : List Nat
  /-- Address of the issuing instruction. -/
  pc : DWord
  /-- Translations that a deferred invalidation leaves in force for it (R379). -/
  pins : List Pin
  /-- Pages whose Page Request the host refused while the operation waited for them (R247, R255). -/
  refused : List Nat
  /-- Captured writes that land in runs adopted in place (R97). -/
  moved : List Landing
  /-- The scratchpad allocations whose lines it owns (R321, R392): address of their first byte as the wave reaches it, key and length. -/
  spads : List (Nat × Nat × Nat)
deriving DecidableEq, Repr

/-- A quarter in the batch-forming queue (R80) or in a pass. `tile` is the core's tile number. `rows` gives for each active
row its number and the expanded A row as raw element codes; `taken` gives the K positions whose products are taken (R289). -/
structure Quarter where
  opId : Nat
  uid : Nat
  cc : Nat
  slot : Nat
  tile : Nat
  aty : Nat
  bty : Nat
  sp : Bool
  acct : Nat
  rows : List (Nat × List Nat)
  taken : List (Nat × List Bool)
deriving DecidableEq, Repr

/-- The states of a B slot (R283); a POISONED one keeps the address of its first poisoned source line. -/
inductive BState where
  | empty | loading | valid | failed (cause : Nat) | poisoned (va : Nat)
deriving DecidableEq, Repr

/-- A B slot (R282, R283): state, type, source tag (record, coordinates, space and cache hint), 128 column slices of 32 bytes, and the side band of a
q4n slot. `held` is the tag of the load whose data the slot holds, which a later `bload` leaves while it waits for quarters (R284), and `reload` says
that a context restore has yet to load that data again (R297). -/
structure BSlot where
  state : BState
  ty : Nat
  tag : Option (Layout × List Int × Space × Nat)
  cols : List (BitVec 256)
  side : List (Byte × Word)
  held : Option (Layout × List Int × Space × Nat)
  reload : Bool
deriving DecidableEq, Repr

/-- A job card in a task queue (R69, R72). -/
structure Card where
  entry : DWord
  args : DWord
  parent : Nat
  tag : DWord
  depth : Nat
  prio : Nat
  lanes : Nat
  wwin : Nat
  spad : Nat
  acc : Nat
  sema : Nat
  mstk : Nat
  launch : Nat
  desc : KDesc
  fn : Nat
  queue : Nat
  space : Space
  part : Nat
  cx : Nat
  devScope : Bool
deriving DecidableEq, Repr

/-- A line in a core's L1 (R314): the bytes, which of them are dirty, and whether the clean bytes are filled. -/
structure L1Line where
  core : Nat
  line : Nat
  data : List Byte
  dirty : BitVec 128
  filled : Bool
deriving DecidableEq, Repr

/-- A line in a die's RDC (R248). -/
structure RdcLine where
  die : Nat
  line : Nat
  data : List Byte
deriving DecidableEq, Repr

/-- A system-memory line in its proxy L2 slice (R253): the bytes that the device has written are dirty. -/
structure ProxyLine where
  line : Nat
  data : List Byte
  dirty : BitVec 128
  version : Nat
deriving DecidableEq, Repr

/-- A holder of a synchronising line (R315): the core and its released lines that are still dirty in its L1 (R316). -/
structure Holder where
  line : Nat
  core : Nat
  released : List Nat
deriving DecidableEq, Repr

/-- The queue states (R34). -/
inductive QState where
  | idle | active | error | disabled
deriving DecidableEq, Repr

/-- The queue descriptor as ENABLE read it (R30). -/
structure QDesc where
  qbase : Nat
  ridxAddr : Nat
  widxAddr : Nat
  qlog : Nat
  pmax : Nat
  pasid : Nat
  pv : Bool
  ie : Bool
  vec : Nat
  errSig : Nat
  trapAddr : Nat
deriving DecidableEq, Repr

/-- Where a consumed packet stands (R39). -/
inductive PStage where
  | consumed | started | complete
deriving DecidableEq, Repr

/-- A consumed packet (R36, R38): its 64 bytes as one number, and the descriptor read for it (R20). -/
structure Packet where
  idx : Nat
  raw : BitVec 512
  desc : Option KDesc
  stage : PStage
  expired : Bool
  startTime : DWord
  launch : Nat
  /-- A TILELAUNCH that polls its count word, a barrier or an ESTATE_CLOSE under way. -/
  waits : Bool
  /-- The error that the queue enters once the packet has completed (R48): 0 for none. -/
  fail : Nat
deriving DecidableEq, Repr

/-- An ENABLE that waits for a page (R31): for the descriptor, at the address that QDESC gave, or for an index that the descriptor
names. -/
inductive Enabling where
  | no
  | descriptor (addr : Nat)
  | indices (d : QDesc)
deriving DecidableEq, Repr

/-- One queue (R29, R34). -/
structure Queue where
  fn : Nat
  q : Nat
  qdescAddr : DWord
  state : QState
  desc : QDesc
  widx : Nat
  ridx : Nat
  cause : Nat
  expIdx : Nat
  tileClamp : Bool
  expired : Bool
  notifyBack : Bool
  notifySize : Bool
  notifyRange : Bool
  disabling : Bool
  enabling : Enabling
  /-- Trap records written or skipped since ENABLE (R366). -/
  records : Nat
  packets : List Packet
deriving DecidableEq, Repr

/-- A launch (R11) as placement and completion see it (R59, R393). -/
structure Launch where
  id : Nat
  fn : Nat
  queue : Nat
  idx : Nat
  part : Nat
  cx : Nat
  space : Space
  desc : KDesc
  prio : Nat
  start : DWord
  args : DWord
  items : Nat
  keyoff : Nat
  ein : Option Nat
  eout : Option Nat
  /-- For a TILELAUNCH: list address and record count C. -/
  tile : Option (Nat × Nat)
  nwaves : Nat
  nextWave : Nat
  /-- Waves under affinity hold: index, the block awaited, time at which the hold ends (R65). -/
  holds : List (Nat × Nat × DWord)
  /-- Waves whose hold has ended and that are not yet placed. -/
  released : List Nat
  /-- Waves that have been blocked as next wave (R60): index, when that stops the pass, and whether the time has come. -/
  blocked : List (Nat × DWord × Bool)
  /-- No wave is created from this index on: its record is bad (R49). -/
  stopAt : Option Nat
  /-- Every wave below this index has come up in a placement pass (R65). -/
  seen : Nat
  prevCluster : Option Nat
  /-- A wave of it was halted by a trap: no further wave is built, and it never completes (R54). -/
  broken : Bool
deriving DecidableEq, Repr

/-- The number of waves that the CP may create (R49). -/
def Launch.limit (l : Launch) : Nat := min l.nwaves (l.stopAt.getD l.nwaves)

/-- The CP will create no further wave of the launch (R49, R54, R103). -/
def Launch.created (l : Launch) : Bool := l.broken || (decide (l.limit ≤ l.nextWave) && l.holds.isEmpty && l.released.isEmpty)

/-- An estate domain (R84): its state is CLOSED, OPEN or CLOSING. -/
inductive DState where
  | closed | open | closing (reason : Nat)
deriving DecidableEq, Repr

structure Domain where
  state : DState
  keep : Bool
  closeOnHeir : Bool
  residue : Bool
  timer : Nat
  openTime : DWord
  /-- The context whose launch opened it. -/
  cx : Nat
  /-- The heir launch (R103), and the packet whose ESTATE_CLOSE waits for the close. -/
  heir : Option Nat
  closers : List (Nat × Nat × Nat)
  /-- Blocks that the close waits for (R104). -/
  remaining : List Nat
deriving DecidableEq, Repr

/-- Where an estate block is (R91). -/
inductive Loc where
  | forming | resident | moving | orchard | residue | live
deriving DecidableEq, Repr

/-- The route that a `will` reserved (R88). -/
inductive Route where
  | resident | orchard (slot : Nat) | residue (place : Nat) (reason : Nat)
deriving DecidableEq, Repr

/-- An estate block (R87) with its directory entry's fields (R91). `data` holds the captured registers while the block
is FORMING. A LIVE block (R105) has the domain number 4096, which no instruction or packet can name. -/
structure Block where
  id : Nat
  part : Nat
  cx : Nat
  dom : Nat
  group : Nat
  e : Nat
  present : LaneMask
  loc : Loc
  /-- Where a MOVING block still is. -/
  held : Loc
  route : Route
  btime : DWord
  core : Nat
  rfblk : Nat
  slot : Nat
  waveIdx : Nat
  uid : Nat
  inDir : Bool
  data : List VReg
  /-- Outstanding writes that land in the block (R97). -/
  pend : List Landing
  /-- Where its entry lies in the directory (R91). -/
  dirIdx : Nat
  /-- The heir into whose window it is being moved (R107). -/
  taker : Option Nat
  /-- When it began to move to memory, among the operations in the order of their numbers (R321). -/
  since : Nat
deriving DecidableEq, Repr

/-- A residue place (R421): start and length in bytes, the PAD that begins it, whether written, and its record. -/
structure Place where
  part : Nat
  start : Nat
  pad : Nat
  len : Nat
  written : Bool
deriving DecidableEq, Repr

/-- A cohort (R324). -/
structure Cohort where
  key : GroupKey
  gen : Word
  members : List Nat
  arrived : List Nat
  pendJoin : List Nat
  pendLeave : List Nat
deriving DecidableEq, Repr

/-- A named barrier group (R328). -/
structure Group where
  key : GroupKey
  gen : Word
  count : Nat
  expct : Nat
deriving DecidableEq, Repr

/-- An admission heap entry (R76). -/
structure HeapEntry where
  deadline : Nat
  reqid : Nat
  cost : Nat
  swf : Nat
deriving DecidableEq, Repr

/-- A tile feed bound to a slot (R53, R205). -/
structure Feed where
  part : Nat
  slot : Nat
  fn : Nat
  queue : Nat
  idx : Nat
  launch : Nat
  list : Nat
  countAddr : Nat
  maxrec : Nat
  next : Nat
  count : Nat
  final : Bool
  bad : Bool
  space : Space
deriving DecidableEq, Repr

/-- A region-class entry (R254). -/
structure RegionClass where
  v : Bool
  func : Nat
  basePage : Nat
  limitPage : Nat
  cls : Nat
deriving DecidableEq, Repr

/-- What fine pre-emption makes room for on a core (R375): a restarting wave (its uid), or a launch (its id) and the index of
its next wave. -/
structure Making where
  restart : Bool
  id : Nat
  index : Nat
  core : Nat
deriving DecidableEq, Repr

/-- One partition and its registers (R57, R66, R92, R378, R381). -/
structure Part where
  live : Bool
  clusters : Nat
  dbase : Nat
  dsize : Nat
  err : Nat
  affwin : Word
  bflim : Word
  orchBase : DWord
  orchSlots : Word
  resBase : DWord
  resSize : Word
  resWidx : DWord
  resRidx : DWord
  resVidx : DWord
  dirBase : DWord
  dirSize : Word
  bstore : DWord
  ckBase : DWord
  slice : Word
  active : Nat
  activeSince : DWord
  /-- A context switch under way: the incoming context, and whether the halt is complete (R382). -/
  switching : Option (Nat × Bool)
  confidential : Bool
  sliceKey : Nat
  /-- The directory entries that its backing store holds (R106). -/
  dirKept : List Nat
  classes : List RegionClass
  heap : List HeapEntry
  /-- The core that waves chosen for fine pre-emption are leaving, and for whom (R375). DEDUCED (log 18). -/
  making : Option Making
deriving DecidableEq, Repr

/-- A peer window entry (R404). -/
structure PeerWindow where
  v : Bool
  w : Bool
  dir : Bool
  peer : Nat
  port : Nat
  logsize : Nat
  pbase : Nat
deriving DecidableEq, Repr

/-- The TDI state of a virtual function (R400). -/
inductive Tdi where
  | unlocked | locked | run
deriving DecidableEq, Repr

/-- One function's own registers (R58, R246, R400, R404). -/
structure Func where
  assigned : Bool
  ctx : Nat
  part : Nat
  dptRoot : DWord
  busy : Bool
  busySince : DWord
  /-- Operations that keep BUSY set (R379). -/
  busyOps : List Nat
  drop : Bool
  tdi : Tdi
  windows : KV PeerWindow
deriving DecidableEq, Repr

/-- A peer port (R403). -/
structure Port where
  up : Bool
  neighbour : Half
  trained : Bool
  /-- Operations with requests sent and not yet answered. -/
  outstanding : List Nat
  /-- Those whose requests were lost when the port went down, and when each ends, 50 µs after it (R405). -/
  lost : List (Nat × DWord)
deriving DecidableEq, Repr

/-- A write that went out on a peer port (R404, R405): the device on the port, the address there, and the bytes. -/
structure PeerSend where
  port : Nat
  peer : Nat
  addr : Nat
  data : List Byte
  /-- Marked as poisoned data (R251). -/
  bad : Bool
deriving DecidableEq, Repr

/-- A PCI Express link (R399). -/
structure Link where
  trained : Bool
  width : Nat
  /-- In tenths of a GT/s. -/
  rate : Nat
  /-- Requests of the device to system memory that it has carried (R401): the model's own count. -/
  carried : Nat
deriving DecidableEq, Repr

/-- Power and firmware state (R406, R409, R410). -/
inductive Power where
  | running | recovery | off
deriving DecidableEq, Repr

/-- The operands of an event of the opcode table: each event's docstring (Sys2Proof.Instr) says which it reads. An event is
a step of the device that no instruction word encodes, so its operands are the machine's input, not fields of a word. DESIGN CHOICE (log 14). -/
structure Input where
  fn : Nat := 0
  queue : Nat := 0
  part : Nat := 0
  port : Nat := 0
  core : Nat := 0
  slot : Nat := 0
  uid : Nat := 0
  op : Nat := 0
  idx : Nat := 0
  dom : Nat := 0
  addr : Nat := 0
  size : Nat := 0
  value : DWord := 0
  write : Bool := false
  data : List Byte := []
  nonce : BitVec 256 := 0
  img : Option FirmwareImage := none
  grant : Option PageGrant := none
deriving DecidableEq, Repr

/-- A turn of the schedule: an event of the table, time passing, or one scheduler of a core issuing. DESIGN CHOICE (log 57). -/
inductive Turn where
  | ev (i : Instr) (inp : Input)
  | tick (n : Nat)
  | issue (core sched : Nat)
  /-- The host's refusal of a page has reached everything of the CP that waited for it (R247): a later miss asks again. -/
  | refusalOver (pasid page : Nat)
  /-- Bits of a line of device DRAM flip (R249, R250): what its error-correcting code will find. -/
  | upset (line : Nat) (found : Ecc)
  /-- Bits of an 8-byte word of scratchpad flip, beyond what its code corrects (R251): the key of the word. -/
  | spadUpset (word : Nat)
deriving DecidableEq, Repr

/-- The device. -/
structure State where
  /-- Device time (R151) in ticks of 1 ns. -/
  dtime : DWord
  /-- The wave at the issue stage, for exec. -/
  cur : Option Nat
  /-- The operands of the event under way, for exec. DESIGN CHOICE (log 14). -/
  input : Input
  /-- What happens next, oldest first: due events, inputs of the outside world, and the choices that the spec leaves open. DESIGN CHOICE (log 1). -/
  agenda : List Turn
  /-- Counter of the free values drawn so far: the model's own field. -/
  draws : Nat
  nextUid : Nat
  nextOp : Nat
  nextLaunch : Nat
  nextBlock : Nat
  lastSched : Nat
  /-- The slot that each scheduler last issued from, plus one (R160). -/
  lastSlots : KV Nat
  /-- Turns that an engine's ownership of a line holds up (R321): they come due again when an operation has completed. -/
  waiting : List Turn
  waves : List Wave
  ops : List Op
  /-- Device DRAM by device physical address, and host memory at 2^56 + host address (R245). -/
  mem : List Host.Cell
  versions : KV (BitVec 48)
  poison : KV Bool
  /-- Line metadata (R249): the integrity check value, and the state of the error-correcting code. -/
  icv : KV Half
  ecc : KV Ecc
  /-- The core TLBs, translation caches and instruction TLBs, oldest entry first (R115, R244). -/
  tlb : List TlbEntry
  /-- The instruction caches (R115). -/
  icache : List CodeLine
  l1 : List L1Line
  rdc : List RdcLine
  proxy : List ProxyLine
  floors : KV Nat
  holders : List Holder
  /-- Register files: register row cc·6144 + block·8 + row, with cc = 192·context + core (R87, R99). -/
  rf : KV VReg
  /-- Scratchpads: byte cc·524288 + offset, and live tags of 8-byte words (R237, R330). -/
  scratch : KV Byte
  tags : KV Bool
  spadPoison : KV Bool
  /-- Semaphores: cc·64 + number (R333). -/
  sems : KV Word
  /-- Accumulator tiles: ((cc·256 + tile)·8 + row)·128 + column (R285). -/
  tiles : KV Word
  /-- B slots: cc·2048 + slot (R282). -/
  bslots : KV BSlot
  quarters : List Quarter
  passes : List (Nat × List Quarter)
  /-- Task queues: cc and card, in order of posting (R70). -/
  cards : List (Nat × Card)
  queues : List Queue
  launches : List Launch
  parts : List Part
  funcs : List Func
  domains : KV Domain
  blocks : List Block
  places : List Place
  cohorts : List Cohort
  groups : List Group
  feeds : List Feed
  /-- The host's translation agent (R247): (pasid, page) and grant; Page Requests outstanding; pages it refused. -/
  ats : List ((Nat × Nat) × PageGrant)
  pageReqs : List (Nat × Nat)
  atsFailed : List (Nat × Nat)
  link1Map : KV Bool
  peerId : Half
  ports : List Port
  links : List Link
  lifeIdx : Word
  life : KV DWord
  lifeSaved : KV DWord
  pcap : Word
  clockMHz : Nat
  power : Power
  flash : List (Option FirmwareImage)
  running : Option FirmwareImage
  /-- MSI-X vectors raised (function, vector), newest first (R41). DESIGN CHOICE (log 57). -/
  msix : List (Nat × Nat)
  /-- Answers to host reads and attestation requests, newest first (R319, R407). -/
  hostOut : List (List Byte)
  /-- Writes sent to peers, newest first (R405). -/
  peerOut : List PeerSend
  spillCalls : Nat
  spillBytes : Nat
  beqFold : Nat
  estEvict : Nat
  emulOps : Nat
deriving DecidableEq, Repr

/-- A partition at reset (R57, R66, R92, R254, R378, R381): state NONE, every register at its reset value. -/
def Part.reset : Part :=
  { live := false, clusters := 0, dbase := 0, dsize := 0, err := 0, affwin := 2000, bflim := 20000,
    orchBase := 0, orchSlots := 0, resBase := 0, resSize := 0, resWidx := 0, resRidx := 0, resVidx := 0,
    dirBase := 0, dirSize := 0, bstore := 0, ckBase := 0, slice := 2000000, active := 0, activeSince := 0,
    switching := none, confidential := false, sliceKey := 0, dirKept := [],
    classes := List.replicate 16 { v := false, func := 0, basePage := 0, limitPage := 0, cls := 0 }, heap := [], making := none }

/-- A function at reset (R58, R246, R404). -/
def Func.reset : Func :=
  { assigned := false, ctx := 0, part := 0, dptRoot := 0, busy := false, busySince := 0, busyOps := [],
    drop := false, tdi := .unlocked, windows := [] }

/-- A domain when its partition is created (R84). -/
def Domain.reset : Domain :=
  { state := .closed, keep := false, closeOnHeir := false, residue := false, timer := 0, openTime := 0, cx := 0,
    heir := none, closers := [], remaining := [] }

/-- The device right after bring-up (R410): memory holds zeros at version 0 (R249), every register its reset value,
no partition, no queue, no wave, nothing due. Its flash holds no image, so that it is in recovery (R406). DESIGN CHOICE (log 4). DESIGN CHOICE (log 5). DESIGN CHOICE (log 6). -/
def State.reset : State :=
  { dtime := 0, cur := none, input := {}, agenda := [], draws := 0, nextUid := 1, nextOp := 1, nextLaunch := 1, nextBlock := 1,
    lastSched := 0, lastSlots := [], waiting := [], waves := [], ops := [], mem := [], versions := [], poison := [],
    icv := [], ecc := [], tlb := [], icache := [], l1 := [], rdc := [],
    proxy := [], floors := [], holders := [], rf := [], scratch := [], tags := [], spadPoison := [], sems := [],
    tiles := [], bslots := [], quarters := [], passes := [], cards := [], queues := [], launches := [],
    parts := List.replicate 16 Part.reset, funcs := List.replicate 65 Func.reset, domains := [], blocks := [],
    places := [], cohorts := [], groups := [], feeds := [], ats := [], pageReqs := [], atsFailed := [],
    link1Map := [], peerId := 0,
    ports := List.replicate 16 { up := false, neighbour := 0, trained := false, outstanding := [], lost := [] },
    links := List.replicate 2 { trained := true, width := 16, rate := 1280, carried := 0 },
    lifeIdx := 0, life := [], lifeSaved := [], pcap := 3600, clockMHz := 3300, power := .recovery,
    flash := [none, none], running := none, msix := [], hostOut := [], peerOut := [], spillCalls := 0, spillBytes := 0,
    beqFold := 0, estEvict := 0, emulOps := 0 }

end Sys2Proof.Machine
end

