-- ==== Sys2Proof/Machine/Store.lean ====
section
/-! DEFINITION. Sparse tables in canonical form (keys strictly rising, no entry equal to the default), the bytes of
memory as such a table, and small list tools. -/

namespace Sys2Proof.Machine

/-- The value at key k, `d` where none is listed. -/
def kvGet {α : Type} (d : α) : KV α → Nat → α
  | [], _ => d
  | (k', v) :: r, k => if k' = k then v else kvGet d r k

/-- The table without key k. -/
def kvDrop {α : Type} (m : KV α) (k : Nat) : KV α := m.filter (fun e => e.1 != k)

/-- The table with v at key k; writing the default removes the entry. -/
def kvPut {α : Type} [DecidableEq α] (d : α) : KV α → Nat → α → KV α
  | [], k, v => if v = d then [] else [(k, v)]
  | (k', v') :: r, k, v =>
    if k' = k then kvPut d r k v
    else if k < k' ∧ v ≠ d then (k, v) :: (k', v') :: kvDrop r k
    else (k', v') :: kvPut d r k v

/-- The canonical form: keys above `lo` strictly rising, no entry equal to the default. -/
def kvWfFrom {α : Type} [DecidableEq α] (d : α) : Option Nat → KV α → Bool
  | _, [] => true
  | lo, (k, v) :: r =>
    (match lo with | none => true | some l => decide (l < k)) && decide (v ≠ d) && kvWfFrom d (some k) r

def kvWf {α : Type} [DecidableEq α] (d : α) (m : KV α) : Bool := kvWfFrom d none m

/-- The canonical form of memory: what an unlisted address reads as is 0 (R249). DESIGN CHOICE (log 3). -/
def Memory.wf (m : List Host.Cell) : Bool := kvWf 0 m

/-- The byte of memory at a physical address. DESIGN CHOICE (log 3). -/
def memByte (m : List Host.Cell) (a : Nat) : Byte := kvGet 0 m a

def memPut (m : List Host.Cell) (a : Nat) (b : Byte) : List Host.Cell := kvPut 0 m a b

/-- n bytes from address a, lowest first. -/
def memBytes (m : List Host.Cell) (a n : Nat) : List Byte := (List.range n).map (fun i => memByte m (a + i))

/-- Bytes put at consecutive addresses from a. -/
def memPutAll (m : List Host.Cell) (a : Nat) : List Byte → List Host.Cell
  | [] => m
  | b :: r => memPutAll (memPut m a b) (a + 1) r

/-- The little-endian number that bytes stand for (R8). -/
def leNat : List Byte → Nat
  | [] => 0
  | b :: r => b.toNat + 256 * leNat r

/-- The n little-endian bytes of a number. -/
def toBytes : Nat → Nat → List Byte
  | 0, _ => []
  | n + 1, v => BitVec.ofNat 8 v :: toBytes n (v / 256)

/-- Bits hi : lo of a number. -/
def bitsOf (v hi lo : Nat) : Nat := (v >>> lo) % 2 ^ (hi + 1 - lo)

/-- One bit of a number. -/
def bitOf (v i : Nat) : Bool := v.testBit i

/-- The number of a two's complement field of `width` bits. -/
def signedOf (v width : Nat) : Int := if v.testBit (width - 1) then (v : Int) - 2 ^ width else v

/-- The bits of a mask as lanes in ascending order. -/
def lanesOf (m : LaneMask) : List Nat := allLanes.filter (fun l => m.getLsbD l)

/-- The mask of a list of lanes. -/
def maskOf (ls : List Nat) : LaneMask := ls.foldl (fun m l => m ||| ((1 : LaneMask) <<< l)) 0

/-- The lowest set lane. -/
def lowestLane (m : LaneMask) : Option Nat := (lanesOf m).head?

/-- The mask of the lanes at which p holds. -/
def maskWhere (p : Nat → Bool) : LaneMask := BitVec.ofBoolListLE (allLanes.map p)

def popCount (m : LaneMask) : Nat := (lanesOf m).length

/-- Insertion into a list in ascending order of a key, after equal keys. -/
def insertBy {α : Type} (key : α → Nat) (x : α) : List α → List α
  | [] => [x]
  | y :: r => if key x < key y then x :: y :: r else y :: insertBy key x r

def sortBy {α : Type} (key : α → Nat) (l : List α) : List α := l.foldl (fun acc x => insertBy key x acc) []

/-- Distinct elements, keeping the first of each. -/
def distinct (l : List Nat) : List Nat := l.foldl (fun acc x => if acc.contains x then acc else acc ++ [x]) []

/-- The lines 128·i of device memory that n bytes from a touch. -/
def linesOf (a n : Nat) : List Nat :=
  if n = 0 then [] else (List.range ((a + n - 1) / 128 - a / 128 + 1)).map (fun i => a / 128 + i)

/-- n zero lanes. -/
def zeroV : VReg := List.replicate 64 0

/-- Lane l of a vector register. -/
def laneOf (v : VReg) (l : Nat) : Word := v.getD l 0

/-- The register with the lanes of `lanes` replaced by f. -/
def mergeV (old : VReg) (lanes : LaneMask) (f : Nat → Word) : VReg :=
  allLanes.map (fun l => if lanes.getLsbD l then f l else laneOf old l)

end Sys2Proof.Machine
end

