-- ==== Sys2Proof/Machine/Flags.lean ====
section
/-! DEFINITION. Numbers (R164 to R178): formats, exact values, Round with its flags, integer fitting, conversions and the
elementary functions. A flag set is six bits, NV DZ OF UF NX SC from bit 0, as fmt holds them from bit 20 (R179). -/

namespace Sys2Proof.Machine

abbrev Flags := BitVec 6
def fNV : Flags := 1
def fDZ : Flags := 2
def fOF : Flags := 4
def fUF : Flags := 8
def fNX : Flags := 16
def fSC : Flags := 32

/-- Rounding modes (R172): codes 0 to 3 of rnd, and stochastic with its random operand. -/
inductive Mode where
  | rne | rtz | rup | rdn
  | stoch (rbits : Nat)
deriving DecidableEq, Repr

def Mode.ofRnd (r : Nat) : Mode := match r with | 0 => .rne | 1 => .rtz | 2 => .rup | _ => .rdn

/-- A floating-point format (R167). -/
structure FFmt where
  ebits : Nat
  mbits : Nat
  bias : Nat
  /-- Infinities exist, and NaNs are every other encoding with E all ones. -/
  ieee : Bool
  signed : Bool
  nan : Nat
deriving DecidableEq, Repr

def fmtF32 : FFmt := { ebits := 8, mbits := 23, bias := 127, ieee := true, signed := true, nan := 0x7FC00000 }
def fmtF16 : FFmt := { ebits := 5, mbits := 10, bias := 15, ieee := true, signed := true, nan := 0x7E00 }
def fmtBf16 : FFmt := { ebits := 8, mbits := 7, bias := 127, ieee := true, signed := true, nan := 0x7FC0 }
def fmtE5m2 : FFmt := { ebits := 5, mbits := 2, bias := 15, ieee := true, signed := true, nan := 0x7F }
def fmtE4m3 : FFmt := { ebits := 4, mbits := 3, bias := 7, ieee := false, signed := true, nan := 0x7F }
def fmtUe5m3 : FFmt := { ebits := 5, mbits := 3, bias := 15, ieee := false, signed := false, nan := 0xFF }
def fmtF64 : FFmt := { ebits := 11, mbits := 52, bias := 1023, ieee := true, signed := true, nan := 0x7FF8000000000000 }

/-- The format of a type code (R125); f32 for a code that has none. -/
def fmtOfTy (t : Nat) : FFmt :=
  match t with
  | 3 => fmtBf16
  | 4 => fmtF16
  | 5 => fmtE4m3
  | 6 => fmtE5m2
  | 12 => fmtUe5m3
  | 13 => fmtF64
  | _ => fmtF32

/-- An exact value: (m, or between m and m + 1 when sticky) × 2^e with a sign. -/
inductive FVal where
  | nan
  | inf (neg : Bool)
  | fin (neg : Bool) (m : Nat) (e : Int) (sticky : Bool)
deriving DecidableEq, Repr

def FVal.isNan : FVal → Bool
  | .nan => true
  | _ => false
def FVal.neg? : FVal → Bool
  | .nan => false
  | .inf n => n
  | .fin n _ _ _ => n
def FVal.isZero : FVal → Bool
  | .fin _ 0 _ false => true
  | _ => false
def FVal.isInf : FVal → Bool
  | .inf _ => true
  | _ => false
def FVal.negate : FVal → FVal
  | .nan => .nan
  | .inf n => .inf !n
  | .fin n m e s => .fin (!n) m e s
def FVal.abs : FVal → FVal
  | .nan => .nan
  | .inf _ => .inf false
  | .fin _ m e s => .fin false m e s

/-- The value of an encoding (R168). -/
def FFmt.decode (f : FFmt) (b : Nat) : FVal :=
  let m := b % 2 ^ f.mbits
  let e := b / 2 ^ f.mbits % 2 ^ f.ebits
  let s := f.signed && b.testBit (f.mbits + f.ebits)
  let top := 2 ^ f.ebits - 1
  if f.ieee && e == top then (if m == 0 then .inf s else .nan)
  else if !f.ieee && e == top && m == 2 ^ f.mbits - 1 then .nan
  else if e == 0 then .fin s m (1 - (f.bias : Int) - f.mbits) false
  else .fin s (2 ^ f.mbits + m) ((e : Int) - f.bias - f.mbits) false

/-- Length in bits. -/
def bitLen (n : Nat) : Nat := if n = 0 then 0 else n.log2 + 1

/-- x · 2^k for an exponent of either sign, rounding down. -/
def shiftBy (x : Nat) (k : Int) : Nat := if 0 ≤ k then x <<< k.toNat else x >>> (-k).toNat

/-- Round a magnitude to a multiple of 2^q: the multiple, and whether it differs from the magnitude. -/
def roundAt (mode : Mode) (neg : Bool) (m : Nat) (e : Int) (sticky : Bool) (q : Int) : Nat × Bool :=
  if q ≤ e then (m <<< (e - q).toNat, sticky)
  else
    let sh := (q - e).toNat
    let n := m >>> sh
    let rem := m % 2 ^ sh
    let half := 2 ^ (sh - 1)
    let inexact := rem != 0 || sticky
    let up := match mode with
      | .rne => decide (half < rem) || (rem == half && (sticky || n % 2 == 1))
      | .rtz => false
      | .rup => inexact && !neg
      | .rdn => inexact && neg
      | .stoch rbits => decide (2 ^ 24 ≤ rem * 2 ^ 24 / 2 ^ sh + rbits % 2 ^ 24)
    ((if up then n + 1 else n), inexact)

/-- The largest significand of the top binade: all ones, or one less where the all-ones encoding is NaN (R167). -/
def FFmt.topSig (f : FFmt) : Nat := if f.ieee then 2 ^ (f.mbits + 1) - 1 else 2 ^ (f.mbits + 1) - 2
/-- The exponent of the top binade. -/
def FFmt.emax (f : FFmt) : Int := (if f.ieee then (2 : Int) ^ f.ebits - 2 else (2 : Int) ^ f.ebits - 1) - f.bias

def FFmt.signBit (f : FFmt) (neg : Bool) : Nat := if f.signed && neg then 2 ^ (f.mbits + f.ebits) else 0
def FFmt.maxBits (f : FFmt) (neg : Bool) : Nat :=
  f.signBit neg + (if f.ieee then (2 ^ f.ebits - 1) * 2 ^ f.mbits - 1 else 2 ^ (f.ebits + f.mbits) - 2)
def FFmt.infBits (f : FFmt) (neg : Bool) : Nat := f.signBit neg + (2 ^ f.ebits - 1) * 2 ^ f.mbits

/-- OverflowOrInf and UnsignedNeg (R173). -/
def FFmt.overflow (f : FFmt) (mode : Mode) (sat neg exact : Bool) : Nat × Flags :=
  if !f.signed && neg then (if sat then (0, fSC ||| fNX) else (f.nan, fNV ||| fNX))
  else if sat then (f.maxBits neg, fSC ||| fNX)
  else if !f.ieee then (f.nan, fOF ||| fNV ||| fNX)
  else if exact then (f.infBits neg, 0)
  else
    let toMax := match mode with | .rtz => true | .rup => neg | .rdn => !neg | _ => false
    ((if toMax then f.maxBits neg else f.infBits neg), fOF ||| fNX)

/-- Round (R172) with the flags of R174. A negative ue5m3 result that R173 replaces is tiny by its own magnitude (R169). -/
def FFmt.round (f : FFmt) (mode : Mode) (sat : Bool) (x : FVal) : Nat × Flags :=
  match x with
  | .nan => (f.nan, 0)
  | .inf neg => f.overflow mode sat neg true
  | .fin neg 0 _ false => (f.signBit neg, 0)
  | .fin neg m e sticky =>
    let p := f.mbits + 1
    let emin : Int := 1 - f.bias
    let top : Int := e + bitLen m - 1
    let q := max (top - (p - 1 : Nat)) (emin - (p - 1 : Nat))
    let (n, inexact) := roundAt mode neg m e sticky q
    let (n, q) := if n == 2 ^ p then (2 ^ (p - 1), q + 1) else (n, q)
    let ytop : Int := q + bitLen n - 1
    if n != 0 && (decide (f.emax < ytop) || (ytop == f.emax && decide (f.topSig < n))) then f.overflow mode sat neg false
    else
      let free := roundAt mode neg m e sticky (top - (p - 1 : Nat))
      let tiny := decide ((top - (p - 1 : Nat)) + bitLen free.1 - 1 < emin)
      if !f.signed && neg && n != 0 then
        let (b, g) := f.overflow mode sat neg false
        (b, g ||| (if tiny then fUF else 0))
      else
        let bits := if n < 2 ^ (p - 1) then n else (q + (p - 1 : Nat) + f.bias).toNat * 2 ^ f.mbits + (n - 2 ^ (p - 1))
        (f.signBit neg + bits, (if inexact then fNX else 0) ||| (if tiny && inexact then fUF else 0))

/-! ### Exact arithmetic -/

/-- The exact sum (R169): the sign of an exact zero of opposite signs is + but for rdn. -/
def FVal.add (mode : Mode) (x y : FVal) : FVal × Flags :=
  match x, y with
  | .nan, _ => (.nan, 0)
  | _, .nan => (.nan, 0)
  | .inf a, .inf b => if a == b then (.inf a, 0) else (.nan, fNV)
  | .inf a, _ => (.inf a, 0)
  | _, .inf b => (.inf b, 0)
  | .fin a m e _, .fin b n g _ =>
    let q := min e g
    let i : Int := (if a then -1 else 1) * (m <<< (e - q).toNat : Nat)
    let j : Int := (if b then -1 else 1) * (n <<< (g - q).toNat : Nat)
    let t := i + j
    if t = 0 then
      (.fin (if a == b then a else mode == .rdn) 0 q false, 0)
    else (.fin (decide (t < 0)) t.natAbs q false, 0)

def FVal.mul (x y : FVal) : FVal × Flags :=
  match x, y with
  | .nan, _ => (.nan, 0)
  | _, .nan => (.nan, 0)
  | .inf a, y => if y.isZero then (.nan, fNV) else (.inf (a != y.neg?), 0)
  | x, .inf b => if x.isZero then (.nan, fNV) else (.inf (b != x.neg?), 0)
  | .fin a m e _, .fin b n g _ => (.fin (a != b) (m * n) (e + g) false, 0)

/-- x × y + z, exact. An invalid product makes NaN with NV whatever z is, unless z is NaN already. -/
def FVal.fma (mode : Mode) (x y z : FVal) : FVal × Flags :=
  let (p, f) := x.mul y
  if z.isNan then (.nan, 0)
  else
    let (s, g) := p.add mode z
    (s, f ||| g)

/-- The integer square root, by bits from the top. -/
def isqrtFrom (n : Nat) : Nat → Nat → Nat
  | 0, r => r
  | k + 1, r => let t := r + 2 ^ k; isqrtFrom n k (if t * t ≤ n then t else r)

def isqrt (n : Nat) : Nat := isqrtFrom n (bitLen n / 2 + 1) 0

/-- 1 / x (R216). -/
def FVal.recip (x : FVal) : FVal × Flags :=
  match x with
  | .nan => (.nan, 0)
  | .inf a => (.fin a 0 0 false, 0)
  | .fin a m e _ =>
    if m = 0 then (.inf a, fDZ)
    else
      let k := bitLen m + 80
      (.fin a (2 ^ k / m) (-(e + k)) (2 ^ k % m != 0), 0)

/-- √x. -/
def FVal.sqrt (x : FVal) : FVal × Flags :=
  match x with
  | .nan => (.nan, 0)
  | .inf a => if a then (.nan, fNV) else (.inf false, 0)
  | .fin a m e s =>
    if m = 0 then (.fin a 0 e s, 0)
    else if a then (.nan, fNV)
    else
      let (m, e) := if e % 2 = 0 then (m, e) else (2 * m, e - 1)
      let n := m <<< 160
      let r := isqrt n
      (.fin false r (e / 2 - 80) (r * r != n), 0)

/-- 1 / √x. -/
def FVal.rsqrt (x : FVal) : FVal × Flags :=
  match x with
  | .nan => (.nan, 0)
  | .inf a => if a then (.nan, fNV) else (.fin false 0 0 false, 0)
  | .fin a m e _ =>
    if m = 0 then (.inf a, fDZ)
    else if a then (.nan, fNV)
    else
      let (m, e) := if e % 2 = 0 then (m, e) else (2 * m, e - 1)
      let k := 2 * (bitLen m + 80)
      let n := 2 ^ k / m
      let r := isqrt n
      (.fin false r (-(e / 2) - (k / 2 : Nat)) (!(2 ^ k % m == 0 && r * r == n)), 0)

/-- Binary digits of log₂ y for y in [1, 2) held with `prec` fraction bits. -/
def log2Digits (prec : Nat) : Nat → Nat → Nat → Nat
  | 0, _, acc => acc
  | k + 1, y, acc =>
    let z := (y * y) >>> prec
    if 2 ^ (prec + 1) ≤ z then log2Digits prec k (z >>> 1) (2 * acc + 1) else log2Digits prec k z (2 * acc)

/-- log₂ x (R217), to 110 binary digits with sticky; exact for powers of two. DEDUCED (log 23). -/
def FVal.log2 (x : FVal) : FVal × Flags :=
  match x with
  | .nan => (.nan, 0)
  | .inf a => if a then (.nan, fNV) else (.inf false, 0)
  | .fin a m e _ =>
    if m = 0 then (.inf true, fDZ)
    else if a then (.nan, fNV)
    else
      let l := bitLen m - 1
      let k : Int := e + l
      if m = 2 ^ l then (.fin (decide (k < 0)) k.natAbs 0 false, 0)
      else
        let t : Int := k * 2 ^ 110 + (log2Digits 280 110 (m <<< (280 - l)) 0 : Nat)
        if 0 ≤ t then (.fin false t.toNat (-110) true, 0) else (.fin true ((-t).toNat - 1) (-110) true, 0)

/-- ⌊ln 2 · 2^200⌋. -/
def ln2Fixed : Nat := 1113844574712631719546256151097547306333272293549090750737802

/-- Σ t^n / n! from n = k on, with 200 fraction bits. -/
def expTerms (t : Nat) : Nat → Nat → Nat → Nat
  | 0, _, _ => 0
  | fuel + 1, k, term => term + expTerms t fuel (k + 1) (term * t / (k * 2 ^ 200))

/-- 2^x (R217), to 110 binary digits with sticky; exact for integers. Beyond the range of f32 only the size matters. -/
def FVal.exp2 (x : FVal) : FVal × Flags :=
  match x with
  | .nan => (.nan, 0)
  | .inf a => if a then (.fin false 0 0 false, 0) else (.inf false, 0)
  | .fin a m e _ =>
    if m = 0 then (.fin false 1 0 false, 0)
    else if 9 < e + bitLen m then (if a then (.fin false 1 (-600) true, 0) else (.fin false 1 600 true, 0))
    else
      let scaled : Int := (if a then -1 else 1) * (shiftBy m (e + 200) : Nat)
      let exact := decide (-200 ≤ e)
      let k : Int := scaled / 2 ^ 200
      let f := (scaled % 2 ^ 200).toNat
      if f = 0 && exact then (.fin false 1 k false, 0)
      else (.fin false (expTerms (f * ln2Fixed / 2 ^ 200) 50 1 (2 ^ 200) >>> 90) (k - 110) true, 0)

/-- The value rounded to an integer magnitude, and whether it changed (R175, R218). -/
def FVal.toInt (mode : Mode) (neg : Bool) (m : Nat) (e : Int) (sticky : Bool) : Nat × Bool := roundAt mode neg m e sticky 0

/-- Exact order of two values that are not NaN. -/
def FVal.lt (x y : FVal) : Bool :=
  match x, y with
  | .nan, _ => false
  | _, .nan => false
  | .inf a, .inf b => a && !b
  | .inf a, _ => a
  | _, .inf b => !b
  | .fin a m e _, .fin b n g _ =>
    let q := min e g
    decide ((if a then -1 else 1) * ((m <<< (e - q).toNat : Nat) : Int) < (if b then -1 else 1) * ((n <<< (g - q).toNat : Nat) : Int))

def FVal.eq (x y : FVal) : Bool := !x.isNan && !y.isNan && !x.lt y && !y.lt x

/-- Minimum or maximum (R214): −0 below +0, a lone NaN gives the other operand. -/
def FVal.minMax (isMax : Bool) (x y : FVal) : FVal :=
  if x.isNan then y
  else if y.isNan then x
  else if x.lt y then (if isMax then y else x)
  else if y.lt x then (if isMax then x else y)
  else if x.isZero && x.neg? != y.neg? then (if isMax == x.neg? then y else x)
  else x

/-! ### Integers -/

/-- Width of an integer type (R164). -/
def tyBits (t : Nat) : Nat :=
  match t with
  | 7 | 8 | 5 | 6 | 12 => 8
  | 9 | 10 | 3 | 4 => 16
  | 11 => 4
  | _ => 32

def tySigned (t : Nat) : Bool := t == 0 || t == 7 || t == 9
def tyInt (t : Nat) : Bool := t == 0 || t == 1 || t == 7 || t == 8 || t == 9 || t == 10
def tyFloat (t : Nat) : Bool := t == 2 || t == 3 || t == 4 || t == 5 || t == 6 || t == 12

def intMin (t : Nat) : Int := if tySigned t then -(2 ^ (tyBits t - 1)) else 0
def intMax (t : Nat) : Int := if tySigned t then 2 ^ (tyBits t - 1) - 1 else 2 ^ tyBits t - 1

/-- The low n bits of an exact result as a value of the type (R165). -/
def wrapInt (t : Nat) (x : Int) : Int :=
  let u := x % 2 ^ tyBits t
  if tySigned t && decide (2 ^ (tyBits t - 1) ≤ u) then u - 2 ^ tyBits t else u

/-- An exact result fitted to a type (R165): wrapped, or saturated with SC. -/
def fitInt (t : Nat) (sat : Bool) (x : Int) : Int × Flags :=
  if sat then
    if x < intMin t then (intMin t, fSC) else if intMax t < x then (intMax t, fSC) else (x, 0)
  else (wrapInt t x, 0)

/-- The value of a lane read as an integer type (R164). -/
def laneInt (t : Nat) (w : Word) : Int :=
  let u := w.toNat % 2 ^ tyBits t
  if tySigned t then signedOf u (tyBits t) else u

/-- A lane that holds an integer value (R164): sign- or zero-extended. -/
def intLane (x : Int) : Word := BitVec.ofInt 32 x

/-- The value of a lane read as a floating type. -/
def laneFloat (t : Nat) (w : Word) : FVal := (fmtOfTy t).decode (w.toNat % 2 ^ tyBits t)

/-- The exact value of a q4n code in 1/1024ths (R176). -/
def q4nCode (c : Nat) : Int :=
  ([-1024, -727, -543, -403, -283, -175, -85, 0, 81, 164, 252, 351, 464, 600, 779, 1024] : List Int).getD c 0

def q4nVal (c : Nat) : FVal := .fin (decide (q4nCode c < 0)) (q4nCode c).natAbs (-10) false

/-- An integer as an exact value. -/
def intVal (x : Int) : FVal := .fin (decide (x < 0)) x.natAbs 0 false

/-- A float converted to an integer type (R175): rounded, then clamped. `legacy` gives the out-of-range result of R225. -/
def floatToInt (mode : Mode) (t : Nat) (legacy : Bool) (x : FVal) : Int × Flags :=
  match x with
  | .nan => (if legacy then 0x80000000 else 0, fNV)
  | .inf a => (if legacy then 0x80000000 else if a then intMin t else intMax t, fNV)
  | .fin a m e s =>
    let (n, inexact) := FVal.toInt mode a m e s
    let v : Int := if a then -(n : Int) else n
    if v < intMin t then (if legacy then 0x80000000 else intMin t, fNV)
    else if intMax t < v then (if legacy then 0x80000000 else intMax t, fNV)
    else (v, if inexact then fNX else 0)

/-- A lane converted between types (R175, R224). -/
def convertLane (mode : Mode) (sat : Bool) (d s : Nat) (w : Word) : Word × Flags :=
  if tyInt d then
    if tyInt s then let (v, f) := fitInt d sat (laneInt s w); (intLane v, f)
    else let (v, f) := floatToInt mode d false (laneFloat s w); (intLane v, f)
  else
    let x := if tyInt s then intVal (laneInt s w) else if s == 11 then q4nVal (w.toNat % 16) else laneFloat s w
    if s == d && !x.isNan then (BitVec.ofNat 32 (w.toNat % 2 ^ tyBits d), 0)
    else let (b, f) := (fmtOfTy d).round mode sat x; (BitVec.ofNat 32 b, f)

end Sys2Proof.Machine
end

