-- ==== Sys2Proof/Machine/Mem.lean ====
section
/-! DEFINITION. The memory system: translation (R244 to R247, R401, R404), homes and versions (R248 to R253), the L1, RDC
and proxy L2 (R248, R253, R314), holders and recalls (R315, R316), invalidation and eager release (R317, R318). -/

namespace Sys2Proof.Machine

/-! ### Where things lie -/

def coreDie (c : Nat) : Nat := c / 48
def coreCluster (c : Nat) : Nat := c / 8

def isPeerPa (pa : Nat) : Bool := Config.peerBase ≤ pa
def isSysPa (pa : Nat) : Bool := Config.sysBase ≤ pa && pa < Config.peerBase
def isDramPa (pa : Nat) : Bool := pa < Config.dramBytes

/-- The die of a line's home: of its DRAM, or of its proxy L2 (R248). -/
def homeDie (line : Nat) : Nat :=
  if line * 128 < Config.sysBase then line * 128 / Config.dieBytes else bitsOf (line * 128) 13 12

/-- The L2 slice of a line among the 4 × 32 slices (R248). -/
def sliceOf (line : Nat) : Nat :=
  let pa := line * 128
  homeDie line * 32 + ((bitsOf pa 11 7) ^^^ (bitsOf pa 16 12) ^^^ (bitsOf pa 21 17))

def State.part (s : State) (p : Nat) : Part := s.parts.getD p Part.reset
def State.func (s : State) (f : Nat) : Func := s.funcs.getD f Func.reset
def State.putPart (s : State) (p : Nat) (x : Part) : State := { s with parts := s.parts.set p x }
def State.putFunc (s : State) (f : Nat) (x : Func) : State := { s with funcs := s.funcs.set f x }

/-- A device physical address lies in the partition's DRAM slice (R57, R244). -/
def State.inSlice (s : State) (p pa : Nat) : Bool :=
  (s.part p).dbase * 2 ^ 30 ≤ pa && pa < ((s.part p).dbase + (s.part p).dsize) * 2 ^ 30

/-! ### Line metadata (R249, R250) -/

def State.poisoned (s : State) (line : Nat) : Bool := kvGet false s.poison line

/-- A field-life counter rises by one, saturating (R408). -/
def State.lifeAdd (s : State) (idx : Nat) : State :=
  { s with life := kvPut 0 s.life idx (if kvGet 0 s.life idx = BitVec.allOnes 64 then BitVec.allOnes 64 else kvGet 0 s.life idx + 1) }

/-- A line becomes poisoned; one newly poisoned is counted (R251, R408). -/
def State.setPoison (s : State) (line : Nat) : State :=
  let s := if s.poisoned line then s else s.lifeAdd 0x60
  { s with poison := kvPut false s.poison line true }

/-- The life counter of the DRAM bank that holds a line (R408). DESIGN CHOICE (log 51). -/
def bankCounter (line : Nat) : Nat := 0x1000 + 256 * homeDie line + Config.dramBank line % 256

/-- The line is read at its home: its ECC corrects what it can, and poisons the line otherwise (R249, R250). -/
def State.eccCheck (s : State) (line : Nat) : State :=
  match kvGet .good s.ecc line with
  | .good => s
  | .correctable => { s.lifeAdd (bankCounter line) with ecc := kvPut .good s.ecc line .good }
  | .uncorrectable => { (s.lifeAdd 0x61).setPoison line with ecc := kvPut .good s.ecc line .good }

/-! ### Translation -/

/-- What translating an address gives (R244). -/
inductive Xlat where
  | ok (p : Page)
  /-- A miss that ATS or Page Request can resolve: the page to wait for. -/
  | miss (page : Nat)
  /-- No valid translation, or a walk error. -/
  | invalid
  /-- A Page Request that the host answered with failure. -/
  | failed
  /-- A device physical address outside the partition's DRAM slice. -/
  | outside
deriving DecidableEq, Repr

/-- The sixteen level-0 leaves around a page form one page of 64 KiB (R245): all valid and marked, with consecutive physical
pages and W, X, ATTR, PIN and KEY of the first. Where these differ, or the first physical page is not aligned to 64 KiB, they stay pages of
4 KiB. DESIGN CHOICE (log 84). -/
def run64 (m : List Host.Cell) (va table : Nat) : Bool :=
  let first := table + 8 * (bitsOf va 20 12 / 16 * 16)
  let e0 := leNat (memBytes m first 8)
  bitsOf e0 15 12 == 0 && (List.range 16).all (fun i => leNat (memBytes m (first + 8 * i) 8) == e0 + 4096 * i)

/-- A page-table entry that lies in the line cannot be used: the walk error of R244. DESIGN CHOICE (log 78). -/
def State.walkError (s : State) (line : Nat) : Bool := s.poisoned line || kvGet .good s.ecc line == .uncorrectable

/-- One level of the device page tables and those below it (R245): how many pages of 4 KiB the leaf maps, and the address's
page. `bad` says which lines give a walk error. The key index of an entry has no effect that the spec gives. DEDUCED (log 63). -/
def walkLeaf (bad : Nat → Bool) (m : List Host.Cell) (va : Nat) : Nat → Nat → Option (Nat × Page)
  | level, table =>
    let e := leNat (memBytes m (table + 8 * bitsOf va (20 + 9 * level) (12 + 9 * level)) 8)
    let pa := bitsOf e 56 12 * 4096
    let size := 2 ^ (12 + 9 * level)
    if bad ((table + 8 * bitsOf va (20 + 9 * level) (12 + 9 * level)) / 128) || !bitOf e 0 || bitsOf e 58 57 != 0 || bitsOf e 11 7 != 0 || 2 ≤ bitsOf e 4 3 then none
    else if bitOf e 59 then
      if 2 < level || pa % size != 0 then none
      else some (if level = 0 then (if bitOf e 5 && run64 m va table then 16 else 1) else size / 4096,
        { pa := pa + va % size, w := bitOf e 1, x := bitOf e 2, nol1 := bitsOf e 4 3 == 1, pin := bitOf e 6 })
    else
      match level with
      | 0 => none
      | l + 1 => walkLeaf bad m va l pa

def walk (bad : Nat → Bool) (m : List Host.Cell) (va level table : Nat) : Option Page := (walkLeaf bad m va level table).map Prod.snd

/-- The lines of the entries that a walk reads (R245). -/
def walkLines (m : List Host.Cell) (va : Nat) : Nat → Nat → List Nat
  | level, table =>
    let at_ := table + 8 * bitsOf va (20 + 9 * level) (12 + 9 * level)
    let e := leNat (memBytes m at_ 8)
    at_ / 128 :: (if !bitOf e 0 || bitOf e 59 then [] else
      match level with
      | 0 => []
      | l + 1 => walkLines m va l (bitsOf e 56 12 * 4096))

/-- The entry of a translation buffer that maps a virtual address of a function (R244). -/
def State.tlbFind (s : State) (owner fn va : Nat) : Option TlbEntry :=
  s.tlb.find? (fun e => e.owner == owner && e.fn == fn && decide (e.first ≤ va / 4096) && decide (va / 4096 < e.first + e.pages))

/-- The page that an entry gives for an address. -/
def TlbEntry.at_ (e : TlbEntry) (va : Nat) : Page := { e.page with pa := e.page.pa + (va - 4096 * e.first) }

/-- The translation of an address through the first of the buffers that holds it, or by a walk of the tables (R244, R245). DESIGN CHOICE (log 11). -/
def State.lookup (s : State) (fn va : Nat) : List Nat → Option Page
  | [] => walk s.walkError s.mem va 4 (s.func fn).dptRoot.toNat
  | o :: r => match s.tlbFind o fn va with | some e => some (e.at_ va) | none => s.lookup fn va r

/-- How many translations a buffer holds (R6, R115): a core's TLB, a die's translation cache, an instruction TLB. -/
def tlbSize (owner : Nat) : Nat := if owner < 192 then 1024 else if owner < 196 then 16384 else 64

/-- A buffer takes a translation; a full one loses its oldest entry. DESIGN CHOICE (log 64). -/
def State.tlbPut (s : State) (e : TlbEntry) : State :=
  let mine := s.tlb.filter (fun x => x.owner == e.owner)
  let kept := if mine.length < tlbSize e.owner then s.tlb
    else match mine.head? with | some old => s.tlb.erase old | none => s.tlb
  { s with tlb := kept ++ [e] }

/-- The entry that a buffer takes for an address: that of a buffer behind it, or of the tables. -/
def State.tlbSource (s : State) (fn va : Nat) : List Nat → Option TlbEntry
  | [] => (walkLeaf s.walkError s.mem va 4 (s.func fn).dptRoot.toNat).map (fun e =>
      let first := va / 4096 / e.1 * e.1
      { owner := 0, fn := fn, first := first, pages := e.1, page := { e.2 with pa := e.2.pa - (va - 4096 * first) } })
  | o :: r => match s.tlbFind o fn va with | some e => some e | none => s.tlbSource fn va r

/-- The first byte of the page in which an address of a view lies (R236, R245); 4 KiB where nothing maps it. -/
def State.pageStart (s : State) (v : View) (va : Nat) : Nat :=
  match if v.sp.pv then none else s.tlbSource v.sp.fn va v.tlbs with
  | some e => 4096 * e.first
  | none => va / 4096 * 4096

/-- The ECC of the table entries that a walk for the address reads (R249), when no buffer of the view holds its translation. -/
def State.walkCheck (s : State) (v : View) (va : Nat) : State :=
  if v.sp.pv || 2 ^ 57 ≤ va || v.tlbs.any (fun o => (s.tlbFind o v.sp.fn va).isSome) then s
  else (walkLines s.mem va 4 (s.func v.sp.fn).dptRoot.toNat).foldl State.eccCheck s

/-- Walks for addresses of a view, one for each page: whether they end in a translation or fail (R249). -/
def State.walked (s : State) (v : View) (vas : List Nat) : State :=
  if v.sp.pv then s else (distinct (vas.map (· / 4096))).foldl (fun s pg => s.walkCheck v (4096 * pg)) s

/-- The buffers of a view take the translation of an address that they lack (R244). -/
def State.tlbFill (s : State) (v : View) (va : Nat) : State :=
  if v.sp.pv then s
  else
    let s := s.walkCheck v va
    match s.tlbSource v.sp.fn va v.tlbs with
    | none => s
    | some e => v.tlbs.foldl (fun s o => if (s.tlbFind o v.sp.fn va).isSome then s else s.tlbPut { e with owner := o }) s

/-- Peer window n of a function, offset off (R404): its entry when it translates. -/
def State.importWindow (s : State) (fn pa : Nat) : Option PeerWindow :=
  let win := kvGet { v := false, w := false, dir := false, peer := 0, port := 0, logsize := 0, pbase := 0 }
    (s.func fn).windows (bitsOf pa 54 49)
  if win.v && !win.dir && ((s.ports.getD win.port { up := false, neighbour := 0, trained := false, outstanding := [], lost := [] }).up)
      && bitsOf pa 48 0 < 2 ^ win.logsize then some win
  else none

/-- The translation of a virtual address below 2^57 for a view (R244, R401, R404). DESIGN CHOICE (log 11). -/
def State.translate (s : State) (v : View) (va : Nat) : Xlat :=
  if v.sp.pv then
    match s.ats.find? (fun e => e.1.1 == v.sp.pasid && e.1.2 == va / 4096) with
    | some (_, g) =>
      .ok { pa := Config.sysBase + (g.hostPage * 4096 + va % 4096) % 2 ^ 55, w := g.w, x := g.x, nol1 := false, pin := false }
    | none =>
      if v.refused.contains (va / 4096) || (v.cp && s.atsFailed.contains (v.sp.pasid, va / 4096)) then .failed else .miss (va / 4096)
  else
    match s.lookup v.sp.fn va v.tlbs with
    | none => .invalid
    | some p =>
      if isPeerPa p.pa then
        match s.importWindow v.sp.fn p.pa with
        | some win => .ok { p with w := p.w && win.w }
        | none => .invalid
      else if isSysPa p.pa then .ok p
      else if !isDramPa p.pa then .invalid
      else if s.inSlice v.part p.pa then .ok p
      else .outside

/-- A Page Request for each page not yet asked for (R247). -/
def State.requestPages (s : State) (sp : Space) (pages : List Nat) : State :=
  let fresh := (distinct pages).filter (fun p => !s.pageReqs.contains (sp.pasid, p))
  { s with pageReqs := s.pageReqs ++ fresh.map (fun p => (sp.pasid, p)) }

/-! ### Homes -/

def bump (v : BitVec 48) : BitVec 48 := v + 1

/-- The 128 bytes of a line in memory. -/
def State.memLine (s : State) (line : Nat) : List Byte := memBytes s.mem (line * 128) 128

/-- FLOOR of a slice (R253). -/
def State.floor (s : State) (line : Nat) : Nat := kvGet 0 s.floors (sliceOf line)

def isSysLine (line : Nat) : Bool := isSysPa (line * 128)

/-- Bytes of a line with those of `mask` replaced. -/
def patch (old new : List Byte) (mask : BitVec 128) : List Byte :=
  (List.range 128).map (fun i => if mask.getLsbD i then new.getD i 0 else old.getD i 0)

/-- The mask of n bytes from offset o of a line. -/
def byteMask (o n : Nat) : BitVec 128 := BitVec.ofNat 128 ((2 ^ n - 1) <<< o)

/-- A line image that holds `bytes` at offset o. -/
def placed (o : Nat) (bytes : List Byte) : List Byte := List.replicate o 0 ++ bytes ++ List.replicate (128 - o - bytes.length) 0

/-! #### Integrity check values (R250) -/

/-- One bit of the CRC of R250. -/
def crcBit (c : Nat) : Nat := if c.testBit 15 then (2 * c % 65536) ^^^ 0x8BB7 else 2 * c

/-- One byte of the CRC, its highest bit first. -/
def crcByte (c : Nat) (b : Byte) : Nat := crcBit (crcBit (crcBit (crcBit (crcBit (crcBit (crcBit (crcBit (c ^^^ (b.toNat * 256)))))))))

/-- The CRC once more bytes have come in; the match has each byte taken before the next. -/
def crcFrom : Nat → List Byte → Nat
  | c, [] => c
  | c, b :: r =>
    match crcByte c b with
    | 0 => crcFrom 0 r
    | n + 1 => crcFrom (n + 1) r

/-- The T10 DIF CRC-16 of bytes in ascending order (R250). -/
def crc16 (bs : List Byte) : Half := BitVec.ofNat 16 (crcFrom 0 bs)

/-- The integrity check of a line passes (R250): lines of device DRAM carry one. -/
def State.icvOk (s : State) (line : Nat) : Bool :=
  !isDramPa (line * 128) || kvGet 0 s.icv line == crc16 (s.memLine line)

/-- Data of the line cannot be used (R250, R251). -/
def State.lineBad (s : State) (line : Nat) : Bool :=
  s.poisoned line || !s.icvOk line || kvGet .good s.ecc line == .uncorrectable

/-- A line's data leave the memory system, or are merged with (R250): ECC and integrity check, whose failure poisons the line. -/
def State.checkLine (s : State) (line : Nat) : State :=
  let s := s.eccCheck line
  if s.icvOk line then s else s.setPoison line

/-! #### Lines of an L1, and who owns a line -/

def State.l1Find (s : State) (core line : Nat) : Option L1Line := s.l1.find? (fun x => x.core == core && x.line == line)

def State.l1Drop (s : State) (core line : Nat) : State :=
  { s with l1 := s.l1.filter (fun x => !(x.core == core && x.line == line)) }

/-- A line that the L1 holds changes, or a line comes in. -/
def State.l1Put (s : State) (x : L1Line) : State :=
  { s with l1 := s.l1.filter (fun y => !(y.core == x.core && y.line == x.line)) ++ [x] }

/-- A line of a core's L1 has been written back: it is no longer among the core's released lines, and a holder whose released
lines have all been written back is removed (R316). -/
def State.released (s : State) (core line : Nat) : State :=
  let wrote (h : Holder) : Holder := if h.core = core then { h with released := h.released.filter (· != line) } else h
  { s with holders := (s.holders.map wrote).filter (fun h => !h.released.isEmpty) }

def State.orchardPa (s : State) (part slot j : Nat) : Nat := (s.part part).orchBase.toNat + 8192 * slot + 256 * j
def State.residuePa (s : State) (part slot : Nat) : Nat := (s.part part).resBase.toNat + 64 * slot

/-- The length of the PAD that a place of L bytes at RESVIDX begins with (R421). -/
def padFor (size vidx len : Nat) : Nat := if vidx % size + len > size then size - vidx % size else 0

/-- The runs of memory, address and length, that the estate transfer unit writes for a block on its way there (R101, R421): its Orchard
slot, or its record with the header of the PAD before it. -/
def State.blockDest (s : State) (b : Block) : List (Nat × Nat) :=
  if b.loc != .moving || b.taker.isSome then []
  else
    match b.route with
    | .resident => []
    | .orchard k => [(s.orchardPa b.part k 0, 256 * b.e)]
    | .residue start _ =>
      let size := (s.part b.part).resSize.toNat; let base := (s.part b.part).resBase.toNat
      let len := 64 + 256 * b.e; let pad := padFor size start len
      (if pad = 0 then [] else [(base + start % size, 64)]) ++ [(base + (start + pad) % size, len)]

/-- The estate transfer unit owns a line for a block that it moves there (R321). -/
def State.blockOwns (s : State) (b : Block) (line : Nat) : Bool := (s.blockDest b).any (fun r => (linesOf r.1 r.2).contains line)

/-- A line that an engine owns (R321). -/
def State.owned (s : State) (line : Nat) : Bool := s.ops.any (fun o => o.owned.contains line) || s.blocks.any (fun b => s.blockOwns b line)

/-- An engine's operation issued before `op` owns the line; for an agent that is no engine, any. Of two operations that name a
line the earlier owns it, and the later has it next. DEDUCED (log 31). -/
def State.ownedFor (s : State) (op : Option Nat) (line : Nat) : Bool :=
  match op with
  | none => s.owned line
  | some id => s.ops.any (fun o => decide (o.id < id) && o.owned.contains line) ||
      s.blocks.any (fun b => decide (b.since < id) && s.blockOwns b line)

/-! #### The proxy L2 (R253) -/

/-- The link that carries a request for a line of system memory (R401). -/
def State.sysLink (s : State) (line : Nat) : Nat :=
  if bitsOf (line * 128) 54 45 == 0 && kvGet false s.link1Map (bitsOf (line * 128) 44 30) then 1 else 0

/-- A request for a line of system memory goes out on its link. -/
def State.carry (s : State) (line : Nat) : State :=
  { s with links := s.links.mapIdx (fun i (l : Link) => if i = s.sysLink line then { l with carried := l.carried + 1 } else l) }

/-- A proxy L2 slice writes the dirty bytes of a line to host memory. -/
def State.proxyClean (s : State) (line : Nat) : State :=
  match s.proxy.find? (·.line == line) with
  | some p =>
    if p.dirty = 0 then s
    else
      { s.carry line with
        mem := memPutAll s.mem (line * 128) (patch (s.memLine line) p.data p.dirty),
        proxy := s.proxy.map (fun (q : ProxyLine) => if q.line == line then { q with dirty := 0 } else q) }
  | none => s

/-- A system-memory line leaves its slice: dirty bytes go to the host and FLOOR rises past its version (R253). -/
def State.proxyDrop (s : State) (line : Nat) : State :=
  match s.proxy.find? (·.line == line) with
  | some p =>
    let s := s.proxyClean line
    { s with proxy := s.proxy.filter (fun q => q.line != line),
             floors := kvPut 0 s.floors (sliceOf line) (max (s.floor line) ((p.version + 1) % 2 ^ 48)) }
  | none => s

/-- A write request applied to a line that its proxy L2 slice holds (R251, R253). -/
def State.proxyWrite (s : State) (line : Nat) (mask : BitVec 128) (data : List Byte) : State :=
  { s with poison := if mask == BitVec.allOnes 128 then kvPut false s.poison line false else s.poison,
           proxy := s.proxy.map (fun (p : ProxyLine) =>
      if p.line == line then
        { p with data := patch p.data data mask, dirty := p.dirty ||| mask, version := (p.version + 1) % 2 ^ 48 }
      else p) }

/-- A write request applied to a line of device memory: its bytes change, its version rises by one (R252), its integrity check
value is that of the merged line (R250), a partial write having checked the old one, and a write of all 128 bytes ends its
poison (R251). -/
def State.lineWrite (s : State) (line : Nat) (mask : BitVec 128) (data : List Byte) : State :=
  let whole := mask == BitVec.allOnes 128
  let s := if whole then s else s.checkLine line
  let new := patch (s.memLine line) data mask
  { s with poison := if whole then kvPut false s.poison line false else s.poison,
           mem := memPutAll s.mem (line * 128) new, icv := kvPut 0 s.icv line (crc16 new), ecc := kvPut .good s.ecc line .good,
           versions := kvPut 0 s.versions line (bump (kvGet 0 s.versions line)) }

/-- A write request while its slice makes room: a line of system memory that the slice does not hold comes in, is written and leaves
again at once (R253). DESIGN CHOICE (log 64). -/
def State.roomWrite (s : State) (line : Nat) (mask : BitVec 128) (data : List Byte) : State :=
  if isSysLine line then
    if s.proxy.any (·.line == line) then s.proxyWrite line mask data
    else
      let s := s.carry line
      (({ s with proxy := s.proxy ++ [{ line := line, data := s.memLine line, dirty := 0, version := s.floor line }] } : State).proxyWrite
        line mask data).proxyDrop line
  else s.lineWrite line mask data

/-- An L1 writes the dirty bytes of a line back to its home as one write, and to the copy in its die's RDC (R314). A line
of which only stored bytes are held is then gone. `put` is the write at the home. -/
def State.writeBackBy (put : State → Nat → BitVec 128 → List Byte → State) (s : State) (core line : Nat) : State :=
  match s.l1Find core line with
  | some x =>
    if x.dirty == 0 then s
    else
      let s := (put s line x.dirty x.data).released core line
      let s := { s with rdc := s.rdc.map (fun (r : RdcLine) =>
        if r.die == coreDie core && r.line == line then { r with data := patch r.data x.data x.dirty } else r) }
      if x.filled then s.l1Put { x with dirty := 0 } else s.l1Drop core line
  | none => s

/-- The holders of a line but the reader are recalled (R316): each writes back its released lines, and its record goes. -/
def State.recallBy (put : State → Nat → BitVec 128 → List Byte → State) (s : State) (line : Nat) (reader : Option Nat) : State :=
  (s.holders.filter (fun h => h.line == line && reader != some h.core)).foldl
    (fun s h => { h.released.foldl (fun s l => s.writeBackBy put h.core l) s with
      holders := s.holders.filter (fun g => !(g.line == line && g.core == h.core)) }) s

/-- Holders of a line have released lines that are dirty and that an engine owns, so that they cannot be recalled yet (R321). -/
def State.recallHeld (s : State) (line : Nat) : Bool := s.holders.any (fun h => h.line == line && h.released.any s.owned)

/-- A die's L2 of 64 MiB that is full of proxy lines loses the oldest without holders (R6), else the oldest whose holders can be
recalled, once they have been (R315); while engines hold up every one, the slice takes one line more. DESIGN CHOICE (log 64). -/
def State.proxyRoom (s : State) (die : Nat) : State :=
  let mine := s.proxy.filter (fun p => homeDie p.line == die)
  if mine.length < 524288 then s
  else
    match (mine.find? (fun p => !s.holders.any (fun h => h.line == p.line))).or (mine.find? (fun p => !s.recallHeld p.line)) with
    | some p => (s.recallBy State.roomWrite p.line none).proxyDrop p.line
    | none => s

/-- A system-memory line fills its proxy L2 slice and takes version FLOOR (R253). -/
def State.fillProxy (s : State) (line : Nat) : State :=
  if isSysLine line && !s.proxy.any (·.line == line) then
    let s := (s.proxyRoom (homeDie line)).carry line
    { s with proxy := s.proxy ++ [{ line := line, data := s.memLine line, dirty := 0, version := s.floor line }] }
  else s

/-- The bytes that a line's home holds. -/
def State.homeData (s : State) (line : Nat) : List Byte :=
  match (if isSysLine line then s.proxy.find? (·.line == line) else none) with
  | some p => p.data
  | none => s.memLine line

/-- The version of a line at its home (R252, R253). -/
def State.version (s : State) (line : Nat) : BitVec 48 :=
  if isSysLine line then
    match s.proxy.find? (·.line == line) with
    | some p => BitVec.ofNat 48 p.version
    | none => BitVec.ofNat 48 (s.floor line)
  else kvGet 0 s.versions line

/-- One write request applied at the home of a line. -/
def State.homeWrite (s : State) (line : Nat) (mask : BitVec 128) (data : List Byte) : State :=
  if isSysLine line then (s.fillProxy line).proxyWrite line mask data else s.lineWrite line mask data

/-! ### The L1 and the RDC -/

def State.rdcDrop (s : State) (die line : Nat) : State :=
  { s with rdc := s.rdc.filter (fun x => !(x.die == die && x.line == line)) }

/-- A line of a core's L1 is written back at its home (R314). -/
def State.writeBack (s : State) (core line : Nat) : State := s.writeBackBy State.homeWrite core line

def State.writeBackAll (s : State) (core : Nat) (lines : List Nat) : State :=
  lines.foldl (fun s l => s.writeBack core l) s

/-- The lines that are dirty in a core's L1. -/
def State.dirtyLines (s : State) (core : Nat) : List Nat :=
  (s.l1.filter (fun x => x.core == core && x.dirty != 0)).map (·.line)

/-- A core's full L1 (256 KiB) loses its oldest line that is clean or that no engine owns (R6, R314). DESIGN CHOICE (log 64). -/
def State.l1Room (s : State) (core : Nat) : State :=
  let mine := s.l1.filter (fun x => x.core == core)
  if mine.length < 2048 then s
  else match mine.find? (fun x => x.dirty == 0 || !s.owned x.line) with
    | some x => (s.writeBack core x.line).l1Drop core x.line
    | none => s

/-- A line comes into a core's L1. Where every line of a full one must stay for an engine, it goes at once: what it brings is
written back (R6, R314). DESIGN CHOICE (log 64). -/
def State.l1Fill (s : State) (x : L1Line) : State :=
  let s := (s.l1Room x.core).l1Put x
  if (s.l1.filter (fun y => y.core == x.core)).length ≤ 2048 then s else (s.writeBack x.core x.line).l1Drop x.core x.line

/-- A line comes into a die's RDC (32 MiB); a full one loses its oldest line (R6). DESIGN CHOICE (log 64). -/
def State.rdcFill (s : State) (die line : Nat) (data : List Byte) : State :=
  let mine := s.rdc.filter (fun x => x.die == die)
  let s := if mine.length < 262144 then s else match mine.head? with | some x => s.rdcDrop die x.line | none => s
  { s with rdc := s.rdc ++ [{ die := die, line := line, data := data }] }

/-- A read reaches the home of a line from elsewhere: every holder but the reader is recalled (R316). -/
def State.recall (s : State) (line : Nat) (reader : Option Nat) : State := s.recallBy State.homeWrite line reader

/-- A read at the home: recall, the ECC, then the home's bytes. -/
def State.homeRead (s : State) (line : Nat) (reader : Option Nat) : State × List Byte :=
  let s := ((s.recall line reader).eccCheck line).fillProxy line
  (s, s.homeData line)

/-- The bytes of a line as a core's miss finds them: in its die's RDC when homed elsewhere, or at the home (R248). -/
def State.fetchLine (s : State) (core line : Nat) : State × List Byte :=
  if homeDie line == coreDie core then s.homeRead line (some core)
  else
    match s.rdc.find? (fun r => r.die == coreDie core && r.line == line) with
    | some r => (s, r.data)
    | none =>
      let (s, d) := s.homeRead line (some core)
      (s.rdcFill (coreDie core) line d, d)

/-- What comes before an operation that a home executes for a core: the core's dirty bytes of the line are written back
(R260), its copies go, and other holders are recalled (R316). -/
def State.homeTake (s : State) (core line : Nat) : State :=
  (((s.writeBack core line).l1Drop core line).rdcDrop (coreDie core) line |>.recall line (some core)).eccCheck line |>.fillProxy line

/-- The bytes of a line as a core's relaxed load sees them, with its L1 filled. `need` are the bytes asked for. A page without
L1 (R245) is read at the home past the L1 and the RDC. -/
def State.coreLine (s : State) (core line : Nat) (need : BitVec 128) (nol1 : Bool) : State × List Byte :=
  if nol1 then
    let s := s.homeTake core line
    (s, s.homeData line)
  else
    match s.l1Find core line with
    | some x =>
      if x.filled || (need &&& ~~~x.dirty) == 0 then (s, x.data)
      else
        let (s, d) := s.fetchLine core line
        let d := patch d x.data x.dirty
        (s.l1Put { x with data := d, filled := true }, d)
    | none =>
      let (s, d) := s.fetchLine core line
      (s.l1Fill { core := core, line := line, data := d, dirty := 0, filled := true }, d)

/-- n bytes from a physical address inside one line, as a core's relaxed load reads them. -/
def State.coreLoad (s : State) (core pa n : Nat) (nol1 : Bool) : State × List Byte :=
  let (s, d) := s.coreLine core (pa / 128) (byteMask (pa % 128) n) nol1
  (s, (d.drop (pa % 128)).take n)

/-- The bytes that an acquire reads: at the home, under the core's own dirty bytes; the core's older copies of the line
give way to what it read (R311). -/
def State.acquireLine (s : State) (core line : Nat) : State × List Byte :=
  let (s, d) := s.homeRead line (some core)
  let s := s.rdcDrop (coreDie core) line
  match s.l1Find core line with
  | some x => let d := patch d x.data x.dirty; (s.l1Put { x with data := d, filled := true }, d)
  | none => (s, d)

def State.acquireLoad (s : State) (core pa n : Nat) : State × List Byte :=
  let (s, d) := s.acquireLine core (pa / 128)
  (s, (d.drop (pa % 128)).take n)

/-- A plain store of bytes of one line into a core's L1 (R314), or, for a page without L1, to the home past the core's copies
(R245). -/
def State.plainStore (s : State) (core line : Nat) (mask : BitVec 128) (data : List Byte) (nol1 : Bool) : State :=
  if nol1 then (((s.writeBack core line).l1Drop core line).rdcDrop (coreDie core) line).homeWrite line mask data
  else
    match s.l1Find core line with
    | some x => s.l1Put { x with data := patch x.data data mask, dirty := x.dirty ||| mask }
    | none => s.l1Fill { core := core, line := line, data := data, dirty := mask, filled := false }

/-- A plain store of bytes inside one line. -/
def State.coreStore (s : State) (core pa : Nat) (bytes : List Byte) (nol1 : Bool) : State :=
  s.plainStore core (pa / 128) (byteMask (pa % 128) bytes.length) (placed (pa % 128) bytes) nol1

/-- Bytes inside one line at its home. -/
def State.homeBytes (s : State) (pa n : Nat) : List Byte := ((s.homeData (pa / 128)).drop (pa % 128)).take n

/-- A write of bytes inside one line at its home. -/
def State.homePut (s : State) (pa : Nat) (bytes : List Byte) : State :=
  s.homeWrite (pa / 128) (byteMask (pa % 128) bytes.length) (placed (pa % 128) bytes)

/-- A run of bytes that an engine, the CP or a link writes at its homes: one request per line (R252). -/
def State.homeRun (s : State) (pa : Nat) (bytes : List Byte) : State :=
  let n := bytes.length
  (linesOf pa n).foldl (fun s line =>
    let lo := max pa (line * 128); let hi := min (pa + n) (line * 128 + 128)
    s.homePut lo ((bytes.drop (lo - pa)).take (hi - lo))) s

/-- A run of bytes read at the homes by an agent that has no L1: holders are recalled (R316). -/
def State.homeLoad (s : State) (pa n : Nat) : State × List Byte :=
  let s := (linesOf pa n).foldl (fun s line => (s.homeRead line none).1) s
  (s, (List.range n).map (fun i => (s.homeData ((pa + i) / 128)).getD ((pa + i) % 128) 0))

/-! ### Synchronisation -/

/-- What an acquire at a scope invalidates (R317): a dirty line keeps only its dirty bytes. -/
def State.invalidate (s : State) (core scope : Nat) : State :=
  let kept := (s.l1.filter (fun (x : L1Line) => x.core != core || x.dirty != 0)).map
    (fun (x : L1Line) => if x.core == core then { x with filled := false } else x)
  let s := if 2 ≤ scope then { s with l1 := kept } else s
  let s := if 4 ≤ scope then { s with rdc := s.rdc.filter (fun r => r.die != coreDie core) } else s
  if 5 ≤ scope then
    (s.proxy.map (·.line)).foldl (fun s line => s.proxyDrop line) s
  else s

/-- A release at system scope reaches the proxy L2 slices (R38, R41, R318): dirty bytes of system memory go to the host, those too that
other agents have written, since they may have come before the release (R310). DEDUCED (log 79). -/
def State.cpRelease (s : State) : State :=
  ((s.proxy.filter (fun p => p.dirty != 0)).map (·.line)).foldl (fun s l => s.proxyClean l) s

/-- An eager release: the core's dirty lines are at their homes, and at system scope what is written to system memory is in host
memory (R315, R318). -/
def State.eagerRelease (s : State) (core : Nat) (system : Bool) : State :=
  let s := s.writeBackAll core (s.dirtyLines core)
  if system then s.cpRelease else s

/-- What an acquire at system scope by the CP invalidates (R317): it has no L1 and no RDC. DEDUCED (log 46). -/
def State.cpAcquire (s : State) : State := (s.proxy.map (·.line)).foldl (fun s line => s.proxyDrop line) s

/-- A release at a line is eager: at system scope (R318), or with four holders recorded (R315). -/
def State.releasesEagerly (s : State) (line scope : Nat) : Bool :=
  5 ≤ scope || decide (4 ≤ (s.holders.filter (fun h => h.line == line)).length)

/-- A release at core scope or wider reaches the home of its line (R315): the core becomes a holder for the lines dirty in its
L1, or writes everything back first. A core without dirty lines has nothing to be recalled for (R316). -/
def State.recordRelease (s : State) (core line scope : Nat) : State :=
  if s.releasesEagerly line scope then s.eagerRelease core (5 ≤ scope)
  else
    let others := s.holders.filter (fun h => !(h.line == line && h.core == core))
    if s.dirtyLines core = [] then { s with holders := others }
    else { s with holders := others ++ [{ line := line, core := core, released := s.dirtyLines core }] }

/-- A store with order release (R315): its line's dirty bytes go first, then the release is recorded, then it is applied
at the home. -/
def State.releaseLine (s : State) (core line : Nat) (mask : BitVec 128) (data : List Byte) (scope : Nat) : State :=
  let s := ((s.writeBack core line).l1Drop core line).rdcDrop (coreDie core) line
  (s.recordRelease core line scope).homeWrite line mask data

/-! ### Lines that an engine owns (R321) -/

/-- Some dirty line of a core's L1 cannot be written back before an engine has done with it. -/
def State.flushHeld (s : State) (core : Nat) : Bool := (s.dirtyLines core).any s.owned

/-- An access that reaches the home of a line waits: an engine owns the line, or a line that the recall of a holder writes back. -/
def State.homeHeld (s : State) (op : Option Nat) (line : Nat) (reader : Option Nat) : Bool :=
  s.ownedFor op line || s.holders.any (fun h => h.line == line && reader != some h.core && h.released.any (s.ownedFor op))

/-- Some line of a run of bytes at its home waits for an engine. -/
def State.runHeld (s : State) (op : Option Nat) (pa n : Nat) : Bool := (linesOf pa n).any (fun l => s.homeHeld op l none)

/-- A core's load of these bytes of a line reaches the home. -/
def State.reachesHome (s : State) (core line : Nat) (need : BitVec 128) (nol1 : Bool) : Bool :=
  nol1 ||
  (!(match s.l1Find core line with | some x => x.filled || (need &&& ~~~x.dirty) == 0 | none => false) &&
    (homeDie line == coreDie core || !s.rdc.any (fun r => r.die == coreDie core && r.line == line)))

/-- A core's load waits for an engine at the home (R321). -/
def State.loadWaits (s : State) (core line : Nat) (need : BitVec 128) (nol1 : Bool) : Bool :=
  s.reachesHome core line need nol1 && s.homeHeld none line (some core)

/-- A release of a core at a line waits: it writes back a line that an engine owns. -/
def State.releaseHeld (s : State) (core line scope : Nat) : Bool := s.releasesEagerly line scope && s.flushHeld core

/-- A line is poisoned for a core that has not rewritten the whole of it (R251, R260), nor a holder that a read recalls (R316). -/
def State.poisonedFor (s : State) (core line : Nat) : Bool :=
  s.poisoned line &&
  !(s.l1.any (fun x => x.line == line && x.dirty == BitVec.allOnes 128 &&
    (x.core == core || s.holders.any (fun h => h.line == line && h.core == x.core && h.released.contains line))))

/-! ### Accesses of the CP and the engines by virtual address -/

/-- What an access of the CP, or one page's part of an engine's, meets. -/
inductive Access (α : Type) where
  | ok (v : α)
  /-- It waits: for a page, or for an engine that owns a line (R321). -/
  | miss (page : Option Nat)
  /-- A failure that cannot be replayed: TRANSLATION (false) or PERMISSION (true). -/
  | fail (permission : Bool)
deriving DecidableEq, Repr

/-- The page of a virtual address, with W demanded for a write. -/
def State.page (s : State) (v : View) (va : Nat) (write : Bool) : Access Page :=
  if 2 ^ 57 ≤ va then .fail false
  else
    match s.translate v va with
    | .ok p => if write && !p.w then .fail true else .ok p
    | .miss p => .miss (some p)
    | .invalid | .failed => .fail false
    | .outside => .fail true

/-- The free bytes that a peer answers to one request or instruction (R404). DESIGN CHOICE (log 13). -/
def State.peerBytes (s : State) (pa n : Nat) : List Byte := (List.range n).map (fun i => Config.peerByte s.draws (pa + i))

/-- A write through a peer window goes out on its port (R404, R405): the peer's address is PBASE and the offset. -/
def State.peerSend (s : State) (fn pa : Nat) (bytes : List Byte) (bad : Bool) : State :=
  match s.importWindow fn pa with
  | some w => { s with peerOut := { port := w.port, peer := w.peer, addr := w.pbase + bitsOf pa 48 0, data := bytes, bad := bad } :: s.peerOut }
  | none => s

/-- n bytes at a virtual address that do not cross a page, read at the home; the walk reads its entries (R249). -/
def State.readVa (s : State) (v : View) (va n : Nat) : Access (State × List Byte) :=
  match s.page v va false with
  | .ok p =>
    let s := s.walkCheck v va
    if isPeerPa p.pa then .ok ({ s with draws := s.draws + 1 }, s.peerBytes p.pa n)
    else if s.runHeld v.op p.pa n then .miss none
    else .ok (s.homeLoad p.pa n)
  | .miss p => .miss p
  | .fail x => .fail x

/-- Bytes written at a virtual address, not crossing a page, at the home. -/
def State.writeVa (s : State) (v : View) (va : Nat) (bytes : List Byte) : Access State :=
  match s.page v va true with
  | .ok p =>
    let s := s.walkCheck v va
    if isPeerPa p.pa then .ok (s.peerSend v.sp.fn p.pa bytes false)
    else if s.runHeld v.op p.pa bytes.length then .miss none
    else .ok (s.homeRun p.pa bytes)
  | .miss p => .miss p
  | .fail x => .fail x

/-- The poison of the lines that n bytes at a virtual address touch. -/
def State.poisonVa (s : State) (v : View) (va n : Nat) : Bool :=
  match s.page v va false with
  | .ok p => if isPeerPa p.pa then (linesOf p.pa n).any (Config.peerPoisoned s.draws) else (linesOf p.pa n).any s.lineBad
  | _ => false

/-- The checks that the data of n bytes at a virtual address meet on leaving the memory system, and the walk before them (R249, R250). -/
def State.checkVa (s : State) (v : View) (va n : Nat) : State :=
  match s.page v va false with
  | .ok p => if isPeerPa p.pa then s.walkCheck v va else (linesOf p.pa n).foldl State.checkLine (s.walkCheck v va)
  | _ => s.walkCheck v va

end Sys2Proof.Machine
end

