-- ==== Sys2Proof/Machine/Ops.lean ====
section
/-! DEFINITION. The named operations over waves and registers (R99, R146 to R156), taking a trap (R364 to R368) as one
operation with the return from it beside it (R388), parking (R145), sealing (R372), asynchronous operations (R155, R156)
and the beginning of retirement (R391). -/

namespace Sys2Proof.Machine

/-! ### Waves -/

def State.wave? (s : State) (uid : Nat) : Option Wave := s.waves.find? (fun w => w.uid == uid)
def State.issuing (s : State) : Option Wave := s.cur.bind s.wave?
/-- The wave with w's uid becomes w. -/
def State.putWave (s : State) (w : Wave) : State := { s with waves := s.waves.map (fun x => if x.uid = w.uid then w else x) }
def State.modWave (s : State) (uid : Nat) (f : Wave → Wave) : State :=
  { s with waves := s.waves.map (fun x => if x.uid = uid then f x else x) }

/-- Events that become due, after everything already due. -/
def State.due (s : State) (i : Instr) (inp : Input) : State := { s with agenda := s.agenda ++ [.ev i inp] }

/-- The meaning of a wave instruction: it acts on the wave at the issue stage. DESIGN CHOICE (log 15). -/
def State.onWave (s : State) (f : Wave → State) : Host.Outcome State Fault Refusal :=
  match s.issuing with
  | none => .fault .noIssuingWave
  | some w => .next (f w)

/-- The key of a wave's core with its context: a saved context keeps its own registers, scratchpad, tiles and semaphores. DEDUCED (log 53). -/
def Wave.cc (w : Wave) : Nat := 192 * w.cx + w.core

/-- wid (R154). -/
def Wave.wid (w : Wave) : Word := BitVec.ofNat 32 (w.part * 65536 + w.core * 256 + w.slot)

/-- How a wave's accesses reach memory (R244): through its core's TLB and its die's translation cache. -/
def Wave.view (w : Wave) : View :=
  { sp := w.space, part := w.part, tlbs := [w.core, 192 + coreDie w.core], refused := w.refused, cp := false, op := none }
/-- How a wave's fetch reaches memory (R115): through the core's instruction TLB first. -/
def Wave.codeView (w : Wave) : View := { w.view with tlbs := (196 + w.core) :: w.view.tlbs }
/-- How an engine's operation reaches memory (R255): through its die's translation cache. DESIGN CHOICE (log 64). -/
def Op.view (o : Op) : View :=
  { sp := o.space, part := o.part, tlbs := if o.packet.isSome then [] else [192 + coreDie o.core], refused := o.refused,
    cp := o.uid == 0, op := some o.id }
/-- How the CP reaches memory: by a walk of its own. DESIGN CHOICE (log 64). -/
def cpView (sp : Space) (part : Nat) : View := { sp := sp, part := part, tlbs := [], refused := [], cp := true, op := none }

/-- The cores of a partition in ascending order (R57). -/
def State.partCores (s : State) (p : Nat) : List Nat :=
  (List.range 192).filter (fun c => (s.part p).clusters.testBit (coreCluster c))

/-- WaveIndex() (R99). -/
def State.waveIndex (s : State) (w : Wave) : Nat :=
  128 * ((s.partCores w.part).filter (· < w.core)).length + w.slot

/-! ### Scalar and mask registers -/

def Wave.rs (w : Wave) (r : Nat) : Word := kvGet 0 w.s r
def Wave.setS (w : Wave) (r : Nat) (v : Word) : Wave := { w with s := kvPut 0 w.s r v }
/-- The 64-bit pair at r (R117). -/
def Wave.pair (w : Wave) (r : Nat) : DWord := pairOf (w.rs r) (w.rs (r + 1))
def Wave.setPair (w : Wave) (r : Nat) (v : DWord) : Wave := (w.setS r (loWord v)).setS (r + 1) (hiWord v)

/-- A mask register; k0 reads as all ones (R148). -/
def Wave.rk (w : Wave) (k : Nat) : LaneMask := if k = 0 then BitVec.allOnes 64 else kvGet 0 w.k k
/-- A write to k0 is ignored (R148). -/
def Wave.setK (w : Wave) (k : Nat) (m : LaneMask) : Wave := if k = 0 then w else { w with k := kvPut 0 w.k k m }

/-- Active(): the lanes of exec AND km (R120). -/
def Wave.active (w : Wave) (km : Nat) : LaneMask := w.exec &&& w.rk km

/-- One bit of a word set to a value. -/
def setBit32 (x : Word) (i : Nat) (b : Bool) : Word :=
  if b then x ||| ((1 : Word) <<< i) else x &&& ~~~((1 : Word) <<< i)

def Wave.sccT (w : Wave) : Bool := w.scc.getLsbD 0

/-- The sticky flags of fmt, NV to SC at bits 20 to 25 (R179). -/
def Wave.raise (w : Wave) (flags : BitVec 6) : Wave := { w with fmt := w.fmt ||| ((flags.zeroExtend 32) <<< 20) }

/-- fmt restored from a mask-stack entry (R181): control fields from the entry, each sticky flag kept or added. -/
def restoreFmt (now entry : Word) : Word := (entry &&& 0xFFFF#32) ||| ((now ||| entry) &&& 0x03F00000#32)

/-! ### Vector registers: the windows and the backing store -/

/-- Where a virtual vector register lies (R99): a row of the register file, or 256 bytes of DRAM. -/
inductive VLoc where
  | row (key : Nat)
  | back (pa : Nat)
deriving DecidableEq, Repr

/-- Rows of one core's register file in State.rf. -/
def rowKey (cc blk row : Nat) : Nat := cc * 6144 + blk * 8 + row

def State.vloc (s : State) (w : Wave) (n : Nat) : VLoc :=
  if n < 8 * w.foot.ewin then .row (rowKey w.cc (w.ebase + n / 8) (n % 8))
  else if n < 8 * w.foot.ewin + 8 * w.foot.wwin then
    .row (rowKey w.cc (w.wbase + (n - 8 * w.foot.ewin) / 8) ((n - 8 * w.foot.ewin) % 8))
  else .back ((s.part w.part).bstore.toNat + 65536 * s.waveIndex w + 256 * n)

/-- 64 little-endian words from bytes. -/
def wordsFrom : Nat → List Byte → List Word
  | 0, _ => []
  | n + 1, bs => BitVec.ofNat 32 (leNat (bs.take 4)) :: wordsFrom n (bs.drop 4)

def bytesFrom (v : VReg) : List Byte := v.flatMap (fun x => toBytes 4 x.toNat)

/-- A virtual vector register as it stands; a backing-store register not written since birth is zero (R146). -/
def State.readV (s : State) (w : Wave) (n : Nat) : VReg :=
  match s.vloc w n with
  | .row key => kvGet zeroV s.rf key
  | .back pa => if w.backed.contains n then wordsFrom 64 (memBytes s.mem pa 256) else zeroV

/-- A virtual vector register becomes v in the lanes of `lanes`. A backing-store line that the lanes do not cover is checked before
the merge (R250), and stays poisoned (R251). DEDUCED (log 27). -/
def State.writeV (s : State) (uid n : Nat) (lanes : LaneMask) (v : VReg) : State :=
  match s.wave? uid with
  | none => s
  | some w =>
    let new := mergeV (s.readV w n) lanes (laneOf v)
    match s.vloc w n with
    | .row key => { s with rf := kvPut zeroV s.rf key new }
    | .back pa =>
      let half (line : Nat) : Bool := (List.range 32).all (fun i => lanes.getLsbD (32 * (line - pa / 128) + i))
      let merged := (linesOf pa 256).filter (fun line => w.backed.contains n && !half line)
      let s := merged.foldl State.checkLine s
      let keep := merged.filter s.poisoned
      let s := keep.foldl (fun (s : State) line => { s with poison := kvPut false s.poison line true }) (s.homeRun pa (bytesFrom new))
      { s with spillBytes := s.spillBytes + 256 }.modWave uid
        (fun w => { w with backed := if w.backed.contains n then w.backed else n :: w.backed })

/-- The lines of DRAM that reading these registers reads. -/
def State.spillLines (s : State) (w : Wave) (regs : List Nat) : List Nat :=
  (regs.filter w.backed.contains).flatMap (fun n => match s.vloc w n with | .back pa => linesOf pa 256 | .row _ => [])

/-- Reading these registers: bytes move from the backing store (R100), whose lines are checked (R249, R250). -/
def State.spillRead (s : State) (w : Wave) (regs : List Nat) : State :=
  let s := (s.spillLines w regs).foldl State.checkLine s
  { s with spillBytes := s.spillBytes + 256 * (regs.filter (fun n => 8 * (w.foot.ewin + w.foot.wwin) ≤ n && w.backed.contains n)).length }

/-! ### Birth (R143) -/

/-- The reset value of fmt (R179). -/
def fmtReset : Word := 0x277

/-- Where a wave is placed: core, slot, and the first units of its runs (R62). -/
structure Site where
  core : Nat
  slot : Nat
  ebase : Nat
  wbase : Nat
  spadBase : Nat
  accBase : Nat
  semBase : Nat
deriving DecidableEq, Repr

/-- What a wave belongs to. -/
structure Origin where
  part : Nat
  cx : Nat
  fn : Nat
  queue : Nat
  launch : Nat
  index : Nat
  space : Space
  prio : Nat
deriving DecidableEq, Repr

/-- A wave with the values of R143 at birth. -/
def Wave.born (uid : Nat) (o : Origin) (at_ : Site) (desc : KDesc) (foot : Footprint) (placed : Nat) : Wave :=
  { uid := uid, core := at_.core, slot := at_.slot, part := o.part, cx := o.cx, fn := o.fn, queue := o.queue, launch := o.launch,
    index := o.index, child := false, desc := desc, foot := foot, space := o.space, prio := o.prio, placed := placed, life := .born,
    pc := desc.entry, grp := [], xfer := none, exec := 0, s := [], k := [], fmt := fmtReset, scc := 0, maskStack := [], callStack := [],
    tbudget := 0, inld := desc.inld, sdepth := 0, args := 0, icount := 0, ibase := 0, ctaglo := 0, ctaghi := 0, parent := 0,
    ebase := at_.ebase, wbase := at_.wbase, spadBase := at_.spadBase, accBase := at_.accBase, semBase := at_.semBase, backed := [],
    sealFlag := false, sealSince := 0, inTrap := false, hidden := [], hiddenSeal := false, overdueAt := 0, last := 0, openOps := [],
    batches := [], params := none, didWill := false, claims := [], keys := [], takes := [], fill := [], chosen := false, ckpt := none, halted := false,
    parkWords := 0, parkC := false, parkPipe := .none, ticket := 0, fence := 0, stall := false, refused := [], blocked := none }

/-! ### Traps -/

/-- What a trap reports (R366). -/
structure Trap where
  cause : Nat
  fsub : Nat := 0
  pc : Option DWord := none
  addr : DWord := 0
  lanes : LaneMask := 0
  detail : Nat := 0
  arg : Word := 0
  faddr1 : DWord := 0
  faddr2 : DWord := 0
  /-- The address of a POISON trap is virtual: the region classes are looked up (R254). -/
  classed : Bool := false
  fw : Bool := false
  /-- The virtual addresses whose walks the instruction has caused (R249). -/
  walks : List Nat := []
  /-- The lines of memory whose checks have failed (R250). -/
  lines : List Nat := []
deriving DecidableEq, Repr

/-- Trap causes (R364). -/
def illegalOpcode : Trap := { cause := 0x01 }
def illegalEncoding : Trap := { cause := 0x02 }
def matrixCombination : Trap := { cause := 0x06 }
def depthTrap : Trap := { cause := 0x16 }
def cohortTrap : Trap := { cause := 0x10 }

/-- The lowest set lane as a DETAIL field. -/
def lowDetail (m : LaneMask) : Nat := (lowestLane m).getD 0

/-- A memory fault: the failing lanes, the lowest of them, and the address at which it failed (R366). -/
def memTrap (cause fsub : Nat) (addr : Nat) (lanes : LaneMask) : Trap :=
  { cause := cause, fsub := fsub, addr := BitVec.ofNat 64 addr, lanes := lanes, detail := lowDetail lanes }

/-- User class (R364): may go to the kernel's handler. -/
def Trap.user (t : Trap) : Bool :=
  t.cause == 0x03 || t.cause == 0x0B || (t.cause == 0x0C && t.fsub == 0) || t.cause == 0x0D || t.cause == 0x11 || t.cause == 0x14

/-- The region-class entry of a poisoned address (R254): the lowest that matches. -/
def State.regionClass (s : State) (part fn va : Nat) : Option (Nat × Nat) :=
  (((s.part part).classes.zipIdx).find? (fun e =>
    e.1.v && e.1.func == fn && decide (e.1.basePage ≤ va / 4096) && decide (va / 4096 ≤ e.1.limitPage))).map (fun e => (e.2, e.1.cls))

/-- CLASS, RCIDX and NOMATCH of a record (R254, R366) as the table stands: `va` is the address of a POISON trap that is looked up. -/
def State.classBits (s : State) (part fn : Nat) (va : Option Nat) : Nat :=
  match va.map (s.regionClass part fn) with
  | some (some (i, c)) => c * 2 ^ 16 + i * 2 ^ 24
  | some none => 2 ^ 14
  | none => 0

/-- Bits 31:0 of the record (R366) without what the region-class table gives. -/
def Trap.info (t : Trap) (w : Wave) : Nat :=
  t.cause + t.fsub * 2 ^ 8 + (if t.user then 2 ^ 12 else 0) + (if t.fw then 2 ^ 13 else 0) +
  (if t.cause == 0x0C && !t.classed then 2 ^ 14 else 0) + (if w.inTrap then 2 ^ 15 else 0)

/-- The address that the region-class table is asked about. -/
def Trap.va (t : Trap) : Option Nat := if t.cause == 0x0C && t.classed then some t.addr.toNat else none

/-- Bits 31:0 of the record as they stand now. -/
def State.trapInfo (s : State) (w : Wave) (t : Trap) : Nat := t.info w + s.classBits w.part w.fn t.va

/-- The trap record as a 1,024-bit number (R366), SEQ k; its region class is added when it is written. -/
def State.trapBits (s : State) (w : Wave) (t : Trap) (k : Nat) : Nat :=
  t.info w + (k % 2 ^ 32) * 2 ^ 32 + w.wid.toNat * 2 ^ 64 + t.arg.toNat * 2 ^ 96 + w.desc.kid.toNat * 2 ^ 128 +
  ((t.pc.getD w.pc).toNat % 2 ^ 57) * 2 ^ 192 + (t.faddr1.toNat % 2 ^ 57) * 2 ^ 256 + (t.faddr2.toNat % 2 ^ 57) * 2 ^ 320 +
  t.addr.toNat * 2 ^ 384 + t.lanes.toNat * 2 ^ 448 + w.exec.toNat * 2 ^ 512 + (t.detail % 2 ^ 24) * 2 ^ 576 +
  (s.dtime.toNat % 2 ^ 40) * 2 ^ 600 +
  (match w.xfer with | some g => 2 ^ 640 + (g.toNat % 2 ^ 57) * 2 ^ 647 | none => 0)

def State.queue? (s : State) (fn q : Nat) : Option Queue := s.queues.find? (fun x => x.fn == fn && x.q == q)
def State.modQueue (s : State) (fn q : Nat) (f : Queue → Queue) : State :=
  { s with queues := s.queues.map (fun x => if x.fn = fn ∧ x.q = q then f x else x) }

/-- The space that a queue's descriptor names (R30, R56). -/
def Queue.space (q : Queue) : Space := { fn := q.fn, pv := q.desc.pv, pasid := q.desc.pasid }

/-- Events that reach the device over PCI Express link 0 (R399): all that the host sends, but its stores to its own memory and the next
tries of what already waits. -/
def Instr.overLink (i : Instr) (inp : Input) : Bool :=
  match i with
  | .hostWriteIn => decide (inp.addr < Config.sysBase)
  | .qcmdEnable | .atsInvalidation | .tdiLeaveRun => inp.op == 0
  | .hostReadIn | .qcmdDisable | .qcmdReset | .qcmdClear | .notify | .pctlCreate | .pctlDestroy | .pcsw | .dptinvPage | .dptinvAll
  | .dptstatRead | .resridxWrite | .registerWrite | .recoveryImageLoad | .attestationRequest | .tdiConfigLocked | .pageResponse => true
  | _ => false

/-- A request from outside, host's or peer's: each stands for itself, where the device's own next tries do not. -/
def Turn.fromOutside : Turn → Bool
  | .ev .peerRequestIn _ => true
  | .ev i inp => Instr.overLink i inp
  | _ => false

/-- A turn waits until an operation has completed (R321), after what waits already. -/
def State.hold (s : State) (i : Instr) (inp : Input) : State :=
  if !Turn.fromOutside (.ev i inp) && s.waiting.contains (.ev i inp) then s else { s with waiting := s.waiting ++ [.ev i inp] }

/-- A CP access that a page or an engine holds up waits as an operation (R54, R321, R366). -/
def State.addCpOp (s : State) (fn part : Nat) (sp : Space) (page : Option Nat) (kind : OpKind) : State :=
  let s := (s.requestPages sp page.toList).hold .asyncWriteLands { op := s.nextOp, core := 192 * (s.func fn).ctx }
  { s with nextOp := s.nextOp + 1, ops := s.ops ++
      [{ id := s.nextOp, uid := 0, core := 0, cx := (s.func fn).ctx, part := part, launch := 0, space := sp, cls := none, pipeA := false,
         kind := kind, done := .none, packet := none, owned := [], dropped := false, waits := page.toList, rows := [], pc := 0, pins := [], refused := [], moved := [], spads := [] }] }

/-- A release atomic at system scope by the CP: every dirty line is at its home before it (R41, R54). -/
def State.cpAdd (s : State) (pa : Nat) (delta : Nat) : State :=
  let v := leNat (s.homeLoad pa 8).2
  ((s.homeLoad pa 8).1.homeRun pa (toBytes 8 ((v + delta) % 2 ^ 64))).cpRelease

/-- ERRSIG falls by one, waits for its page, or is skipped (R54). -/
def State.errSignal (s : State) (fn q addr : Nat) : State :=
  match s.queue? fn q with
  | none => s
  | some qu =>
    if addr = 0 then s
    else
      match s.page (cpView qu.space (s.func fn).part) addr true with
      | .ok p =>
        let s := s.walkCheck (cpView qu.space (s.func fn).part) addr
        if isPeerPa p.pa then s
        else if s.lineBad (p.pa / 128) then s.checkLine (p.pa / 128)
        else if s.runHeld none p.pa 8 then s.addCpOp fn (s.func fn).part qu.space none (.errSignal fn q addr)
        else s.cpAdd p.pa (2 ^ 64 - 1)
      | .miss pg => s.addCpOp fn (s.func fn).part qu.space pg (.errSignal fn q addr)
      | .fail _ => s.walkCheck (cpView qu.space (s.func fn).part) addr

/-- A queue enters ERROR (R54): consumption stops, ERRSIG is decremented and VEC raised. -/
def State.queueError (s : State) (fn q cause : Nat) : State :=
  match s.queue? fn q with
  | none => s
  | some qu =>
    if qu.state = .idle ∨ qu.state = .active then
      let s := s.modQueue fn q (fun x => { x with state := .error, cause := cause, disabling := false })
      let s := s.errSignal fn q qu.desc.errSig
      if qu.desc.ie then { s with msix := (fn, qu.desc.vec) :: s.msix } else s
    else s

/-- The CP writes a trap record and then applies R54 (R366): it waits for a page, and skips what cannot be written. -/
def State.writeRecord (s : State) (fn q addr : Nat) (va : Option Nat) (bits : Nat) : State :=
  match s.queue? fn q with
  | none => s
  | some qu =>
    match s.writeVa (cpView qu.space (s.func fn).part) addr (toBytes 128 (bits + s.classBits (s.func fn).part fn va)) with
    | .ok s => s.queueError fn q 0x03
    | .miss pg => s.addCpOp fn (s.func fn).part qu.space pg (.trapRecord fn q addr va bits)
    | .fail _ => (s.walkCheck (cpView qu.space (s.func fn).part) addr).queueError fn q 0x03

def State.modLaunch (s : State) (id : Nat) (f : Launch → Launch) : State :=
  { s with launches := s.launches.map (fun l => if l.id = id then f l else l) }
def State.launch? (s : State) (id : Nat) : Option Launch := s.launches.find? (fun l => l.id == id)

/-- The halt of the partition's context is complete, and its cores are being saved (R383). -/
def State.saving (s : State) (part : Nat) : Bool := (s.part part).switching.any Prod.snd

/-- The wave issues nothing more and waits to retire (R391). A halted wave's completions are dropped. -/
def State.beginRetire (s : State) (w : Wave) (halted : Bool) : State :=
  let s := s.putWave { w with life := .exiting, halted := halted, ticket := s.nextOp }
  let s := if halted then
      { s with ops := s.ops.map (fun (o : Op) => if o.uid = w.uid ∧ (o.pipeA ∨ o.cls = some .CP ∨ o.cls = some .MM) then { o with dropped := true } else o) }
    else s
  let claims := s.ops.filter (fun o => halted && o.uid == w.uid && (match o.kind with | .claim .. => true | _ => false))
  let s := claims.foldl (fun s o => s.due .asyncWriteLands { op := o.id, core := w.cc }) s
  s.due .waveRetire { uid := w.uid }

/-- A halting trap (R366, R367): the record, the end of the wave, and a launch that never completes. DEDUCED (log 35). -/
def State.haltWave (s : State) (w : Wave) (t : Trap) : State :=
  match s.queue? w.fn w.queue with
  | none => (s.modLaunch w.launch (fun l => { l with broken := true })).beginRetire w true
  | some qu =>
    let bits := s.trapBits w t qu.records
    let s := s.modQueue w.fn w.queue (fun x => { x with records := x.records + 1 })
    let s := (s.modLaunch w.launch (fun l => { l with broken := true })).beginRetire w true
    s.writeRecord w.fn w.queue (qu.desc.trapAddr + 128 * (qu.records % 32)) t.va bits

/-- The registers that a handler finds (R368), s240 to s255. -/
def State.handlerRegs (s : State) (w : Wave) (t : Trap) : List Word :=
  let pc := t.pc.getD w.pc
  [loWord pc, hiWord pc, loWord w.exec, hiWord w.exec, BitVec.ofNat 32 (s.trapInfo w t), t.arg, loWord t.addr, hiWord t.addr,
   loWord t.lanes, hiWord t.lanes, BitVec.ofNat 32 (t.detail % 2 ^ 24), if w.xfer.isSome then 1 else 0,
   loWord (w.xfer.getD 0), hiWord (w.xfer.getD 0), 0, 0]

/-- Scalar registers from r on become the listed words. -/
def Wave.setRun (w : Wave) (r : Nat) : List Word → Wave
  | [] => w
  | x :: xs => (w.setS r x).setRun (r + 1) xs

/-- What the walks and checks of an instruction that traps have found stands (R249, R250). -/
def State.found (s : State) (w : Wave) (t : Trap) : State := t.lines.foldl State.checkLine (s.walked w.view t.walks)

/-- TAKING A TRAP (R365, R368): a user trap enters the kernel's handler, unless there is none or the wave is in it
already; every other trap halts the wave. -/
def State.takeTrap (s : State) (w : Wave) (t : Trap) : State :=
  let s := s.found w t
  if t.user ∧ w.desc.tv ∧ !w.inTrap then
    let hidden := (List.range 16).map (fun i => w.rs (240 + i))
    s.putWave { w.setRun 240 (s.handlerRegs w t) with
      hidden := hidden, hiddenSeal := w.sealFlag, inTrap := true, pc := w.desc.trapEntry, grp := [], xfer := none }
  else s.haltWave w t

/-! ### Moving on -/

/-- The instruction of n words is done: the wave goes on to the next word, or, when the group ends here, to the pending
target (R112, R113). -/
def Wave.advance (w : Wave) (n : Nat) (c : Bool) (p : Pipe) : Wave :=
  if c then { w with pc := w.pc + BitVec.ofNat 64 (4 * n), grp := w.grp ++ [p] }
  else { w with pc := w.xfer.getD (w.pc + BitVec.ofNat 64 (4 * n)), grp := [], xfer := none }

/-- A control transfer of the group, made when its last member is done (R113). -/
def Wave.jump (w : Wave) (t : DWord) : Wave := { w with xfer := some t }

/-- The address of the packet that holds a word (R111). -/
def packetOf (pc : DWord) : DWord := pc - BitVec.ofNat 64 (pc.toNat % 12)

/-- The wave as it stands in s goes on. -/
def State.advanceWave (s : State) (uid n : Nat) (c : Bool) (p : Pipe) : State := s.modWave uid (fun w => w.advance n c p)

/-! ### Parking and sealing -/

/-- The wave parks in an instruction of n words (R145). -/
def State.park (s : State) (w : Wave) (why : Park) (n : Nat) (c : Bool) (p : Pipe) : State :=
  { s with nextOp := s.nextOp + 1 }.putWave
    { w with life := .parked why, parkWords := n, parkC := c, parkPipe := p, ticket := s.nextOp }

/-- A parked wave's event has happened: it goes on after the instruction in which it parked, or replays the one that a
page held up (R145). -/
def Wave.woken (w : Wave) : Wave :=
  match w.life with
  | .parked (.page ..) => { w with life := .ready }
  | _ => { w.advance w.parkWords w.parkC w.parkPipe with life := .ready }

/-- The access of an instruction that has been issued waits for an engine (R263, R321): it is tried again when an engine has gone on, and
until then the wave issues nothing else. DEDUCED (log 66). -/
def State.stall (s : State) (w : Wave) : State := s.putWave { w with stall := true }

/-- Waves that wait for an engine may try again (R159). -/
def State.unstall (s : State) : State := { s with waves := s.waves.map (fun (w : Wave) => { w with stall := false }) }

/-- Turns and waves that an engine held up may try again (R159, R321), the turns before all that has come since (R319, R405). -/
def State.stirWaiting (s : State) : State :=
  { s.unstall with agenda := s.waiting ++ s.agenda.filter (fun t => t.fromOutside || !s.waiting.contains t), waiting := [] }

/-- A wave that a page holds up parks, and Page Requests go out (R145, R244, R247). -/
def State.parkPages (s : State) (w : Wave) (pages : List Nat) : State :=
  (s.requestPages w.space pages).park w (.page w.space (distinct pages)) 0 false .none

/-- A sealing instruction sets the seal flag, and the stretch begins if none runs (R372, R373). -/
def Wave.seal (w : Wave) (now : DWord) : Wave :=
  if w.sealFlag then w else { w with sealFlag := true, sealSince := now }

/-! ### Operations that complete later -/

/-- A register as the scoreboard names it (R155). -/
inductive Reg where
  | s (n : Nat)
  | v (n : Nat)
  | k (n : Nat)
  /-- An accumulator tile, by its number on the core. -/
  | a (n : Nat)
deriving DecidableEq, Repr

def RegWrite.reg : RegWrite → Reg
  | .s n _ => .s n
  | .v n _ _ => .v n
  | .k n _ _ => .k n

/-- The registers that an operation still has to write (R155), its accumulator tiles apart. -/
def Op.pending (o : Op) : List Reg :=
  (match o.done with | .token t => [.s t, .s (t + 1)] | _ => []) ++
  (match o.kind with
   | .regs ws => ws.map RegWrite.reg
   | .accrd d _ _ n _ _ _ _ _ _ => (List.range n).map (fun i => .v (d + i))
   | .bramble (some v) .. => [.v v]
   | .report ws .. => ws.map RegWrite.reg
   | .claim d n kd .. => (if kd = 0 then [] else [.k kd]) ++ (List.range n).map (fun i => .v (d + i))
   | _ => [])

/-- A class counter (R156). -/
def State.classCount (s : State) (uid : Nat) (c : Cls) : Nat := (s.ops.filter (fun o => o.uid == uid && o.cls == some c)).length

/-- A wave chosen for fine pre-emption issues nothing more (R376): it is at a group boundary, or parked. -/
def Wave.leaving (w : Wave) : Bool :=
  w.chosen && (match w.life with | .ready => w.grp == [] | .parked _ => true | _ => false)

/-- An operation's wave leaves its core. -/
def State.ownerLeaves (s : State) (o : Op) : Bool := (s.wave? o.uid).any Wave.leaving

/-- The event at which an operation of a kind completes. -/
def OpKind.event : OpKind → Instr
  | .regs _ => .asyncWriteLands
  | .store => .storeApplied
  | .copy .. => .copyComplete
  | .box .. => .copyComplete
  | .bload .. => .bloadComplete
  | .walk _ => .walkBLoadDone
  | .bramble .. => .brambleComplete
  | .mmq => .matrixPassDepart
  | .accz .. => .asyncWriteLands
  | .accrd .. => .asyncWriteLands
  | .accwr .. => .asyncWriteLands
  | .post .. => .asyncWriteLands
  | .claim .. => .asyncWriteLands
  | .report .. => .asyncWriteLands
  | .parent _ => .asyncWriteLands
  | .trapRecord .. => .asyncWriteLands
  | .errSignal .. => .asyncWriteLands

/-- A walk of the matrix engine, which keeps its tiles until it ends. -/
def OpKind.walks : OpKind → Bool
  | .walk _ => true
  | _ => false

/-- The operation holds an address that was translated at issue: the post of a card, MISSED's (R274). -/
def OpKind.holdsAddress : OpKind → Bool
  | .post .. => true
  | _ => false

/-- An operation of a wave goes out; its completion becomes due. -/
def State.issueOp (s : State) (w : Wave) (cls : Option Cls) (pipeA : Bool) (kind : OpKind) (done : Completion) (owned : List Nat) : State :=
  let op : Op := { id := s.nextOp, uid := w.uid, core := w.core, cx := w.cx, part := w.part, launch := w.launch, space := w.space,
                   cls := cls, pipeA := pipeA, kind := kind, done := done, packet := none, owned := owned, dropped := false,
                   waits := [], rows := [], pc := w.pc, pins := [], refused := [], moved := [], spads := [] }
  let op := { op with rows := op.pending.filterMap (fun r => match r with
    | .v n => (match s.vloc w n with | .row k => some k | .back _ => none)
    | _ => none) }
  { s with nextOp := s.nextOp + 1, ops := s.ops ++ [op] }.due kind.event { op := s.nextOp, core := w.cc }

def State.op? (s : State) (id : Nat) : Option Op := s.ops.find? (fun o => o.id == id)
def State.dropOp (s : State) (id : Nat) : State := { s with ops := s.ops.filter (fun o => o.id != id) }
def State.modOp (s : State) (id : Nat) (f : Op → Op) : State := { s with ops := s.ops.map (fun o => if o.id = id then f o else o) }

/-- A landing register write reaches the wave's register (R155). -/
def State.land (s : State) (uid : Nat) : RegWrite → State
  | .s n v => s.modWave uid (fun w => w.setS n v)
  | .v n lanes v => s.writeV uid n lanes v
  | .k n lanes v => s.modWave uid (fun w => w.setK n ((w.rk n &&& ~~~lanes) ||| (v &&& lanes)))

/-! ### Barrier words, semaphores -/

/-- The key of byte o of a wave's scratchpad allocation. -/
def Wave.spadKey (w : Wave) (o : Nat) : Nat := w.cc * 524288 + w.spadBase * 1024 + o

/-- The scratchpad allocation that an address reaches (R237): the address of its first byte, its first key and its length. -/
def State.spadWindow (s : State) (w : Wave) (a : Nat) : Option (Nat × Nat × Nat) :=
  if a < 0x40000 then (if a < w.foot.spad * 1024 then some (0, w.spadKey 0, w.foot.spad * 1024) else none)
  else if 0x1000000 ≤ a ∧ a < 0x1000000 + 0x40000 * 128 then
    let n := (a - 0x1000000) / 0x40000; let o := (a - 0x1000000) % 0x40000
    match s.waves.find? (fun x => x.core == w.core && x.cx == w.cx && x.slot == n && x.life != .preempted && x.life != .restoring) with
    | some x => if x.launch = w.launch ∧ o < x.foot.spad * 1024 then some (0x1000000 + 0x40000 * n, x.spadKey 0, x.foot.spad * 1024) else none
    | none => none
  else none

/-- The key that an address of the shared window reaches (R237). -/
def State.spadTarget (s : State) (w : Wave) (a : Nat) : Option Nat := (s.spadWindow w a).map (fun x => x.2.1 + (a - x.1))

/-- The key that an address reaches in allocations taken at issue (R392). -/
def spadsAt (spads : List (Nat × Nat × Nat)) (a : Nat) : Option Nat :=
  (spads.find? (fun x => decide (x.1 ≤ a) && decide (a < x.1 + x.2.2))).map (fun x => x.2.1 + (a - x.1))

/-- The live tag of the 8-byte word that holds a byte (R330). -/
def State.live (s : State) (key : Nat) : Bool := kvGet false s.tags (key / 8)

def State.spadBytes (s : State) (key n : Nat) : List Byte := (List.range n).map (fun i => kvGet 0 s.scratch (key + i))
/-- Bytes put at consecutive scratchpad keys. -/
def spadPutAll (m : KV Byte) (key : Nat) : List Byte → KV Byte
  | [] => m
  | b :: r => spadPutAll (kvPut 0 m key b) (key + 1) r

/-- The 8-byte words that n bytes from a scratchpad key touch. -/
def wordsTouched (key n : Nat) : List Nat :=
  if n = 0 then [] else (List.range ((key + n - 1) / 8 - key / 8 + 1)).map (fun i => key / 8 + i)

/-- Bytes written to scratchpad: a word written whole is no longer poisoned (R251). -/
def State.spadPut (s : State) (key : Nat) (bytes : List Byte) : State :=
  let n := bytes.length
  { s with scratch := spadPutAll s.scratch key bytes,
           spadPoison := ((wordsTouched key n).filter (fun x => decide (key ≤ 8 * x) && decide (8 * x + 8 ≤ key + n))).foldl
             (fun m x => kvPut false m x false) s.spadPoison }

/-- A wave's own semaphore n in State.sems. -/
def Wave.semKey (w : Wave) (n : Nat) : Nat := w.cc * 64 + w.semBase + n
def State.sem (s : State) (key : Nat) : Word := kvGet 0 s.sems key
def State.putSem (s : State) (key : Nat) (v : Word) : State := { s with sems := kvPut 0 s.sems key v }

/-- Waiters on a semaphore in the order in which they parked: R333. -/
def State.semWaiters (s : State) (core cx key : Nat) : List Wave :=
  sortBy (fun w => w.ticket) (s.waves.filter (fun w => w.core == core && w.cx == cx &&
    (match w.life with | .parked (.sem k _ _) => k == key | _ => false)))

/-- The wave at the head of a semaphore's waiters acquires (R341). -/
def State.serveOne (s : State) (w : Wave) (key : Nat) (amount : Word) (d : Nat) : State :=
  (s.putSem key (s.sem key - amount)).putWave (w.setS d (s.sem key)).woken

/-- Serve the waiters of a semaphore in order, as far as its value reaches (R333). -/
def State.serveSems (s : State) (core cx key : Nat) : List Wave → State
  | [] => s
  | w :: rest =>
    match w.life with
    | .parked (.sem _ amount d) =>
      if amount ≤ s.sem key then (s.serveOne w key amount d).serveSems core cx key rest else s
    | _ => s

/-- A semaphore of a wave has risen: its `sleep.sem` ends (R387). -/
def Wave.semRisen (core cx key : Nat) (w : Wave) : Wave :=
  if w.core == core && w.cx == cx && w.semKey 0 ≤ key && key < w.semKey w.foot.sema then
    (match w.life with | .parked (.sleep _ true) => w.woken | _ => w)
  else w

/-- A semaphore rises (R268, R333, R341): a `sleep.sem` of its owner ends, unless nothing was added (R387), and its waiters
are served. -/
def State.semAdd (s : State) (core cx key : Nat) (f : Word → Word) : State :=
  let rises := f (s.sem key) != s.sem key
  let s := s.putSem key (f (s.sem key))
  let s := { s with waves := if rises then s.waves.map (Wave.semRisen core cx key) else s.waves }
  s.serveSems core cx key (s.semWaiters core cx key)

end Sys2Proof.Machine
end

