-- ==== Sys2Proof/WellFormed.lean ====
section
/-! DEFINITION. Check 6 of R129 on an instruction: register fields obey R117, codes R119, R125 and R126, modifiers R120 and
R210, and every field that an entry declares unused is zero. What depends on the wave (SEMA) is checked at issue. -/

namespace Sys2Proof

def even8 (r : R8) : Bool := r.toNat % 2 == 0

/-- A run of n registers from r does not pass number 255 (R211, R257). -/
def runOk (r : R8) (n : Nat) : Bool := r.toNat + n ≤ 256

/-- The emulated types (R125): check 7 follows. -/
def emulated (t : BitVec 4) : Bool := t == 13 || t == 14

def isFloatTy (t : BitVec 4) : Bool := t == 2 || t == 3 || t == 4
def isIntTy (t : BitVec 4) : Bool := t == 0 || t == 1 || t == 7 || t == 8 || t == 9 || t == 10
def isSignedTy (t : BitVec 4) : Bool := t == 0 || t == 7 || t == 9
def isArithTy (t : BitVec 4) : Bool := isFloatTy t || isIntTy t
/-- The floating types of conversions (R224). -/
def isCvtFloatTy (t : BitVec 4) : Bool := isFloatTy t || t == 5 || t == 6 || t == 12
/-- The types of pack and unpack (R210). -/
def isPackTy (t : BitVec 4) : Bool :=
  t == 9 || t == 10 || t == 4 || t == 3 || t == 7 || t == 8 || t == 5 || t == 6 || t == 12 || t == 11

/-- The type is one that the form lists, or an emulated one (R210, R129 checks 6 and 7). -/
def tyOk (listed : BitVec 4 → Bool) (t : BitVec 4) : Bool := listed t || emulated t

/-- rnd, sat, nega, negb and absa are zero unless the form permits them for its type (R120, R210); type 13 permits all but
sat in every form (R182). Type 14 is none of the classes that R210 names, so it has what a form permits for every type. -/
def modsOk (ty : BitVec 4) (rnd : BitVec 2) (sat nega negb absa : Bool) (pRnd pSat pNega pNegb pAbsa : Bool) : Bool :=
  (rnd == 0 || pRnd || ty == 13) && (!sat || (pSat && !(ty == 13))) && (!nega || pNega || ty == 13) &&
  (!negb || pNegb || ty == 13) && (!absa || pAbsa || ty == 13)

def V4.mods (p : V4) (pRnd pSat pNega pNegb pAbsa : Bool) : Bool :=
  modsOk p.ty p.rnd p.sat p.nega p.negb p.absa pRnd pSat pNega pNegb pAbsa

def VS.mods (p : VS) (pRnd pSat pNega pNegb pAbsa : Bool) : Bool :=
  modsOk p.ty p.rnd p.sat p.nega p.negb p.absa pRnd pSat pNega pNegb pAbsa

/-- fnx outside OP 0x3C: permitted as the form says, never with type 13 (R182). -/
def rsOk (ty : BitVec 4) (fnx permitted : Bool) : Bool := !fnx || (permitted && !(ty == 13))

/-- `vadd`, `vsub`, `vmul` (R210). -/
def V4.wfAdd (p : V4) : Bool :=
  let f := isFloatTy p.ty; let sgn := f || isSignedTy p.ty
  tyOk isArithTy p.ty && p.mods f true sgn sgn sgn && rsOk p.ty p.fnx f && (p.fnx || p.vc == 0)

/-- `vrcp` (form bit false), `vsqrt`, `vrsqrt`. -/
def V4.wfRoot (p : V4) (fnx : Bool) : Bool :=
  tyOk isFloatTy p.ty && p.mods true true true false true && p.fnx == fnx && rsOk p.ty p.fnx fnx && p.vc == 0 && p.vb == 0

/-- `vlog2`, `vexp2`. -/
def V4.wfLog (p : V4) : Bool :=
  tyOk (· == 2) p.ty && p.mods false true true false true && !p.fnx && p.vc == 0 && p.vb == 0

/-- A form of two sources and no modifier, with the listed types. -/
def V4.wfPlain (p : V4) (listed : BitVec 4 → Bool) : Bool :=
  tyOk listed p.ty && p.mods false false false false false && !p.fnx && p.vc == 0

/-- `vred` and `vscan` (R231, R232). -/
def V4.wfRed (p : V4) : Bool :=
  let f := isFloatTy p.ty
  tyOk isArithTy p.ty && p.mods (f && p.vc == 0) (p.vc == 0) false false false && p.vb == 0 &&
  p.vc.toNat < 6 && (!f || p.vc.toNat < 3)

/-- How many registers a value of a packed type leaves of 32 bits (R226). -/
def packCount (t : BitVec 4) : Nat :=
  if t == 9 || t == 10 || t == 4 || t == 3 then 2 else if t == 11 then 8 else 4

/-- The arithmetic VS forms (R230): the rule of the V4 form, without `.rs` and vc. -/
def VS.wfAdd (p : VS) : Bool :=
  let f := isFloatTy p.ty; let sgn := f || isSignedTy p.ty
  tyOk isArithTy p.ty && p.mods f true sgn sgn sgn && !p.fnx

def VS.wfRoot (p : VS) (fnx : Bool) : Bool :=
  tyOk isFloatTy p.ty && p.mods true true true false true && p.fnx == fnx && rsOk p.ty p.fnx fnx && p.sb == 0

def VS.wfLog (p : VS) : Bool := tyOk (· == 2) p.ty && p.mods false true true false true && !p.fnx && p.sb == 0

/-- `vmin`, `vmax` in VS: with type 13, fnx selects `vmax` as in OP 0x3C, whose checks R230 takes. DEDUCED (log 62). -/
def VS.wfMinMax (p : VS) (fnx : Bool) : Bool :=
  let sgn := isFloatTy p.ty || isSignedTy p.ty
  tyOk isArithTy p.ty && p.mods false false sgn sgn sgn && p.fnx == fnx

def VS.wfPlain (p : VS) (listed : BitVec 4 → Bool) (pSat : Bool) : Bool :=
  tyOk listed p.ty && p.mods false pSat false false false && !p.fnx

/-- The moves (R229): every modifier but z is 0, whatever the type. -/
def VS.wfMove (p : VS) : Bool :=
  tyOk (· == 0) p.ty && p.rnd == 0 && !p.sat && !p.nega && !p.negb && !p.absa && !p.fnx

/-- Size in bytes of a width code (R126, R257). -/
def sizeOf (w : BitVec 3) : Nat :=
  if w == 0 || w == 5 then 1 else if w == 1 || w == 6 || w == 7 then 2 else if w == 2 then 4 else if w == 3 then 8 else 16

/-- Data registers of a width code (R257). -/
def regsOf (w : BitVec 3) : Nat := if w == 3 then 2 else if w == 4 then 4 else 1

/-- Order and scope of a load (R258): relaxed with scope 0, or acquire with scope at most `top`. -/
def loadOrd (order : BitVec 2) (scope : BitVec 3) (top : Nat) : Bool :=
  (order == 0 && scope == 0) || (order == 1 && scope.toNat ≤ top)
/-- Order and scope of a store (R258). -/
def storeOrd (order : BitVec 2) (scope : BitVec 3) (top : Nat) : Bool :=
  (order == 0 && scope == 0) || (order == 2 && scope.toNat ≤ top)

def MF.wfScalarData (p : MF) : Bool :=
  runOk p.vt (regsOf p.width) && (!(p.width == 3) || even8 p.vt) && (!(p.width == 4) || p.vt.toNat % 4 == 0)

/-- AOP's operation code (R272). -/
def MF.aop (p : MF) : BitVec 4 := p.imm.extractLsb' 5 4
def MF.aSp (p : MF) : Bool := p.imm.getLsbD 9
def MF.aRet (p : MF) : Bool := p.imm.getLsbD 4
def MF.aRa (p : MF) : Bool := p.imm.getLsbD 3

/-- `atom` (R272, R258). -/
def MF.wfAtom (p : MF) : Bool :=
  let op := p.aop.toNat
  op < 14 && (p.width == 2 || (p.width == 3 && op != 10)) &&
  (!(op == 12) || p.order == 0 || p.order == 2) && (!(op == 13) || p.order == 0 || p.order == 1) &&
  (!(op == 12) || !p.aRet) && (!(op == 13) || p.aRet) && (!p.aRa || op == 10) &&
  p.scope.toNat ≤ (if p.aSp then 1 else 5) && p.cache == 0 && p.imm.extractLsb' 0 3 == 0 &&
  (p.aSp || even8 p.sbase) && runOk p.vt (regsOf p.width * (if op == 9 then 2 else 1))

/-- `ldv` and `casv` name n data registers and two for the version (R275, R278). -/
def MF.wfVersion (p : MF) : Bool :=
  (p.width == 2 || p.width == 3) && even8 p.sbase && runOk p.vt (regsOf p.width + 2) && p.cache == 0

/-- Completion of a copy or walk (R268): token with an even ct, or a semaphore. -/
def copyDone (cm : BitVec 2) (ct : R8) : Bool := cm != 0 && (!(cm == 1) || even8 ct)

/-- A layout form's coordinates (R122). -/
def TF.wfCoords (p : TF) : Bool := p.nd != 0 && runOk p.tc p.nd.toNat

def TF.noTail (p : TF) : Bool := p.scope == 0 && p.order == 0 && p.btype == 0

/-- The accumulator forms (R301). -/
def TF.wfAcc (p : TF) : Bool :=
  p.cm == 0 && p.ct == 0 && p.nd == 0 && p.noTail && p.cache == 0

/-- Format A of the Bramble instructions (R356). -/
def brambleOk (aa ab ac : R8) (cm : BitVec 2) (ct : R8) (scope : BitVec 3) (order : BitVec 2) (fl : BitVec 5)
    (pairB : Bool) : Bool :=
  let v := fl.getLsbD 0
  scope == 0 && order == 0 &&
  (if v then runOk aa 2 && (!pairB || runOk ab 2) && (cm == 0 || cm == 2) && even8 aa && (!pairB || even8 ab)
   else even8 aa && (!pairB || even8 ab) && ac == 0 && fl.extractLsb' 1 4 == 0 && (cm == 1 || cm == 2) &&
     (!(cm == 1) || even8 ct))

def A2.wfBramble (p : A2) (pairB : Bool) : Bool := brambleOk p.aa p.ab p.ac p.cm p.ct p.scope p.order p.fl pairB
def A3.wfBramble (p : A3) : Bool := brambleOk p.aa p.ab p.ac p.cm p.ct p.scope p.order p.fl true

/-- The estate forms give no completion, scope or order. -/
def A2.wfEstate (p : A2) : Bool := p.cm == 0 && p.ct == 0 && p.scope == 0 && p.order == 0

/-- The special registers (R151): width in bits, and whether `sput` may write it. -/
def sregWidth (n : R8) : Nat :=
  match n.toNat with
  | 0x00 | 0x03 | 0x04 | 0x05 | 0x0B | 0x10 | 0x15 => 64
  | _ => if n.toNat ≤ 0x17 then 32 else 0
def sregWritable (n : R8) : Bool := n == 0x09 || n == 0x0A || n == 0x10 || n == 0x12

/-- A LVL and NAME of the barrier forms (R338), and sa = 0 at cohort level for an arrival. -/
def barName (lvl : BitVec 2) (name : BitVec 6) : Bool :=
  name.toNat < (match lvl.toNat with | 0 => 1 | 1 => 64 | 2 => 32 | _ => 16)

/-- The immediate or register operand of a semaphore form (R341). -/
def semOperand (i : Bool) (a : R8) (amount : Half) : Bool := if i then a == 0 else amount == 0

/-- The modifiers of the conversions (R210): nega, negb and absa are 0 but with type 13 on a side, which permits them (R182);
sat and fnx are 0 with an emulated type, since no row of R224 permits them for it. DEDUCED (log 62). -/
def V4.cvtMods (p : V4) : Bool :=
  let s : BitVec 4 := p.vc.extractLsb' 0 4
  ((!p.nega && !p.negb && !p.absa) || p.ty == 13 || s == 13) && ((!p.sat && !p.fnx) || !(emulated p.ty || emulated s))

/-- Check 6 of R129. The run of `vredmaxi` and `vtopk` (R211) and the range of `vtopk`'s k are fields of the word and so
belong to it, before the emulated types of check 7; the run of `vpack` and `vunpack` has no length with an emulated type. DEDUCED (log 62). z in
`vtopk` is ILLEGAL_ENCODING with type 13 too. DESIGN CHOICE (log 88). -/
def Instr.wf : Instr → Bool
  | .nopHeader budget mstk => budget.toNat ≤ 32 && mstk.toNat ≤ 32
  | .scmp _ _ _ cc i imm => cc.toNat < 10 && (i || imm.extractLsb' 8 16 == 0)
  | .sbfe _ _ _ pos len | .sbfeu _ _ _ pos len | .sbfi _ _ _ pos len =>
      len != 0 && len.toNat ≤ 32 && pos.toNat + len.toNat ≤ 32
  | .sadd64 _ d a i imm | .ssub64 _ d a i imm | .smul64 _ d a i imm | .sshl64 _ d a i imm | .sshr64 _ d a i imm
  | .ssra64 _ d a i imm =>
      even8 d && even8 a && (i || (imm.extractLsb' 8 16 == 0 && even8 (imm.extractLsb' 0 8)))
  | .smov64 _ d i imm => even8 d && (i || (imm.extractLsb' 8 16 == 0 && even8 (imm.extractLsb' 0 8)))
  | .setfmt _ src a imm =>
      let wf := imm.getLsbD 23; let wc := imm.getLsbD 22
      (wf || wc) &&
      (if src == 0 then a == 0 && (wf || imm.extractLsb' 16 6 == 0) && (wc || imm.extractLsb' 0 16 == 0)
       else src == 1 && imm.extractLsb' 0 22 == 0)
  | .sget _ d n => n.toNat ≤ 0x17 && (!(sregWidth n == 64) || even8 d)
  | .sput _ n a => sregWritable n && (!(sregWidth n == 64) || even8 a)
  | .bc _ cond _ => cond.toNat < 8
  | .callp a => even8 a
  | .kfroms _ _ s | .ktos _ _ s => even8 s
  | .spawn _ a _ => even8 a
  | .tnext _ d _ => d.toNat % 8 == 0
  | .hpush _ _ a => a.toNat ≤ 252
  | .vadd _ p | .vsub _ p | .vmul _ p => p.wfAdd
  | .vfma _ p =>
      let f := isFloatTy p.ty; let sgn := f || isSignedTy p.ty
      tyOk isArithTy p.ty && p.mods f true sgn sgn sgn && !p.fnx
  | .vmin _ p =>
      let sgn := isFloatTy p.ty || isSignedTy p.ty
      tyOk isArithTy p.ty && p.mods false false sgn sgn sgn && !p.fnx && p.vc == 0
  | .vmax _ p =>
      let sgn := isFloatTy p.ty || isSignedTy p.ty
      tyOk isArithTy p.ty && p.mods false false sgn sgn sgn && p.fnx && p.vc == 0
  | .vmulh _ p => p.wfPlain (fun t => t == 0 || t == 1)
  | .vrcp _ p | .vsqrt _ p => p.wfRoot false
  | .vrsqrt _ p => p.wfRoot true
  | .vlog2 _ p | .vexp2 _ p => p.wfLog
  | .vand _ p | .vor _ p | .vxor _ p => p.wfPlain (fun t => t == 0 || t == 1)
  | .vshl _ p => tyOk isIntTy p.ty && p.mods false (isSignedTy p.ty) false false false && !p.fnx && p.vc == 0
  | .vshr _ p => p.wfPlain isIntTy
  | .vsra _ p =>
      tyOk isSignedTy p.ty && p.mods false false false false false && p.fnx && rsOk p.ty p.fnx true && p.vc == 0
  | .vaddVs _ p | .vsubVs _ p | .vmulVs _ p | .vfmaVs _ p => p.wfAdd
  | .vminVs _ p => p.wfMinMax false
  | .vmaxVs _ p => p.wfMinMax true
  | .vrcpVs _ p | .vsqrtVs _ p => p.wfRoot false
  | .vrsqrtVs _ p => p.wfRoot true
  | .vlog2Vs _ p | .vexp2Vs _ p => p.wfLog
  | .vandVs _ p | .vorVs _ p | .vxorVs _ p => p.wfPlain (fun t => t == 0 || t == 1) false
  | .vshlVs _ p => p.wfPlain isIntTy (isSignedTy p.ty)
  | .vshrVs _ p => p.wfPlain isIntTy false
  | .vsraVs _ p =>
      tyOk isSignedTy p.ty && p.mods false false false false false && p.fnx && rsOk p.ty p.fnx true
  | .vcmp _ p =>
      let sgn := isFloatTy p.ty || isSignedTy p.ty
      tyOk isArithTy p.ty && p.mods false false sgn sgn sgn && !p.fnx && p.vc.toNat < 8 &&
      (!(isIntTy p.ty) || p.vc.toNat < 6) && p.vd.toNat < 16
  | .vsel _ p => tyOk (· == 0) p.ty && p.mods false false false false false && !p.fnx && p.vc.toNat < 16
  | .vcvt _ p =>
      let d := p.ty; let s : BitVec 4 := p.vc.extractLsb' 0 4
      p.vc.toNat < 16 && s != 15 && d != 15 && d != 11 && (p.fnx || p.vb == 0) && p.cvtMods &&
      (if emulated d || emulated s then p.rnd == 0 || d == 13 || s == 13
       else if isIntTy d then
         !(s == 11) && (if isIntTy s then p.rnd == 0 && !p.fnx else !p.sat)
       else true)
  | .vcvtLegacy _ p =>
      let d := p.ty; let s : BitVec 4 := p.vc.extractLsb' 0 4
      let listed := fun (t : BitVec 4) => t == 0 || t == 1 || t == 2
      p.vc.toNat < 16 && !p.sat && !p.fnx && p.vb == 0 && p.cvtMods && tyOk listed d && tyOk listed s &&
      (((d == 0 || d == 1) && s == 2) || (d == 2 && (s == 0 || s == 1)) || emulated d || emulated s)
  | .vpack _ p => p.wfPlain isPackTy && p.vb == 0 && (emulated p.ty || runOk p.va (packCount p.ty))
  | .vunpack _ p =>
      tyOk isPackTy p.ty && p.mods false false false false false && rsOk p.ty p.fnx true && p.vc == 0 && p.vb == 0 &&
      (emulated p.ty || runOk p.vd (packCount p.ty / 2))
  | .vperm _ p => p.wfPlain (· == 0)
  | .vbcast _ p | .vrot _ p | .vshup _ p | .vshdn _ p => p.wfMove
  | .vsplat _ p => p.wfMove && p.va == 0
  | .vred _ p => p.wfRed && !p.fnx
  | .vscan _ p => p.wfRed && rsOk p.ty p.fnx true
  | .vredmaxi _ p => p.wfPlain isFloatTy && runOk p.vd 2
  | .vtopk _ p =>
      tyOk (· == 2) p.ty && p.mods false false false false false && rsOk p.ty p.fnx true && !p.z &&
      p.vc.toNat < 16 && 1 ≤ p.vc.toNat && p.vc.toNat ≤ 8 && runOk p.vd (2 * p.vc.toNat + 1)
  | .vdot4 _ p =>
      tyOk (fun t => t == 0 || t == 2) p.ty && p.mods (p.ty == 2) true false false false && !p.fnx
  | .vrand _ p => p.wfPlain (fun t => t == 1 || t == 2)
  | .vclz _ p => tyOk (fun t => t == 0 || t == 1) p.ty && p.mods false false false false false && !p.fnx && p.vb == 0 && p.vc == 0
  | .vpopc _ p => tyOk (fun t => t == 0 || t == 1) p.ty && p.mods false false false false false && !p.fnx && p.vb == 0 && p.vc == 1
  | .vbrev _ p => tyOk (fun t => t == 0 || t == 1) p.ty && p.mods false false false false false && !p.fnx && p.vb == 0 && p.vc == 2
  | .vrnd _ p =>
      tyOk isFloatTy p.ty && p.mods true false true false true && rsOk p.ty p.fnx true && p.vc == 0 && (p.fnx || p.vb == 0)
  | .ld _ p =>
      p.width != 7 && even8 p.sbase && runOk p.vt (regsOf p.width) && loadOrd p.order p.scope 5
  | .st _ p =>
      p.width.toNat < 5 && even8 p.sbase && runOk p.vt (regsOf p.width) && storeOrd p.order p.scope 5
  | .sld _ p =>
      p.width != 7 && even8 p.sbase && p.wfScalarData && loadOrd p.order p.scope 5 && p.voff == 0xFF && p.km == 0
  | .sst _ p =>
      p.width.toNat < 5 && even8 p.sbase && p.wfScalarData && storeOrd p.order p.scope 5 && p.voff == 0xFF && p.km == 0
  | .ldp _ p => p.width != 7 && runOk p.vt (regsOf p.width) && loadOrd p.order p.scope 1 && p.cache == 0
  | .stp _ p => p.width.toNat < 5 && runOk p.vt (regsOf p.width) && storeOrd p.order p.scope 1 && p.cache == 0
  | .lds16 _ p => p.width == 7 && p.order == 0 && p.scope == 0 && p.cache == 0
  | .ldt p =>
      even8 p.tb && p.wfCoords && p.cm == 0 && p.ct == 0 && p.ty == 0 && p.td == 0 && p.btype == 0 &&
      loadOrd p.order p.scope 5
  | .stt p =>
      even8 p.tb && p.wfCoords && p.cm == 0 && p.ct == 0 && p.ty == 0 && p.td == 0 && p.btype == 0 && !p.z &&
      storeOrd p.order p.scope 5
  | .cpy p =>
      p.scope == 0 && p.order == 0 && copyDone p.cm p.ct && even8 p.aa && even8 p.ab &&
      p.imm.extractLsb' 2 22 == 0
  | .cpyt p =>
      even8 p.ta && even8 p.tb && p.wfCoords && runOk p.td p.nd.toNat && copyDone p.cm p.ct && !p.z && p.ty == 0 && p.noTail
  | .atom _ p => p.wfAtom
  | .hinc _ p =>
      p.width == 2 && p.scope == 0 && p.order == 0 && p.cache == 0 && p.imm == 0 && even8 p.sbase
  | .ldv _ p => p.wfVersion && loadOrd p.order p.scope 5
  | .casv _ p => p.wfVersion && p.scope.toNat < 6
  | .chunk _ d a => even8 a && d.toNat % 4 == 0
  | .prefL1 _ a n | .prefL2 _ a n | .cwb _ a n | .cinv _ a n => even8 a && n != 0
  | .mmq p | .mmqSp p =>
      p.tc.toNat < 32 && p.nd == 0 && !p.z && p.cm == 0 && p.ct == 0 && p.td == 0 && p.scope == 0 && p.order == 0 &&
      p.cache == 0 && p.ty != 15 && p.btype != 15
  | .bload p =>
      even8 p.tb && p.wfCoords && copyDone p.cm p.ct && p.km == 0 && !p.z && p.ty == 0 && p.td == 0 && p.noTail
  | .accz p =>
      p.wfAcc && p.ta.toNat < 32 && 1 ≤ p.tb.toNat && p.tb.toNat ≤ 32 && p.tc == 0 && p.td == 0 && p.ty == 0 &&
      p.km == 0 && !p.z
  | .accrd p =>
      p.wfAcc && p.tb.toNat < 32 && p.ty != 15
  | .accwr p =>
      p.wfAcc && p.tb.toNat < 32 && !p.z && p.ty != 15
  | .mwalk _ p =>
      even8 p.aa && p.ab == 0 && p.ac == 0 && p.scope == 0 && p.order == 0 && p.fl == 0 && copyDone p.cm p.ct
  | .mparam _ p =>
      even8 p.aa && p.ab == 0 && p.ac == 0 && p.cm == 0 && p.ct == 0 && p.scope == 0 && p.order == 0 && p.fl == 0
  | .fence _ order scope => order != 0 && scope.toNat < 6
  | .barr _ _ a lvl name | .barrw _ _ a lvl name => barName lvl name && (!(lvl == 0) || a == 0)
  | .bwait _ _ lvl name => barName lvl name
  | .barOld _ _ count => count != 0
  | .binit _ _ expected => expected != 0
  | .semacq _ _ a _ i amount => semOperand i a amount
  | .semadd _ a _ i amount => semOperand i a amount
  | .semaddW _ _ a _ i amount => semOperand i a amount
  | .gbind p => p.wfBramble && p.imm.extractLsb' 16 8 == 0
  | .gmask p | .gmaskDelta p => p.wfBramble
  | .gstep _ p | .groll _ p | .gcommit _ p => p.wfBramble false
  | .gfork _ p => p.wfBramble true
  | .gfree _ p => p.wfBramble false && p.ab == 0
  | .ecall a _ => a.toNat ≤ 248
  | .ckpt vb sb _ _ => runOk vb 16 && sb.toNat ≤ 56
  | .will _ p =>
      p.wfEstate && p.ab == 0 && p.ac == 0 && (if p.fl.getLsbD 0 then even8 p.aa else p.aa == 0)
  | .claim _ p =>
      p.wfEstate && even8 p.aa && 1 ≤ p.ac.toNat && p.ac.toNat ≤ 32 && runOk p.ab p.ac.toNat && !p.fl.getLsbD 0
  | .eprobe _ p => p.wfEstate && p.aa.toNat % 8 == 0 && even8 p.ab && p.fl == 0
  | _ => true

end Sys2Proof
end

