-- ==== Sys2Proof/Machine/Operands.lean ====
section
/-! DEFINITION. Operand forms: scalar immediates (R186, R187, R191), packet targets (R119), lanes with their modifiers
(R120, R166), the frame that every vector instruction runs in (R209), and the parking of emulated types (R125, R183). -/

namespace Sys2Proof.Machine

/-! ### Scalar operands -/

/-- A 24-bit immediate, sign-extended (R118). -/
def immS (imm : BitVec 24) : Word := imm.signExtend 32
def immS64 (imm : BitVec 24) : DWord := imm.signExtend 64

/-- The register that imm[7:0] names. -/
def immReg (imm : BitVec 24) : Nat := imm.toNat % 256

/-- The second operand of `scmp`: the immediate with I = 1, or the register that imm[7:0] names (R187). -/
def Wave.operand32 (w : Wave) (i : Bool) (imm : BitVec 24) : Word := if i then immS imm else w.rs (immReg imm)

/-- The second operand of a 64-bit pair form (R191). -/
def Wave.operand64 (w : Wave) (i : Bool) (imm : BitVec 24) : DWord := if i then immS64 imm else w.pair (immReg imm)

/-- The packet at a signed number of packets from the one that holds the instruction, mod 2^64 (R119). -/
def packetAt (pc : DWord) (off : Int) : DWord := packetOf pc + BitVec.ofInt 64 (12 * off)

/-! ### Lanes -/

/-- Results of the active lanes, and the OR of their flags (R174); inactive lanes hold zero here and are not written. -/
def runLanes (act : LaneMask) (f : Nat → Word × Flags) : VReg × Flags :=
  (allLanes.map (fun l => if act.getLsbD l then (f l).1 else 0),
   allLanes.foldl (fun acc l => if act.getLsbD l then acc ||| (f l).2 else acc) 0)

/-- A float operand after absa and nega (R120, R170). -/
def modFloat (absa nega : Bool) (x : FVal) : FVal :=
  let x := if absa then x.abs else x
  if nega then x.negate else x

/-- An integer operand after absa and nega, each fitted as R166 gives for MIN. -/
def modInt (t : Nat) (sat absa nega : Bool) (x : Int) : Int × Flags :=
  let (x, f) := if absa then fitInt t sat (if x < 0 then -x else x) else (x, 0)
  let (x, g) := if nega then fitInt t sat (-x) else (x, 0)
  (x, f ||| g)

/-- What the modifiers of a two-source arithmetic form give (R120). -/
structure Mods where
  ty : Nat
  sat : Bool
  nega : Bool
  negb : Bool
  absa : Bool
deriving DecidableEq, Repr

end Sys2Proof.Machine

namespace Sys2Proof

def V4.modsOf (p : V4)   : Machine.Mods := { ty := p.ty.toNat, sat := p.sat, nega := p.nega, negb := p.negb, absa := p.absa }
def VS.modsOf (p : VS)   : Machine.Mods := { ty := p.ty.toNat, sat := p.sat, nega := p.nega, negb := p.negb, absa := p.absa }

def V4.ab (p : V4) : List Nat := [p.va.toNat, p.vb.toNat]
def V4.abc (p : V4) : List Nat := [p.va.toNat, p.vb.toNat, p.vc.toNat]
/-- va and vb, and vc where `.rs` reads it. -/
def V4.abRs (p : V4) : List Nat := if p.fnx then p.abc else p.ab
/-- The source type of a conversion (R224). -/
def V4.srcTy (p : V4) : Nat := p.vc.toNat % 16

end Sys2Proof

namespace Sys2Proof.Machine

def Mods.aF (m : Mods) (w : Word) : FVal := modFloat m.absa m.nega (laneFloat m.ty w)
def Mods.bF (m : Mods) (w : Word) : FVal := modFloat false m.negb (laneFloat m.ty w)
def Mods.aI (m : Mods) (w : Word) : Int × Flags := modInt m.ty m.sat m.absa m.nega (laneInt m.ty w)
def Mods.bI (m : Mods) (w : Word) : Int × Flags := modInt m.ty m.sat false m.negb (laneInt m.ty w)

/-- A float result rounded to the type and written to its lane (R164, R171). -/
def Mods.outF (m : Mods) (mode : Mode) (x : FVal × Flags) : Word × Flags :=
  let (b, f) := (fmtOfTy m.ty).round mode m.sat x.1
  (BitVec.ofNat 32 b, f ||| x.2)

/-- An integer result fitted to the type and written to its lane (R165). -/
def Mods.outI (m : Mods) (x : Int) (f : Flags) : Word × Flags :=
  let (v, g) := fitInt m.ty m.sat x
  (intLane v, f ||| g)

/-- The rounding of a form that offers `.rs`: stochastic with the lane's random word, or the mode of rnd. -/
def modeOf (fnx : Bool) (rnd : BitVec 2) (rbits : Word) : Mode := if fnx then .stoch rbits.toNat else Mode.ofRnd rnd.toNat

/-- Extend (R227, R164): a packed field as its type stands in a lane. -/
def extendField (ty : Nat) (x : Nat) : Word :=
  if tyInt ty then intLane (laneInt ty (BitVec.ofNat 32 x)) else BitVec.ofNat 32 x

/-! ### Backing-store faults (R100) -/

/-- SPILL_FAULT where a backing-store register lies outside the slice, POISON where a source lies in a poisoned line; every source's
failed check stands (R250). R100 has one ADDR and one LANES and no order: SPILL_FAULT goes before POISON, and of several poisoned sources
the first in operand order is reported. DESIGN CHOICE (log 93). -/
def State.spillTrap (s : State) (w : Wave) (srcs dsts : List Nat) : Option Trap :=
  let pas (ns : List Nat) := ns.filterMap (fun n => match s.vloc w n with | .back pa => some (n, pa) | .row _ => none)
  if (pas (srcs ++ dsts)).any (fun e => !(s.inSlice w.part e.2 && s.inSlice w.part (e.2 + 255))) then some { cause := 0x12 }
  else
    match (pas srcs).find? (fun e => w.backed.contains e.1 && (linesOf e.2 256).any s.lineBad) with
    | some e =>
      let lanes := maskWhere (fun l => s.lineBad ((e.2 + 4 * l) / 128))
      let lines := (pas srcs).flatMap (fun e => if w.backed.contains e.1 then (linesOf e.2 256).filter s.lineBad else [])
      some { memTrap 0x0C 0 (e.2 + 4 * lowDetail lanes) lanes with classed := false, lines := lines }
    | none => none

/-! ### The frame of a vector instruction -/

/-- What a vector instruction computes: registers to write in the active lanes, flags, and the wave's other registers. -/
structure VecOut where
  regs : List (Nat × VReg)
  flags : Flags := 0
  scc : Option Word := none
  k : Option (Nat × LaneMask) := none
deriving DecidableEq, Repr

/-- A register written in the lanes of act, and, with z, zeroed in the others (R209). -/
def State.writeMasked (s : State) (uid : Nat) (act : LaneMask) (z : Bool) (n : Nat) (v : VReg) : State :=
  if z then s.writeV uid n (BitVec.allOnes 64) (mergeV zeroV act (laneOf v))
  else if act = 0 then s
  else s.writeV uid n act v

/-- An instruction of an emulated type parks for the firmware (R125, R183). DEDUCED (log 60). -/
def State.parkEmulateOn (s : State) (w : Wave) (i : Instr) (n : Nat) (c : Bool) (p : Pipe) : State :=
  (s.park w (.emulate i) n c p).due .firmwareEmulateDone { uid := w.uid }

def State.parkEmulate (s : State) (w : Wave) (i : Instr) (c : Bool) : State := s.parkEmulateOn w i 2 c .V

/-- The result of a vector instruction reaches the wave (R209): registers, flags, scc, a mask register; the wave goes on. DEDUCED (log 55). -/
def State.vecFinish (s : State) (w : Wave) (act : LaneMask) (z : Bool) (n : Nat) (c : Bool) (o : VecOut) : State :=
  let s := o.regs.foldl (fun s e => s.writeMasked w.uid act z e.1 e.2) s
  let s := s.modWave w.uid (fun w => (w.raise o.flags).setK (o.k.getD (0, 0)).1 (o.k.getD (0, 0)).2)
  let s := s.modWave w.uid (fun w => { w with scc := o.scc.getD w.scc })
  s.advanceWave w.uid n c .V

/-- The frame of every vector instruction (R209): faults of its backing-store registers, then its effect. -/
def State.vector (s : State) (w : Wave) (srcs dsts : List Nat) (act : LaneMask) (z : Bool) (n : Nat) (c : Bool)
    (f : (Nat → VReg) → VecOut) : State :=
  match s.spillTrap w srcs dsts with
  | some t => s.takeTrap w t
  | none => (s.spillRead w (distinct srcs)).vecFinish w act z n c (f (s.readV w))

/-- A V4 instruction in the frame, or parked for its emulated type. -/
def State.vec4 (s : State) (c : Bool) (p : V4) (i : Instr) (srcs dsts : List Nat) (f : Wave → LaneMask → (Nat → VReg) → VecOut) :
    Host.Outcome State Fault Refusal :=
  s.onWave fun w =>
    if emulated p.ty then s.parkEmulate w i c
    else s.vector w srcs dsts (w.active p.km.toNat) p.z 2 c (f w (w.active p.km.toNat))

/-- A VS instruction in the frame. -/
def State.vecS (s : State) (c : Bool) (p : VS) (i : Instr) (srcs dsts : List Nat) (f : Wave → LaneMask → (Nat → VReg) → VecOut) :
    Host.Outcome State Fault Refusal :=
  s.onWave fun w =>
    if emulated p.ty then s.parkEmulate w i c
    else s.vector w srcs dsts (w.active p.km.toNat) p.z 2 c (f w (w.active p.km.toNat))

/-- One result register from a lane function. -/
def laneOut (d : Nat) (act : LaneMask) (f : Nat → Word × Flags) : VecOut :=
  { regs := [(d, (runLanes act f).1)], flags := (runLanes act f).2 }

/-- Consecutive registers from r. -/
def runFrom (r n : Nat) : List Nat := (List.range n).map (fun i => r + i)

end Sys2Proof.Machine
end

