-- ==== Sys2Proof/Machine/Memory.lean ====
section
/-! DEFINITION. Lane addresses, the translation of a memory instruction's lanes (R236, R237, R244, R256), the loads and
stores of format M (R257 to R266). A load reads memory at issue and its registers land later; a store reaches the L1 or
the home at issue and leaves its class counter later. -/

namespace Sys2Proof.Machine

/-! ### Addresses (R256) -/

def MF.disp (p : MF) : Int := p.imm.toInt
def MF.size (p : MF) : Nat := sizeOf p.width

/-- What lane l adds to the base: its offset register, or Size × l. -/
def laneOffset (rd : Nat → VReg) (p : MF) (l : Nat) : Int :=
  if p.voff = 0xFF then (sizeOf p.width * l : Nat) else (laneOf (rd p.voff.toNat) l).toInt

def globalAddr (w : Wave) (rd : Nat → VReg) (p : MF) (imm : Int) (l : Nat) : Nat :=
  (((w.pair p.sbase.toNat).toNat : Int) + laneOffset rd p l + imm) % 2 ^ 64 |>.toNat

def spadAddr (w : Wave) (rd : Nat → VReg) (p : MF) (imm : Int) (l : Nat) : Nat :=
  (((w.rs p.sbase.toNat).toNat : Int) + laneOffset rd p l + imm) % 2 ^ 32 |>.toNat

/-- The registers that a form of format M reads as sources for its addresses. -/
def offsetRegs (p : MF) : List Nat := if p.voff = 0xFF then [] else [p.voff.toNat]

/-- The lowest failing lane with its address, and the mask of all failing lanes. -/
def failing (bad : List (Nat × Nat)) : Option (Nat × Nat × LaneMask) :=
  match sortBy Prod.fst bad with
  | [] => none
  | (l, a) :: _ => some (l, a, maskOf (bad.map Prod.fst))

/-- A trap that names failing lanes, if any fail. -/
def trapOf (cause fsub : Nat) (bad : List (Nat × Nat)) : Option Trap :=
  (failing bad).map (fun e => memTrap cause fsub e.2.1 e.2.2)

/-! ### Global memory -/

/-- An access of one lane that has translated: lane, virtual address and page. -/
structure Acc where
  lane : Nat
  va : Nat
  page : Page
deriving DecidableEq, Repr

/-- What translating all lanes of an instruction gives (R244). -/
inductive Resolved where
  | ok (accs : List Acc)
  | trap (t : Trap)
  | wait (pages : List Nat)
deriving DecidableEq, Repr

/-- The failure of one address that cannot be replayed: cause and FSUB. -/
def State.accFault (s : State) (v : View) (a : Nat) (write : Bool) (deny : Page → Bool) : Option (Nat × Nat) :=
  match s.translate v a with
  | .ok p => if (write && !p.w) || deny p then some (0x0A, 0) else none
  | .miss _ => none
  | .invalid => some (0x09, 0)
  | .failed => some (0x09, 1)
  | .outside => some (0x0A, 0)

/-- Steps 1 to 5 of R244 for addresses of the active lanes, each read or written and with pages that it may not reach; none of
them has an effect before all have translated. -/
def State.resolveAll (s : State) (v : View) (addrs : List (Nat × Nat × Bool × (Page → Bool))) (align : Nat) : Resolved :=
  match trapOf 0x09 2 ((addrs.filter (fun e => 2 ^ 57 ≤ e.2.1)).map (fun e => (e.1, e.2.1))) with
  | some t => .trap t
  | none =>
    match trapOf 0x08 0 ((addrs.filter (fun e => e.2.1 % align != 0)).map (fun e => (e.1, e.2.1))) with
    | some t => .trap t
    | none =>
      let bad := addrs.filterMap (fun e => (s.accFault v e.2.1 e.2.2.1 e.2.2.2).map (fun c => (e.1, e.2.1, c)))
      match failing (bad.map (fun e => (e.1, e.2.1))) with
      | some (l, a, m) =>
        let (cause, fsub) := ((bad.find? (fun e => e.1 == l && e.2.1 == a)).map (·.2.2)).getD (0, 0)
        .trap { memTrap cause fsub a m with walks := addrs.map (fun e => e.2.1) }
      | none =>
        let pages := addrs.filterMap (fun e => match s.translate v e.2.1 with | .miss p => some p | _ => none)
        if pages ≠ [] then .wait pages
        else .ok (addrs.filterMap (fun e => match s.translate v e.2.1 with | .ok p => some { lane := e.1, va := e.2.1, page := p } | _ => none))

/-- R244 for the addresses of one kind of access. -/
def State.resolve (s : State) (v : View) (addrs : List (Nat × Nat)) (align : Nat) (write : Bool) (deny : Page → Bool) : Resolved :=
  s.resolveAll v (addrs.map (fun e => (e.1, e.2, write, deny))) align

def noDeny : Page → Bool := fun _ => false
/-- A peer window (R404). -/
def denyPeer : Page → Bool := fun p => isPeerPa p.pa

/-- The device lines that accesses touch, in order of their first lane. -/
def accLines (accs : List Acc) : List Nat := distinct ((accs.filter (fun a => !isPeerPa a.page.pa)).map (fun a => a.page.pa / 128))

/-- The accesses of an instruction of a wave reach memory (R244, R250): its TLBs take the translations, lines that are read or
merged are checked, and answers of peers are drawn. -/
def State.reach (s : State) (w : Wave) (accs : List Acc) (reads : Bool) : State :=
  let s := accs.foldl (fun s a => s.tlbFill w.view a.va) s
  let s := if reads then (accLines accs).foldl State.checkLine s else s
  if accs.any (fun a => isPeerPa a.page.pa) then { s with draws := s.draws + 1 } else s

/-- What an access reads is poisoned (R251): of a peer's answer, which it says itself (R404). -/
def State.accPoisoned (s : State) (core : Nat) (a : Acc) : Bool :=
  if isPeerPa a.page.pa then Config.peerPoisoned s.draws (a.page.pa / 128) else s.poisonedFor core (a.page.pa / 128)

/-- POISON of a core's accesses (R251, R260), with the region classes to be looked up. -/
def State.poisonTrap (s : State) (core : Nat) (accs : List Acc) : Option Trap :=
  (trapOf 0x0C 0 ((accs.filter (s.accPoisoned core)).map (fun a => (a.lane, a.va)))).map (fun t => { t with classed := true })

/-- The accesses of one line. -/
def lineAccs (accs : List Acc) (line : Nat) : List Acc := accs.filter (fun a => !isPeerPa a.page.pa && a.page.pa / 128 == line)

/-- One line as a core's load of `n` bytes a lane reads it, for all its lanes at once (R260): relaxed through the L1, or acquiring at
the home (R311). -/
def State.loadLine (s : State) (core n : Nat) (acq : Bool) (accs : List Acc) (line : Nat) : State × List Byte :=
  if acq then s.acquireLine core line
  else
    let mine := lineAccs accs line
    s.coreLine core line (mine.foldl (fun m a => m ||| byteMask (a.page.pa % 128) n) 0) (mine.any (·.page.nol1))

/-- Lines read one after another: each with its bytes. -/
def State.loadLines (s : State) (core n : Nat) (acq : Bool) (accs : List Acc) : List Nat → State × List (Nat × List Byte)
  | [] => (s, [])
  | line :: r =>
    let (s, d) := s.loadLine core n acq accs line
    let (s, rest) := s.loadLines core n acq accs r
    (s, (line, d) :: rest)

/-- The bytes of one access, of a peer's answer or of the lines read. -/
def State.accBytes (s : State) (lines : List (Nat × List Byte)) (n : Nat) (a : Acc) : List Byte :=
  if isPeerPa a.page.pa then s.peerBytes a.page.pa n
  else (((kvGet [] lines (a.page.pa / 128))).drop (a.page.pa % 128)).take n

/-- The loads of all lanes, and then what an acquire at the scope invalidates (R317). DESIGN CHOICE (log 9). -/
def State.loadAll (s : State) (core n : Nat) (order : BitVec 2) (scope : BitVec 3) (accs : List Acc) : State × List (Nat × List Byte) :=
  let (t, lines) := s.loadLines core n (order = 1 && scope != 0) accs (accLines accs)
  (if order = 1 then t.invalidate core scope.toNat else t, accs.map (fun a => (a.lane, s.accBytes lines n a)))

/-- A load of n bytes a lane waits for an engine that owns a line it must reach (R321). -/
def State.loadBlocked (s : State) (core n : Nat) (order : BitVec 2) (accs : List Acc) : Bool :=
  accs.any (fun a => !isPeerPa a.page.pa &&
    (if order = 1 then s.homeHeld none (a.page.pa / 128) (some core)
     else s.loadWaits core (a.page.pa / 128) (byteMask (a.page.pa % 128) n) a.page.nol1))

/-- The scope at which a wave's write of this order and scope releases (R313, R315): its own or that of a pending fence; 0 for a
write that orders nothing beyond the wave. -/
def Wave.releaseScope (w : Wave) (order : BitVec 2) (scope : BitVec 3) : Nat :=
  max w.fence (if order.getLsbD 1 then scope.toNat else 0)

/-- The ports that peer accesses of a wave use (R404). -/
def State.peerPorts (s : State) (fn : Nat) (accs : List Acc) : List Nat :=
  distinct (accs.filterMap (fun a => if isPeerPa a.page.pa then (s.importWindow fn a.page.pa).map (·.port) else none))

/-- The wave has peer writes not yet acknowledged on ports other than these (R405). -/
def State.peerWritesOut (s : State) (w : Wave) (ports : List Nat) : Bool :=
  s.ops.any (fun o => o.uid == w.uid && o.kind == .store &&
    s.ports.zipIdx.any (fun p => !ports.contains p.2 && (p.1.outstanding.contains o.id || p.1.lost.any (fun e => e.1 == o.id))))

/-- A release at system scope of these accesses waits for the wave's peer writes on a port other than its own (R405): a part of it that
goes elsewhere waits for those of every port. -/
def State.peerWritesWait (s : State) (w : Wave) (accs : List Acc) : Bool :=
  accs.any (fun a => s.peerWritesOut w (s.peerPorts w.fn [a]))

/-- A write of a wave waits (R263, R321, R405): an engine owns its line, or, as a release at the scope, one that it must write
back first, or peer writes are not yet acknowledged. -/
def State.writeBlocked (s : State) (w : Wave) (scope : Nat) (accs : List Acc) : Bool :=
  accs.any (fun a =>
    if isPeerPa a.page.pa then scope != 0 && s.flushHeld w.core
    else s.owned (a.page.pa / 128) || (scope != 0 && s.releaseHeld w.core (a.page.pa / 128) scope)) ||
  (5 ≤ scope && s.peerWritesWait w accs)

/-- An operation that homes execute for a wave waits (R321): an engine owns a line that it reaches, that a recall writes back, or
that a release at the scope must write back first, or peer writes are not yet acknowledged (R405). -/
def State.homeBlocked (s : State) (w : Wave) (scope : Nat) (accs : List Acc) : Bool :=
  accs.any (fun a => !isPeerPa a.page.pa && s.homeHeld none (a.page.pa / 128) (some w.core)) || s.writeBlocked w scope accs

/-- Bytes to be written, gathered by line: of two writes of one byte the later stands (R260). -/
def gatherOne (acc : List (Nat × BitVec 128 × List Byte)) (pa : Nat) (bytes : List Byte) : List (Nat × BitVec 128 × List Byte) :=
  let m := byteMask (pa % 128) bytes.length
  if acc.any (fun e => e.1 == pa / 128) then
    acc.map (fun e => if e.1 = pa / 128 then (e.1, e.2.1 ||| m, patch e.2.2 (placed (pa % 128) bytes) m) else e)
  else acc ++ [(pa / 128, m, placed (pa % 128) bytes)]

def gather (ws : List (Nat × List Byte)) : List (Nat × BitVec 128 × List Byte) := ws.foldl (fun acc e => gatherOne acc e.1 e.2) []

/-- A store's bytes of one line reach the L1, the home of a page without L1, or, released, the home (R314, R315). -/
def State.storeLine (s : State) (core line : Nat) (mask : BitVec 128) (data : List Byte) (nol1 : Bool) (scope : Nat) : State :=
  if scope = 0 then s.plainStore core line mask data nol1 else s.releaseLine core line mask data scope

/-- The wave has written: a pending release fence is used up (R313). -/
def State.fenceUsed (s : State) (uid : Nat) : State := s.modWave uid (fun w => { w with fence := 0 })

/-- The stores of all lanes, a release at the scope (0: none). A peer's home holds no record of this device's lines: a release
there is eager. DESIGN CHOICE (log 9). DEDUCED (log 67). -/
def State.storeAll (s : State) (w : Wave) (scope : Nat) (ws : List (Acc × List Byte)) : State :=
  let dev := ws.filter (fun e => !isPeerPa e.1.page.pa)
  let peer := ws.filter (fun e => isPeerPa e.1.page.pa)
  let s := (gather (dev.map (fun e => (e.1.page.pa, e.2)))).foldl (fun s e =>
    s.storeLine w.core e.1 e.2.1 e.2.2 (dev.any (fun x => x.1.page.pa / 128 == e.1 && x.1.page.nol1)) scope) s
  let s := if scope ≠ 0 ∧ peer ≠ [] then s.eagerRelease w.core (5 ≤ scope) else s
  let s := peer.foldl (fun s e => s.peerSend w.fn e.1.page.pa e.2 false) s
  if ws = [] then s else s.fenceUsed w.uid

/-- An operation has requests on peer ports that are not yet answered (R405). -/
def State.onPorts (s : State) (ports : List Nat) (id : Nat) : State :=
  { s with ports := s.ports.mapIdx (fun i (p : Port) => if ports.contains i then { p with outstanding := p.outstanding ++ [id] } else p) }

/-- An operation goes out; the requests that a peer has to answer stand on their ports until it completes (R405). -/
def State.issueAcc (s : State) (w : Wave) (cls : Cls) (kind : OpKind) (accs : List Acc) : State :=
  (s.issueOp w (some cls) false kind .none []).onPorts (s.peerPorts w.fn accs) s.nextOp

/-! ### Data registers (R257) -/

/-- The words that an access of a width puts into its registers. -/
def loadWords (width : BitVec 3) (bytes : List Byte) : List Word :=
  match width.toNat with
  | 5 => [BitVec.ofInt 32 (signedOf (leNat bytes) 8)]
  | 6 => [BitVec.ofInt 32 (signedOf (leNat bytes) 16)]
  | 7 => [BitVec.ofInt 32 (signedOf (leNat bytes) 16)]
  | _ => wordsFrom (regsOf width) bytes

/-- The bytes that a store of a width takes from its registers. -/
def storeBytes (width : BitVec 3) (ws : List Word) : List Byte := (ws.flatMap (fun x => toBytes 4 x.toNat)).take (sizeOf width)

/-- Register i of the lanes' results. -/
def resultReg (res : List (Nat × List Word)) (i : Nat) : VReg :=
  allLanes.map (fun l => ((res.find? (fun e => e.1 == l)).map (fun e => e.2.getD i 0)).getD 0)

/-- The writes that land for n registers from d in the lanes of a mask. -/
def vecWrites (d n : Nat) (act : LaneMask) (res : List (Nat × List Word)) : List RegWrite :=
  (List.range n).map (fun i => .v (d + i) act (resultReg res i))

/-- The writes that land for scalar registers from d. -/
def scalarWrites (d : Nat) (ws : List Word) : List RegWrite := ws.mapIdx (fun i x => .s (d + i) x)

/-! ### ld, st, sld, sst (R263, R264) -/

def execLd (c : Bool) (p : MF) (s : State) : Host.Outcome State Fault Refusal :=
  s.onWave fun w =>
    let act := w.active p.km.toNat
    match s.spillTrap w (offsetRegs p) (runFrom p.vt.toNat (regsOf p.width)) with
    | some t => s.takeTrap w t
    | none =>
      match s.resolve w.view ((lanesOf act).map (fun l => (l, globalAddr w (s.readV w) p (MF.disp p) l))) (MF.size p) false noDeny with
      | .trap t => s.takeTrap w t
      | .wait pages => s.parkPages w pages
      | .ok accs =>
        if s.loadBlocked w.core (MF.size p) p.order accs then s.stall w
        else
          let s := s.reach w accs true
          match s.poisonTrap w.core accs with
          | some t => s.takeTrap w t
          | none =>
            let (s, res) := (s.spillRead w (offsetRegs p)).loadAll w.core (MF.size p) p.order p.scope accs
            (s.issueAcc w .LD (.regs (vecWrites p.vt.toNat (regsOf p.width) act (res.map (fun e => (e.1, loadWords p.width e.2))))) accs).advanceWave w.uid 2 c .L

/-- The bytes that lane l stores. -/
def laneBytes (rd : Nat → VReg) (p : MF) (l : Nat) : List Byte :=
  storeBytes p.width ((runFrom p.vt.toNat (regsOf p.width)).map (fun n => laneOf (rd n) l))

def execSt (c : Bool) (p : MF) (s : State) : Host.Outcome State Fault Refusal :=
  s.onWave fun w =>
    let srcs := offsetRegs p ++ runFrom p.vt.toNat (regsOf p.width)
    match s.spillTrap w srcs [] with
    | some t => s.takeTrap w t
    | none =>
      match s.resolve w.view ((lanesOf (w.active p.km.toNat)).map (fun l => (l, globalAddr w (s.readV w) p (MF.disp p) l))) (MF.size p) true noDeny with
      | .trap t => s.takeTrap w t
      | .wait pages => s.parkPages w pages
      | .ok accs =>
        let scope := w.releaseScope p.order p.scope
        if s.writeBlocked w scope accs then s.stall w
        else
          ((((s.reach w accs false).spillRead w (distinct srcs)).storeAll w scope (accs.map (fun a => (a, laneBytes (s.readV w) p a.lane)))).issueAcc
            w .ST .store accs).advanceWave w.uid 2 c .L

def execSld (c : Bool) (p : MF) (s : State) : Host.Outcome State Fault Refusal :=
  s.onWave fun w =>
    match s.resolve w.view [(0, globalAddr w (s.readV w) p (MF.disp p) 0)] (MF.size p) false noDeny with
    | .trap t => s.takeTrap w t
    | .wait pages => s.parkPages w pages
    | .ok accs =>
      if s.loadBlocked w.core (MF.size p) p.order accs then s.stall w
      else
        let s := s.reach w accs true
        match s.poisonTrap w.core accs with
        | some t => s.takeTrap w t
        | none =>
          let (s, res) := s.loadAll w.core (MF.size p) p.order p.scope accs
          (s.issueAcc w .LD (.regs (scalarWrites p.vt.toNat (loadWords p.width ((res.head?.map Prod.snd).getD [])))) accs).advanceWave w.uid 2 c .L

def execSst (c : Bool) (p : MF) (s : State) : Host.Outcome State Fault Refusal :=
  s.onWave fun w =>
    match s.resolve w.view [(0, globalAddr w (s.readV w) p (MF.disp p) 0)] (MF.size p) true noDeny with
    | .trap t => s.takeTrap w t
    | .wait pages => s.parkPages w pages
    | .ok accs =>
      let scope := w.releaseScope p.order p.scope
      if s.writeBlocked w scope accs then s.stall w
      else
        let bytes := storeBytes p.width ((runFrom p.vt.toNat (regsOf p.width)).map w.rs)
        (((s.reach w accs false).storeAll w scope (accs.map (fun a => (a, bytes)))).issueAcc w .ST .store accs).advanceWave w.uid 2 c .L

/-! ### Scratchpad (R237, R265, R266) -/

/-- Scratchpad addresses of the active lanes become keys, or trap PERMISSION and then ALIGNMENT (R237, R244). -/
def State.spadLanes (s : State) (w : Wave) (addrs : List (Nat × Nat)) (align : Nat) : Trap ⊕ List (Nat × Nat × Nat) :=
  match trapOf 0x0A 0 (addrs.filter (fun e => (s.spadTarget w e.2).isNone)) with
  | some t => .inl t
  | none =>
    match trapOf 0x08 0 (addrs.filter (fun e => e.2 % align != 0)) with
    | some t => .inl t
    | none => .inr (addrs.filterMap (fun e => (s.spadTarget w e.2).map (fun k => (e.1, e.2, k))))

/-- POISON of scratchpad words that are read (R251): no region class. -/
def State.spadPoisonTrap (s : State) (n : Nat) (ks : List (Nat × Nat × Nat)) : Option Trap :=
  trapOf 0x0C 0 ((ks.filter (fun e => (wordsTouched e.2.2 n).any (fun x => kvGet false s.spadPoison x))).map (fun e => (e.1, e.2.1)))

/-- BARRIER_CLOBBER of a write to a live barrier word (R331). -/
def State.clobberTrap (s : State) (n : Nat) (ks : List (Nat × Nat × Nat)) : Option Trap :=
  trapOf 0x0B 0 ((ks.filter (fun e => (wordsTouched e.2.2 n).any (fun x => kvGet false s.tags x))).map (fun e => (e.1, e.2.1)))

/-- A write to scratchpad that is a release at system scope waits, for what it must write back or for a peer (R318, R405). -/
def State.spadBlocked (s : State) (w : Wave) (scope : Nat) : Bool := 5 ≤ scope && (s.flushHeld w.core || s.peerWritesOut w [])

/-- A write to scratchpad, which only the core sees, releases (R308): a system-scope release is eager (R318), and a pending
fence is used up (R313). -/
def State.spadRelease (s : State) (w : Wave) (scope : Nat) (nothing : Bool) : State :=
  let s := if 5 ≤ scope then s.eagerRelease w.core true else s
  if nothing then s else s.fenceUsed w.uid

/-- A scratchpad load of n bytes a lane, with what an acquire invalidates (R317): its results land as LD. -/
def State.spadLoad (s : State) (w : Wave) (c : Bool) (p : MF) (act : LaneMask) (addrs : List (Nat × Nat)) (align : Nat) : State :=
  match s.spillTrap w (offsetRegs p) (runFrom p.vt.toNat (regsOf p.width)) with
  | some t => s.takeTrap w t
  | none =>
    match s.spadLanes w addrs align with
    | .inl t => s.takeTrap w t
    | .inr ks =>
      match s.spadPoisonTrap (MF.size p) ks with
      | some t => s.takeTrap w t
      | none =>
        let res := ks.map (fun e => (e.1, loadWords p.width (s.spadBytes e.2.2 (MF.size p))))
        let s := s.spillRead w (offsetRegs p)
        let s := if p.order = 1 then s.invalidate w.core p.scope.toNat else s
        (s.issueOp w (some .LD) false (.regs (vecWrites p.vt.toNat (regsOf p.width) act res)) .none []).advanceWave w.uid 2 c .L

def execLdp (c : Bool) (p : MF) (s : State) : Host.Outcome State Fault Refusal :=
  s.onWave fun w =>
    let act := w.active p.km.toNat
    s.spadLoad w c p act ((lanesOf act).map (fun l => (l, spadAddr w (s.readV w) p (MF.disp p) l))) (MF.size p)

def execStp (c : Bool) (p : MF) (s : State) : Host.Outcome State Fault Refusal :=
  s.onWave fun w =>
    let srcs := offsetRegs p ++ runFrom p.vt.toNat (regsOf p.width)
    match s.spillTrap w srcs [] with
    | some t => s.takeTrap w t
    | none =>
      match s.spadLanes w ((lanesOf (w.active p.km.toNat)).map (fun l => (l, spadAddr w (s.readV w) p (MF.disp p) l))) (MF.size p) with
      | .inl t => s.takeTrap w t
      | .inr ks =>
        match s.clobberTrap (MF.size p) ks with
        | some t => s.takeTrap w t
        | none =>
          let scope := if ks = [] then 0 else w.releaseScope p.order p.scope
          if s.spadBlocked w scope then s.stall w
          else
            let s' := ks.foldl (fun st e => st.spadPut e.2.2 (laneBytes (s.readV w) p e.1)) (s.spillRead w (distinct srcs))
            ((s'.spadRelease w scope ks.isEmpty).issueOp w (some .ST) false .store .none []).advanceWave w.uid 2 c .L

/-- `lds16` (R266): bit 0 of the address is cleared. -/
def execLds16 (c : Bool) (p : MF) (s : State) : Host.Outcome State Fault Refusal :=
  s.onWave fun w =>
    let act := w.active p.km.toNat
    let addr (l : Nat) : Nat :=
      let a := ((((w.rs p.sbase.toNat).toNat : Int) + (if p.voff = 0xFF then 2 * (l : Int) else 2 * (laneOf (s.readV w p.voff.toNat) l).toInt) + MF.disp p) % 2 ^ 32).toNat
      a - a % 2
    s.spadLoad w c p act ((lanesOf act).map (fun l => (l, addr l))) 1

end Sys2Proof.Machine
end

