-- ==== Sys2Proof/Machine/Layout.lean ====
section
/-! DEFINITION. Layout records (R240 to R243) and the tile loads and stores (R267). -/

namespace Sys2Proof.Machine

/-- Bytes of an element of a type (R241): a q4n counts as 128. -/
def elemBytes (ty : Nat) : Nat := if ty = 11 then 128 else tyBits ty / 8

/-- The fields of a record's 128 bytes (R240). -/
def parseLayout (raw : List Byte) : Layout :=
  let v := leNat raw
  let nd := bitsOf v 70 68
  { raw := raw, base := bitsOf v 56 0, ty := bitsOf v 67 64, ndim := nd, circ := bitsOf v 78 72, perm := bitsOf v 81 80,
    csm := bitOf v 82, sp := bitOf v 84,
    box := (List.range nd).map (fun d => bitsOf v (128 + 8 * d + 7) (128 + 8 * d) + 1),
    extent := (List.range nd).map (fun d => bitsOf v (192 + 32 * d + 31) (192 + 32 * d)),
    stride := (List.range nd).map (fun d => signedOf (bitsOf v (448 + 64 * d + 47) (448 + 64 * d)) 48) }

/-- Reserved bits and the fields of dimensions at or above NDIM are zero (R240). -/
def layoutZeros (raw : List Byte) : Bool :=
  let v := leNat raw
  let nd := bitsOf v 70 68
  bitsOf v 1023 896 == 0 && bitsOf v 447 416 == 0 && bitsOf v 191 184 == 0 && bitsOf v 127 85 == 0 && !bitOf v 83 && !bitOf v 79 &&
  !bitOf v 71 && bitsOf v 63 57 == 0 &&
  (List.range 7).all (fun d => bitsOf v (448 + 64 * d + 63) (448 + 64 * d + 48) == 0 &&
    (decide (d < nd) || (bitsOf v (448 + 64 * d + 47) (448 + 64 * d) == 0 && bitsOf v (192 + 32 * d + 31) (192 + 32 * d) == 0 &&
      bitsOf v (128 + 8 * d + 7) (128 + 8 * d) == 0 && !bitOf v (72 + d))))

/-- The checks of R241 on a record that has been read: `nd` is the instruction's coordinate count, `bdst` says that its
destination is the B store. -/
def layoutOk (r : Layout) (nd : Option Nat) (bdst : Bool) : Bool :=
  r.ty != 15 && r.ndim != 0 && (match nd with | some n => n == r.ndim | none => true) && layoutZeros r.raw &&
  r.stride.headD 0 == 0 &&
  (List.range r.ndim).all (fun d => !r.circ.testBit d || r.extent.getD d 0 != 0) &&
  (r.ty == 13 || r.ty == 14 ||
    (r.base % elemBytes r.ty == 0 && (r.ty == 11 || r.stride.all (fun x => x % elemBytes r.ty == 0)))) &&
  (r.perm == 0 || (r.base % 1024 == 0 && r.ty != 11)) &&
  (!r.sp || decide (r.base < 2 ^ 32)) && (!r.csm || (decide (2 ≤ r.ndim) && !r.sp && bdst))

/-- A trap of an access that the wave makes as a whole: no lane fails. DEDUCED (log 28). -/
def Trap.whole (t : Trap) : Trap := { t with lanes := 0, detail := 0 }

/-- What reading a record gives. -/
inductive LayoutRead where
  | ok (r : Layout)
  | trap (t : Trap)
  | wait (pages : List Nat)
  | stall
  /-- TYPE 13 or 14: the firmware takes over, and halts the wave (R182). -/
  | emulate
deriving DecidableEq, Repr

/-- n bytes inside one line, read by an instruction for itself and not for a lane, like a load; checked in the order of R241. -/
inductive RecordRead where
  | ok (s : State) (bytes : List Byte)
  | trap (t : Trap)
  | wait (pages : List Nat)
  | stall

def State.readRecord (s : State) (w : Wave) (addr n align : Nat) (deny : Page → Bool) : RecordRead :=
  if addr % align != 0 then .trap { cause := 0x08, addr := BitVec.ofNat 64 addr }
  else
    match s.resolve w.view [(0, addr)] 1 false deny with
    | .trap t => .trap t.whole
    | .wait pages => .wait pages
    | .ok accs =>
      if s.loadBlocked w.core n 0 accs then .stall
      else
        let s := s.reach w accs true
        match s.poisonTrap w.core accs with
        | some t => .trap { t.whole with walks := [addr], lines := accLines accs }
        | none =>
          let (s, res) := s.loadAll w.core n 0 0 accs
          .ok s ((res.head?.map Prod.snd).getD [])

/-- A layout record read and checked (R241). -/
def State.readLayout (s : State) (w : Wave) (addr : Nat) (nd : Option Nat) (bdst : Bool) : State × LayoutRead :=
  match s.readRecord w addr 128 128 noDeny with
  | .trap t => (s, .trap t)
  | .wait p => (s, .wait p)
  | .stall => (s, .stall)
  | .ok s' raw =>
    let r := parseLayout raw
    if !layoutOk r nd bdst then (s', .trap illegalEncoding)
    else if r.ty == 13 || r.ty == 14 then (s', .emulate)
    else (s', .ok r)

/-! ### Elements (R242) -/

/-- Box elements. -/
def Layout.count (r : Layout) : Nat := r.box.foldl (· * ·) 1

/-- The box offsets j of element b, dimension 0 fastest. -/
def boxOffsets (b : Nat) : List Nat → List Nat
  | [] => []
  | n :: rest => b % n :: boxOffsets (b / n) rest

/-- Indices x of element b: none when it is clipped. -/
def Layout.indices (r : Layout) (coords : List Int) (b : Nat) : Option (List Int) :=
  let xs := (boxOffsets b r.box).mapIdx (fun d (j : Nat) =>
    let x := coords.getD d 0 + (j : Int)
    if r.circ.testBit d then x % (r.extent.getD d 1 : Int) else x)
  if (List.range r.ndim).all (fun d => r.circ.testBit d || (decide (0 ≤ xs.getD d 0) && decide (xs.getD d 0 < (r.extent.getD d 0 : Int)))) then some xs
  else none

/-- The swizzle of PERM. -/
def swizzle (perm a : Nat) : Nat := if perm = 0 then a else a ^^^ ((a / 2 ^ 7 % 2 ^ perm) * 16)

/-- The address of indices: of an element, or of the super-block run that holds a q4n element. -/
def Layout.address (r : Layout) (xs : List Int) : Nat :=
  let sum := ((List.range r.ndim).drop 1).foldl (fun acc d => acc + xs.getD d 0 * r.stride.getD d 0) 0
  if r.ty = 11 then (((r.base : Int) + 8576 * sum) % 2 ^ 64).toNat
  else swizzle r.perm (((r.base : Int) + elemBytes r.ty * xs.getD 0 0 + sum) % 2 ^ 64).toNat

/-- The address of box element b, none when clipped. -/
def Layout.element (r : Layout) (coords : List Int) (b : Nat) : Option Nat := (r.indices coords b).map r.address

/-- The coordinates in scalar registers from r. -/
def Wave.coords (w : Wave) (r n : Nat) : List Int := (List.range n).map (fun i => (w.rs (r + i)).toInt)

/-! ### ldt, stt (R267) -/

/-- The layout record's address in the pair at a register. -/
def Wave.recordAt (w : Wave) (r : R8) : Nat := (w.pair r.toNat).toNat

/-- The unclipped active elements of a tile form: element number, lane and address. -/
def tileElements (r : Layout) (coords : List Int) (act : LaneMask) : List (Nat × Nat × Nat) :=
  (List.range r.count).filterMap (fun b => if act.getLsbD (b % 64) then (r.element coords b).map (fun a => (b, b % 64, a)) else none)

/-- Registers of a tile form's run. -/
def tileRegs (r : Layout) : Nat := (r.count + 63) / 64

/-- The lanes of register i of the run that hold an element and are active. -/
def tileLanes (r : Layout) (act : LaneMask) (i : Nat) : LaneMask := act &&& maskWhere (fun l => decide (64 * i + l < r.count))

/-- What a tile form's elements reach: scratchpad keys or translated pages, in element order. -/
inductive TileAccess where
  | mem (accs : List Acc)
  | spad (keys : List (Nat × Nat × Nat))
  | trap (t : Trap)
  | wait (pages : List Nat)

def State.tileAccess (s : State) (w : Wave) (r : Layout) (els : List (Nat × Nat × Nat)) (write : Bool) : TileAccess :=
  if r.sp then
    match s.spadLanes w (els.map (fun e => (e.2.1, e.2.2))) 1 with
    | .inl t => .trap t
    | .inr ks => .spad ks
  else
    match s.resolve w.view (els.map (fun e => e.2)) 1 write noDeny with
    | .trap t => .trap t
    | .wait p => .wait p
    | .ok accs => .mem accs

/-- A page as an operation that issues now translates it (R379). -/
def Page.asPin (p : Page) (va : Nat) : Pin :=
  { page := va / 4096, pa := p.pa - va % 4096, w := p.w, pin := p.pin, held := false }

/-- The operation of a wave just issued keeps the translations of its accesses (R379). -/
def State.pinned (s : State) (uid : Nat) (accs : List Acc) : State :=
  s.modOp (s.nextOp - 1) (fun o => if o.uid = uid then { o with pins := (accs.map (fun a => a.page.asPin a.va)).eraseDups } else o)

/-- The words that a tile load writes: element b of the list of loaded values, zero for a clipped or inactive one. -/
def tileWrites (d : Nat) (r : Layout) (act : LaneMask) (z : Bool) (vals : List (Nat × Word)) : List RegWrite :=
  (List.range (tileRegs r)).map (fun i =>
    .v (d + i) (if z then BitVec.allOnes 64 else tileLanes r act i)
      (allLanes.map (fun l => ((vals.find? (fun e => e.1 == 64 * i + l)).map Prod.snd).getD 0)))

/-- The common part of `ldt` and `stt`: the record, its checks, and what the elements reach. -/
def State.tile (s : State) (w : Wave) (p : TF) (i : Instr) (write : Bool)
    (go : State → Layout → LaneMask → List (Nat × Nat × Nat) → TileAccess → State) : State :=
  match s.readLayout w (w.recordAt p.tb) (some p.nd.toNat) false with
  | (s, .trap t) => s.takeTrap w t
  | (_, .wait pages) => s.parkPages w pages
  | (_, .stall) => s.stall w
  | (s, .emulate) => s.parkEmulateOn w i 3 false .L
  | (s, .ok r) =>
    if 2048 < r.count || 256 < p.ta.toNat + tileRegs r || r.ty == 11 then s.takeTrap w illegalEncoding
    else
      let run := runFrom p.ta.toNat (tileRegs r)
      match s.spillTrap w (if write then run else []) (if write then [] else run) with
      | some t => s.takeTrap w t
      | none =>
        let act := w.active p.km.toNat
        let els := tileElements r (w.coords p.tc.toNat p.nd.toNat) act
        match s.tileAccess w r els write with
        | .trap t => s.takeTrap w t
        | .wait pages => s.parkPages w pages
        | a => go s r act els a

def execLdt (p : TF) (s : State) : Host.Outcome State Fault Refusal :=
  s.onWave fun w => s.tile w p (.ldt p) false fun s r act els a =>
    let size := elemBytes r.ty
    let finish (s : State) (bytes : List (List Byte)) (accs : List Acc) : State :=
      let vals := (els.zip bytes).map (fun e => (e.1.1, extendField r.ty (leNat e.2)))
      (s.issueAcc w .LD (.regs (tileWrites p.ta.toNat r act p.z vals)) accs).pinned w.uid accs |>.advanceWave w.uid 3 false .L
    match a with
    | .mem accs =>
      if s.loadBlocked w.core size p.order accs then s.stall w
      else
        let s := s.reach w accs true
        match s.poisonTrap w.core accs with
        | some t => s.takeTrap w t
        | none =>
          let (s, res) := s.loadAll w.core size p.order p.scope accs
          finish s (res.map Prod.snd) accs
    | .spad ks =>
      match s.spadPoisonTrap size ks with
      | some t => s.takeTrap w t
      | none => finish (if p.order = 1 then s.invalidate w.core p.scope.toNat else s) (ks.map (fun e => s.spadBytes e.2.2 size)) []
    | _ => s

def execStt (p : TF) (s : State) : Host.Outcome State Fault Refusal :=
  s.onWave fun w => s.tile w p (.stt p) true fun s r _ els a =>
    let size := elemBytes r.ty
    let bytes (b : Nat) : List Byte := toBytes size (laneOf (s.readV w (p.ta.toNat + b / 64)) (b % 64)).toNat
    let s' := s.spillRead w (runFrom p.ta.toNat (tileRegs r))
    let finish (s : State) (accs : List Acc) : State := (s.issueAcc w .ST .store accs).pinned w.uid accs |>.advanceWave w.uid 3 false .L
    match a with
    | .mem accs =>
      let scope := w.releaseScope p.order p.scope
      if s.writeBlocked w scope accs then s.stall w
      else finish ((s'.reach w accs false).storeAll w scope ((accs.zip els).map (fun e => (e.1, bytes e.2.1)))) accs
    | .spad ks =>
      match s.clobberTrap size ks with
      | some t => s.takeTrap w t
      | none =>
        let scope := if ks = [] then 0 else w.releaseScope p.order p.scope
        if s.spadBlocked w scope then s.stall w
        else finish (((ks.zip els).foldl (fun st e => st.spadPut e.1.2.2 (bytes e.2.1)) s').spadRelease w scope ks.isEmpty) []
    | _ => s

end Sys2Proof.Machine
end

