-- ==== Sys2Proof/Machine/Copy.lean ====
section
/-! DEFINITION. Copies (R255, R268 to R271): issue with ownership of the destination (R321), and the whole copy with its
outcome, which the engine performs when its completion comes due. -/

namespace Sys2Proof.Machine

/-- How an engine's operation ended (R268): cause, whether the stop was at the destination, poison, bytes done. -/
structure Outcome where
  cause : Nat
  side : Bool
  poison : Bool
  bytes : Nat
deriving DecidableEq, Repr

/-- Where a piece of a copy lies. -/
inductive Spot where
  | mem (p : Page)
  | spad (key : Nat)
deriving DecidableEq, Repr

/-- What looking up one address for an engine gives; it waits for a page. -/
inductive SpotAt where
  | ok (x : Spot)
  | wait (page : Option Nat)
  | fail (cause : Nat)
deriving DecidableEq, Repr

/-- How an operation of a wave that issues now will reach memory (R255). -/
def State.engineView (s : State) (w : Wave) : View :=
  { sp := w.space, part := w.part, tlbs := [192 + coreDie w.core], refused := [], cp := false, op := some s.nextOp }

/-- How an operation of the CP that starts now will reach memory. -/
def State.packetView (s : State) (sp : Space) (part : Nat) : View := { cpView sp part with op := some s.nextOp }

/-- The page of a virtual address for an engine: as it was at issue, where an invalidation left that in force (R379), or as it
translates now. -/
def State.pageVia (s : State) (pins : List Pin) (v : View) (va : Nat) (write : Bool) : Access Page :=
  match pins.find? (fun e => e.held && e.page == va / 4096) with
  | some e => if write && !e.w then .fail true else .ok { pa := e.pa + va % 4096, w := e.w, x := false, nol1 := false, pin := e.pin }
  | none => s.page v va write

/-- The pages of some virtual addresses as they translate at issue (R379). -/
def State.pinsOf (s : State) (v : View) (vas : List Nat) : List Pin :=
  if v.sp.pv then []
  else (distinct (vas.map (· / 4096))).filterMap (fun pg =>
    match s.page v (pg * 4096) false with
    | .ok p => some (p.asPin (pg * 4096))
    | _ => none)

/-- The first bytes of the pages that a run of bytes touches. -/
def pagesOf (a len : Nat) : List Nat :=
  if len = 0 then [] else (List.range ((a + len - 1) / 4096 - a / 4096 + 1)).map (fun i => (a / 4096 + i) * 4096)

/-- An address of an engine: global (R255), or in a scratchpad, to be written as the wave reached it at issue (R321, R392), or read as
the wave reaches it now (R237). -/
def State.spot (s : State) (pins : List Pin) (spads : List (Nat × Nat × Nat)) (v : View) (w : Option Wave) (inSpad : Bool) (a : Nat) (write : Bool) :
    SpotAt :=
  if inSpad then
    match if write && (spadsAt spads a).isSome then spadsAt spads a else w.bind (fun w => s.spadTarget w a) with
    | none => .fail 0x0A
    | some key =>
      if write && (List.range 16).any (fun i => kvGet false s.tags (key / 128 * 16 + i)) then .fail 0x0B else .ok (.spad key)
  else
    match s.pageVia pins v a write with
    | .ok p => .ok (.mem p)
    | .miss p => .wait p
    | .fail perm => .fail (if perm then 0x0A else 0x09)

/-- Bytes from an address to the end of its piece: a page of memory, or a line of scratchpad. -/
def pieceLeft (inSpad : Bool) (a : Nat) : Nat := if inSpad then 128 - a % 128 else 4096 - a % 4096

/-- A piece of a copy: source, destination and length. -/
structure Piece where
  src : Spot
  dst : Spot
  len : Nat
deriving DecidableEq, Repr

/-- What planning a copy gives: its pieces up to a stop, and the stop (cause, at the destination), or a page to wait for. -/
inductive Plan where
  | go (pieces : List Piece) (stop : Option (Nat × Bool))
  | wait (page : Option Nat)

/-- One copy (R270): destination, source, length and the spaces of both. -/
structure CopyJob where
  pins : List Pin
  spads : List (Nat × Nat × Nat)
  view : View
  wave : Option Wave
  dsp : Bool
  ssp : Bool

/-- The pieces of a copy in ascending byte order (R255), at most one per unit of fuel. Where source and destination both fail at one
byte, the source is reported. DESIGN CHOICE (log 82). -/
def State.planCopy (s : State) (j : CopyJob) : Nat → Nat → Nat → Nat → List Piece → Plan
  | 0, _, _, _, acc => .go acc.reverse none
  | fuel + 1, d, a, len, acc =>
    if len = 0 then .go acc.reverse none
    else
      match s.spot j.pins j.spads j.view j.wave j.ssp a false with
      | .wait p => .wait p
      | .fail c => .go acc.reverse (some (c, false))
      | .ok x =>
        match s.spot j.pins j.spads j.view j.wave j.dsp d true with
        | .wait p => .wait p
        | .fail c => .go acc.reverse (some (c, true))
        | .ok y =>
          let n := min len (min (pieceLeft j.ssp a) (pieceLeft j.dsp d))
          s.planCopy j fuel ((d + n) % 2 ^ 64) ((a + n) % 2 ^ 64) (len - n) ({ src := x, dst := y, len := n } :: acc)

/-- Lines of memory that spots reach. -/
def spotLines (l : List (Spot × Nat)) : List Nat :=
  distinct (l.flatMap (fun e => match e.1 with | .mem p => (if isPeerPa p.pa then [] else linesOf p.pa e.2) | .spad _ => []))

/-- The peer ports that spots use (R404). -/
def State.spotPorts (s : State) (fn : Nat) (l : List (Spot × Nat)) : List Nat :=
  distinct (l.filterMap (fun e => match e.1 with
    | .mem p => (if isPeerPa p.pa then (s.importWindow fn p.pa).map (·.port) else none)
    | .spad _ => none))

/-- An operation issued earlier owns some line that these spots reach, or that a recall for them writes back (R321). -/
def State.spotsHeld (s : State) (v : View) (l : List (Spot × Nat)) : Bool := (spotLines l).any (fun line => s.homeHeld v.op line none)

/-- A line of a peer's answer is poisoned (R404), as is everything that a port which went down still owes (R405). -/
def State.peerBad (s : State) (fn pa : Nat) : Bool := (s.importWindow fn pa).isNone || Config.peerPoisoned s.draws (pa / 128)

/-- The lines of memory that spots reach come to be read: holders are recalled first, so that each line is then read whole, at one moment
(R269, R316). -/
def State.touchSpots (s : State) (l : List (Spot × Nat)) : State := (spotLines l).foldl (fun s line => (s.homeRead line none).1) s

/-- The walks of an engine for addresses as it translates them now (R249, R255). -/
def State.engineWalks (s : State) (pins : List Pin) (v : View) (vas : List Nat) : State :=
  s.walked v (vas.filter (fun a => !pins.any (fun e => e.held && e.page == a / 4096)))

/-- The bytes of a piece's source with their poison, each line read whole at its home. -/
def State.readSpot (s : State) (fn : Nat) (x : Spot) (n : Nat) : State × List (Byte × Bool) :=
  match x with
  | .mem p =>
    if isPeerPa p.pa then (s, (s.peerBytes p.pa n).mapIdx (fun i b => (b, s.peerBad fn (p.pa + i))))
    else
      let (s, bs) := s.homeLoad p.pa n
      let s := (linesOf p.pa n).foldl State.checkLine s
      (s, bs.mapIdx (fun i b => (b, s.poisoned ((p.pa + i) / 128))))
  | .spad key => (s, (s.spadBytes key n).mapIdx (fun i b => (b, kvGet false s.spadPoison ((key + i) / 8))))

/-- Bytes written through a peer window: one request for each destination line, marked where the line receives a poisoned byte (R251). -/
def State.peerLines (s : State) (fn pa : Nat) (bs : List (Byte × Bool)) : State :=
  (linesOf pa bs.length).foldl (fun s line =>
    let lo := max pa (line * 128); let hi := min (pa + bs.length) (line * 128 + 128)
    let mine := (bs.drop (lo - pa)).take (hi - lo)
    s.peerSend fn lo (mine.map Prod.fst) (mine.any Prod.snd)) s

/-- Bytes written to a piece's destination: a line, or a scratchpad word, that receives a poisoned byte is poisoned whole. -/
def State.writeSpot (s : State) (fn : Nat) (x : Spot) (bs : List (Byte × Bool)) : State :=
  let bad := (bs.zipIdx).filterMap (fun e => if e.1.2 then some e.2 else none)
  match x with
  | .mem p =>
    if isPeerPa p.pa then s.peerLines fn p.pa bs
    else (distinct (bad.map (fun i => (p.pa + i) / 128))).foldl State.setPoison (s.homeRun p.pa (bs.map Prod.fst))
  | .spad key =>
    let s := s.spadPut key (bs.map Prod.fst)
    { s with spadPoison := (distinct (bad.map (fun i => (key + i) / 8))).foldl (fun m x => kvPut false m x true) s.spadPoison }

/-- Every source byte is read before any is written (R270); the lines have been touched, so that no recall comes between. -/
def State.readPieces (s : State) (fn : Nat) : List Piece → State × List (Piece × List (Byte × Bool))
  | [] => (s, [])
  | p :: r =>
    let (s, bs) := s.readSpot fn p.src p.len
    let (s, rest) := s.readPieces fn r
    (s, (p, bs) :: rest)

/-- What performing an engine's operation gives; it waits for a page, or for an operation that owns a line (R321). -/
inductive EngineRun where
  | done (s : State) (o : Outcome)
  | wait (page : Option Nat)

/-- The spots of a copy's pieces. -/
def pieceSpots (l : List Piece) : List (Spot × Nat) := l.map (fun x => (x.src, x.len)) ++ l.map (fun x => (x.dst, x.len))

/-- A whole run copy. -/
def State.runCopy (s : State) (j : CopyJob) (d a len : Nat) : EngineRun :=
  match s.planCopy j len d a len [] with
  | .wait p => .wait p
  | .go pieces stop =>
    if s.spotsHeld j.view (pieceSpots pieces) then .wait none
    else
      let met (failed : Bool) : Nat := (pieces.map (·.len)).foldl (· + ·) 0 + (if failed then 1 else 0)
      let s := s.engineWalks j.pins j.view ((if j.ssp then [] else pagesOf a (met stop.isSome)) ++
        (if j.dsp then [] else pagesOf d (met (stop.any Prod.snd))))
      let s := s.touchSpots (pieces.map (fun x => (x.src, x.len)))
      let (s, reads) := s.readPieces j.view.sp.fn pieces
      let s := reads.foldl (fun s e => s.writeSpot j.view.sp.fn e.1.dst e.2) s
      let s : State := { s with draws := s.draws + 1 }
      .done s { cause := (stop.map Prod.fst).getD 0, side := (stop.map Prod.snd).getD false,
                poison := reads.any (fun e => e.2.any Prod.snd), bytes := (pieces.map (·.len)).foldl (· + ·) 0 }

/-- A box copy (R271), element by element. -/
structure BoxJob where
  pins : List Pin
  spads : List (Nat × Nat × Nat)
  view : View
  wave : Option Wave
  dst : Layout
  src : Layout
  dc : List Int
  sc : List Int

/-- One element of a box copy: a source spot (none for a clipped element, copied as zero) and a destination (none: not written). -/
structure Move where
  src : Option Spot
  dst : Option Spot
deriving DecidableEq, Repr

inductive BoxPlan where
  | go (moves : List Move) (stop : Option (Nat × Bool))
  | wait (page : Option Nat)

/-- The moves of a box copy in ascending order (R255, R271). DESIGN CHOICE (log 82). -/
def State.planBox (s : State) (j : BoxJob) : List Nat → List Move → BoxPlan
  | [], acc => .go acc.reverse none
  | b :: rest, acc =>
    let src := match j.src.element j.sc b with
      | none => Except.ok none
      | some a => match s.spot j.pins j.spads j.view j.wave j.src.sp a false with
        | .ok x => Except.ok (some x)
        | .wait p => Except.error (Sum.inl p)
        | .fail c => Except.error (Sum.inr (c, false))
    let dst := match j.dst.element j.dc b with
      | none => Except.ok none
      | some a => match s.spot j.pins j.spads j.view j.wave j.dst.sp a true with
        | .ok x => Except.ok (some x)
        | .wait p => Except.error (Sum.inl p)
        | .fail c => Except.error (Sum.inr (c, true))
    match src, dst with
    | .error (.inl p), _ => .wait p
    | .error (.inr e), _ => .go acc.reverse (some e)
    | .ok _, .error (.inl p) => .wait p
    | .ok _, .error (.inr e) => .go acc.reverse (some e)
    | .ok x, .ok y => s.planBox j rest ({ src := x, dst := y } :: acc)

/-- The spots of a box copy's moves. -/
def moveSpots (size : Nat) (l : List Move) : List (Spot × Nat) :=
  l.flatMap (fun m => (m.src.toList ++ m.dst.toList).map (fun x => (x, size)))

/-- Elements moved one at a time in ascending order: bytes written and poison met. -/
def State.moveAll (s : State) (fn size : Nat) : List Move → Nat → Bool → State × Nat × Bool
  | [], n, pz => (s, n, pz)
  | m :: r, n, pz =>
    let (s, bs) := match m.src with
      | none => (s, (List.replicate size (0, false) : List (Byte × Bool)))
      | some x => s.readSpot fn x size
    match m.dst with
    | none => s.moveAll fn size r n pz
    | some y => (s.writeSpot fn y bs).moveAll fn size r (n + size) (pz || bs.any Prod.snd)

def State.runBox (s : State) (j : BoxJob) : EngineRun :=
  match s.planBox j (List.range j.src.count) [] with
  | .wait p => .wait p
  | .go moves stop =>
    if s.spotsHeld j.view (moveSpots (elemBytes j.src.ty) moves) then .wait none
    else
      let met := (List.range (moves.length + if stop.isSome then 1 else 0))
      let s := s.engineWalks j.pins j.view ((if j.src.sp then [] else met.filterMap (j.src.element j.sc)) ++
        (if j.dst.sp then [] else met.filterMap (j.dst.element j.dc)))
      let s := s.touchSpots (moves.filterMap (fun m => m.src.map (fun x => (x, elemBytes j.src.ty))))
      let (s, n, pz) := s.moveAll j.view.sp.fn (elemBytes j.src.ty) moves 0 false
      let s : State := { s with draws := s.draws + 1 }
      .done s { cause := (stop.map Prod.fst).getD 0, side := (stop.map Prod.snd).getD false, poison := pz, bytes := n }

/-! ### Issue -/

/-- The completion operand (R126, R268): a semaphore's number is checked against the wave's SEMA at issue. -/
def Wave.completion (w : Wave) (cm : BitVec 2) (ct : R8) : Option Completion :=
  match cm.toNat with
  | 0 => some .none
  | 1 => some (.token ct.toNat)
  | 2 => if ct.toNat < w.foot.sema then some (.semOne ct.toNat) else none
  | _ => if ct.toNat < w.foot.sema then some (.semBytes ct.toNat) else none

/-- An engine reads what the issuing wave has stored (R269): its core's dirty lines go to their homes first. -/
def State.engineIssue (s : State) (core : Nat) : State := s.writeBackAll core (s.dirtyLines core)

/-- What an operation takes at issue: the lines that it owns (R321), the scratchpads that it writes (R392), and the peer ports that
it will use (R405). -/
structure Taken where
  owned : List Nat
  spads : List (Nat × Nat × Nat)
  ports : List Nat
deriving DecidableEq, Repr

def nothingTaken : Taken := { owned := [], spads := [], ports := [] }

/-- The scratchpad allocations that addresses reach. -/
def State.spadsOf (s : State) (w : Option Wave) (as : List Nat) : List (Nat × Nat × Nat) :=
  match w with
  | some w => (as.filterMap (s.spadWindow w)).eraseDups
  | none => []

/-- The destination of a copy as far as its pages are there, when another page is awaited (R321): ownership of the others begins
when their pages come. DEDUCED (log 31). -/
def State.destSpots (s : State) (j : CopyJob) : Nat → Nat → Nat → List (Spot × Nat)
  | 0, _, _ => []
  | fuel + 1, d, len =>
    if len = 0 then []
    else
      let n := min len (pieceLeft j.dsp d)
      (match s.spot j.pins j.spads j.view j.wave j.dsp d true with | .ok x => [(x, n)] | _ => []) ++ s.destSpots j fuel ((d + n) % 2 ^ 64) (len - n)

/-- What a copy takes. -/
def State.copyTaken (s : State) (j : CopyJob) (d a len : Nat) : Taken :=
  let spads := if j.dsp && len != 0 then s.spadsOf j.wave ((List.range (len / 128 + 1)).map (fun i => d + 128 * i) ++ [d + (len - 1)]) else []
  match s.planCopy j len d a len [] with
  | .go pieces _ =>
    { owned := spotLines (pieces.map (fun x => (x.dst, x.len))), spads := spads, ports := s.spotPorts j.view.sp.fn (pieceSpots pieces) }
  | .wait _ =>
    { owned := spotLines (s.destSpots j len d len), spads := spads, ports := s.spotPorts j.view.sp.fn (s.destSpots j len d len) }

/-- What a box copy takes. -/
def State.boxTaken (s : State) (j : BoxJob) : Taken :=
  let size := elemBytes j.dst.ty
  let spads := if j.dst.sp then s.spadsOf j.wave ((List.range j.dst.count).filterMap (j.dst.element j.dc)) else []
  match s.planBox j (List.range j.src.count) [] with
  | .go moves _ =>
    { owned := spotLines (moves.filterMap (fun m => m.dst.map (fun x => (x, size)))), spads := spads,
      ports := s.spotPorts j.view.sp.fn (moveSpots size moves) }
  | .wait _ =>
    let there := (List.range j.dst.count).filterMap (fun b => (j.dst.element j.dc b).bind (fun a =>
      match s.spot j.pins j.spads j.view j.wave j.dst.sp a true with | .ok x => some (x, size) | _ => none))
    { owned := spotLines there, spads := spads, ports := s.spotPorts j.view.sp.fn there }

/-- A copy goes out, unless the core has a dirty line that an engine still owns (R269, R321). One whose outcome is known at issue
has nothing to do (R270): its completion still comes due. -/
def State.issueCopy (s : State) (w : Wave) (kind : OpKind) (done : Completion) (x : Taken) (pins : List Pin) : State :=
  if s.flushHeld w.core then s.stall w
  else
    let id := s.nextOp
    ((((s.engineIssue w.core).issueOp w (some .CP) true kind done x.owned).onPorts x.ports id).modOp id (fun o =>
      { o with pins := pins, spads := x.spads })).advanceWave w.uid 3 false .A

/-- `cpy` (R270). -/
def execCpy (p : A3) (s : State) : Host.Outcome State Fault Refusal :=
  s.onWave fun w =>
    match w.completion p.cm p.ct with
    | none => s.takeTrap w illegalEncoding
    | some done =>
      let v := p.fl.getLsbD 0; let kl := p.fl.toNat / 2
      let regs := if v then [p.aa.toNat, p.aa.toNat + 1, p.ab.toNat, p.ab.toNat + 1, p.ac.toNat] else []
      match s.spillTrap w regs [] with
      | some t => s.takeTrap w t
      | none =>
        let dsp := p.imm.getLsbD 0; let ssp := p.imm.getLsbD 1
        match lowestLane (w.exec &&& w.rk kl) with
        | none => s.issueCopy w (.copy 0 0 0 dsp ssp) done nothingTaken []
        | some l =>
          let pairV (r : R8) : DWord := pairOf (laneOf (s.readV w r.toNat) l) (laneOf (s.readV w (r.toNat + 1)) l)
          let d := if v then pairV p.aa else w.pair p.aa.toNat
          let a := if v then pairV p.ab else w.pair p.ab.toNat
          let len := if v then laneOf (s.readV w p.ac.toNat) l else w.rs p.ac.toNat
          let d := if dsp then d.toNat % 2 ^ 32 else d.toNat
          let a := if ssp then a.toNat % 2 ^ 32 else a.toNat
          let view := s.engineView w
          let taken := s.copyTaken { pins := [], spads := [], view := view, wave := some w, dsp := dsp, ssp := ssp } d a len.toNat
          let pins := s.pinsOf view ((if dsp then [] else pagesOf d len.toNat) ++ (if ssp then [] else pagesOf a len.toNat))
          if s.flushHeld w.core then s.stall w
          else (s.spillRead w (distinct regs)).issueCopy w (.copy d a len.toNat dsp ssp) done taken pins

/-- The pages of a box copy's elements. -/
def BoxJob.addrs (j : BoxJob) : List Nat :=
  (List.range j.src.count).flatMap (fun b =>
    (if j.src.sp then [] else (j.src.element j.sc b).toList) ++ (if j.dst.sp then [] else (j.dst.element j.dc b).toList))

/-- `cpyt` (R271). Both records' addresses are checked for alignment (R241) and their pages translated first (R244); then the source record is read and checked before the
destination record: the order between them is open. DESIGN CHOICE (log 68). -/
def execCpyt (p : TF) (s : State) : Host.Outcome State Fault Refusal :=
  s.onWave fun w =>
    match w.completion p.cm p.ct with
    | none => s.takeTrap w illegalEncoding
    | some done =>
      let nd := p.nd.toNat
      match [w.recordAt p.tb, w.recordAt p.ta].find? (fun a => a % 128 != 0),
          s.resolveAll w.view [(0, w.recordAt p.tb, false, noDeny), (0, w.recordAt p.ta, false, noDeny)] 1 with
      | some a, _ => s.takeTrap w { cause := 0x08, addr := BitVec.ofNat 64 a }
      | none, .trap t => s.takeTrap w t.whole
      | none, .wait pages => s.parkPages w pages
      | none, .ok _ =>
        match s.readLayout w (w.recordAt p.tb) (some nd) false with
        | (s, .trap t) => s.takeTrap w t
        | (_, .wait pages) => s.parkPages w pages
        | (_, .stall) => s.stall w
        | (s, .emulate) => s.parkEmulateOn w (.cpyt p) 3 false .A
        | (s1, .ok src) =>
          match s1.readLayout w (w.recordAt p.ta) (some nd) false with
          | (s, .trap t) => s.takeTrap w t
          | (_, .wait pages) => s.parkPages w pages
          | (_, .stall) => s.stall w
          | (s, .emulate) => s.parkEmulateOn w (.cpyt p) 3 false .A
          | (s, .ok dst) =>
            if src.ty ≠ dst.ty ∨ src.ty = 11 ∨ src.count ≠ dst.count then s.takeTrap w illegalEncoding
            else if lowestLane (w.active p.km.toNat) = none then s.issueCopy w (.copy 0 0 0 false false) done nothingTaken []
            else
              let view := s.engineView w
              let job : BoxJob := { pins := [], spads := [], view := view, wave := some w, dst := dst, src := src,
                                    dc := w.coords p.td.toNat nd, sc := w.coords p.tc.toNat nd }
              s.issueCopy w (.box dst src job.dc job.sc) done (s.boxTaken job) (s.pinsOf view job.addrs)

end Sys2Proof.Machine
end

