-- ==== Sys2Proof/Machine/Area.lean ====
section
/-! DEFINITION. Checkpoint areas (R371, R378): where a wave's lies, and the checkpoint as its first 16 KiB hold it. -/

namespace Sys2Proof.Machine

/-- A wave's checkpoint area (R378). -/
def State.ckptArea (s : State) (w : Wave) : Nat := (s.part w.part).ckBase.toNat + 524288 * s.waveIndex w

/-- The area lies in the partition's DRAM slice, as R378 says that it does. -/
def State.areaThere (s : State) (w : Wave) : Bool := s.inSlice w.part (s.ckptArea w) && s.inSlice w.part (s.ckptArea w + 524287)

/-- Bytes written to a wave's checkpoint area at an offset. An area that CKBASE puts outside the slice is not written.
DESIGN CHOICE (log 44). -/
def State.areaPut (s : State) (w : Wave) (off : Nat) (bytes : List Byte) : State :=
  if s.areaThere w then s.homeRun (s.ckptArea w + off) bytes else s

/-- The bytes at an offset of a wave's checkpoint area. -/
def State.areaGet (s : State) (w : Wave) (off n : Nat) : State × List Byte := s.homeLoad (s.ckptArea w + off) n

/-! ### The first 16 KiB -/

/-- A list of bytes filled up with zeros to n. -/
def padded (n : Nat) (l : List Byte) : List Byte := l ++ List.replicate (n - l.length) 0

/-- Register numbers as one bit each. -/
def namesBytes (l : List Nat) : List Byte := toBytes 32 (l.foldl (fun m r => m ||| 2 ^ r) 0)
def namesFrom (v : Nat) : List Nat := (List.range 256).filter (fun r => v.testBit r)

/-- The saved registers of an inline frame in 48 bytes. -/
def InlineSave.bytes (f : InlineSave) : List Byte :=
  toBytes 8 f.args.toNat ++ toBytes 8 f.icount.toNat ++ toBytes 8 f.ibase.toNat ++ toBytes 4 f.ctaglo.toNat ++ toBytes 4 f.ctaghi.toNat ++
  toBytes 2 f.sdepth ++ toBytes 2 f.inld ++ toBytes 4 f.sd ++ toBytes 8 f.parent

def inlineFrom (v : Nat) : InlineSave :=
  { args := BitVec.ofNat 64 v, icount := BitVec.ofNat 64 (v >>> 64), ibase := BitVec.ofNat 64 (v >>> 128), ctaglo := BitVec.ofNat 32 (v >>> 192),
    ctaghi := BitVec.ofNat 32 (v >>> 224), sdepth := bitsOf v 271 256, inld := bitsOf v 287 272, sd := bitsOf v 319 288, parent := bitsOf v 383 320 }

/-- The part that does not depend on the stacks: 304 bytes. -/
def Checkpoint.headBytes (c : Checkpoint) : List Byte :=
  toBytes 8 c.exec.toNat ++ (List.range 15).flatMap (fun i => toBytes 8 (kvGet 0 c.k (i + 1)).toNat) ++
  toBytes 4 c.fmt.toNat ++ toBytes 4 c.scc.toNat ++ toBytes 4 c.tbudget.toNat ++ toBytes 4 c.inld ++ toBytes 8 c.head.toNat ++
  toBytes 8 c.args.toNat ++ toBytes 8 c.icount.toNat ++ toBytes 8 c.ibase.toNat ++ toBytes 4 c.ctaglo.toNat ++ toBytes 4 c.ctaghi.toNat ++
  toBytes 4 c.sdepth ++ toBytes 2 c.maskStack.length ++ toBytes 2 c.callStack.length ++
  namesBytes (c.sregs.map Prod.fst) ++ namesBytes (c.vregs.map Prod.fst) ++ toBytes 48 0

/-- The first 4 KiB: the scalar state in 304 bytes, up to 32 mask-stack entries of 16 bytes from 0x130, and the call stack as its
entries need it. DESIGN CHOICE (log 44). -/
def Checkpoint.bytes (c : Checkpoint) : List Byte :=
  c.headBytes ++ padded 512 (c.maskStack.flatMap (fun e => toBytes 8 e.exec.toNat ++ toBytes 8 e.fmt.toNat)) ++
  c.callStack.flatMap (fun e => match e.save with | some f => toBytes 8 (e.ra.toNat + 2 ^ 63) ++ f.bytes | none => toBytes 8 e.ra.toNat)

/-- Call-stack entries as the bytes hold them. -/
def callsFrom : Nat → List Byte → List CallEntry
  | 0, _ => []
  | n + 1, bs =>
    let v := leNat (bs.take 8)
    if bitOf v 63 then { ra := BitVec.ofNat 64 (v % 2 ^ 63), save := some (inlineFrom (leNat ((bs.drop 8).take 48))) } :: callsFrom n (bs.drop 56)
    else { ra := BitVec.ofNat 64 v, save := none } :: callsFrom n (bs.drop 8)

/-- A checkpoint as its bytes hold it: the first 4 KiB, the scalar registers, and the named vector registers in ascending order. -/
def checkpointFrom (a sregs vregs : List Byte) : Checkpoint :=
  let v := leNat (a.take 304)
  let word (off : Nat) : Word := BitVec.ofNat 32 (v >>> (8 * off))
  let pair (off : Nat) : DWord := BitVec.ofNat 64 (v >>> (8 * off))
  let snames := namesFrom (bitsOf v (8 * 224 - 1) (8 * 192))
  let vnames := namesFrom (bitsOf v (8 * 256 - 1) (8 * 224))
  { exec := pair 0, k := (List.range 15).foldl (fun m i => kvPut 0 m (i + 1) (pair (8 * (i + 1)))) [],
    fmt := word 128, scc := word 132, tbudget := word 136, inld := (word 140).toNat, head := pair 144,
    args := pair 152, icount := pair 160, ibase := pair 168, ctaglo := word 176, ctaghi := word 180, sdepth := (word 184).toNat,
    maskStack := (List.range (bitsOf v (8 * 190 - 1) (8 * 188))).map (fun i =>
      let e := leNat ((a.drop (304 + 16 * i)).take 16)
      { exec := BitVec.ofNat 64 e, fmt := BitVec.ofNat 32 (e >>> 64) }),
    callStack := callsFrom (bitsOf v (8 * 192 - 1) (8 * 190)) (a.drop 816),
    sregs := snames.map (fun r => (r, BitVec.ofNat 32 (leNat ((sregs.drop (4 * r)).take 4)))),
    vregs := vnames.zipIdx.map (fun e => (e.1, wordsFrom 64 ((vregs.drop (256 * e.2)).take 256))) }

/-- A checkpoint is written to the area (R371, R378), every line whole. Its named vector registers lie in ascending order. -/
def State.saveCheckpoint (s : State) (w : Wave) (c : Checkpoint) : State :=
  let scalars := (List.range 256).flatMap (fun r => toBytes 4 (((c.sregs.find? (fun e => e.1 == r)).map Prod.snd).getD 0).toNat)
  ((s.areaPut w 0 (padded 4096 c.bytes)).areaPut w 0x1000 scalars).areaPut w 0x2000
    ((sortBy Prod.fst c.vregs).flatMap (fun e => bytesFrom e.2))

/-- The checkpoint that the area holds. -/
def State.loadCheckpoint (s : State) (w : Wave) : State × Checkpoint :=
  let (s, a) := s.areaGet w 0 4096
  let (s, r) := s.areaGet w 0x1000 1024
  let (s, v) := s.areaGet w 0x2000 4096
  (s, checkpointFrom a r v)

end Sys2Proof.Machine
end

