-- ==== Sys2Proof/Machine/Cards.lean ====
section
/-! DEFINITION. Job cards (R69): reading one, and posting it to a task queue (R70, R72). -/

namespace Sys2Proof.Machine

/-- A job card's fields as software wrote them (R69). -/
structure JobCard where
  entry : Nat
  args : DWord
  parent : Nat
  tag : DWord
  prio : Nat
  lanes : Nat
  wwin : Nat
  spad : Nat
  acc : Nat
  sema : Nat
  mstk : Nat
deriving DecidableEq, Repr

/-- A card that R70 accepts: none is BAD_CARD. -/
def parseCard (raw : List Byte) : Option JobCard :=
  let v := leNat raw
  let c : JobCard :=
    { entry := bitsOf v 184 128, args := BitVec.ofNat 64 (bitsOf v 248 192), parent := bitsOf v 312 256,
      tag := BitVec.ofNat 64 (bitsOf v 383 320), prio := bitsOf v 68 66, lanes := bitsOf v 63 57, wwin := bitsOf v 56 51,
      spad := bitsOf v 50 42, acc := bitsOf v 41 36, sema := bitsOf v 35 31, mstk := bitsOf v 30 25 }
  let zero := bitsOf v 511 384 == 0 && bitsOf v 319 313 == 0 && bitsOf v 255 249 == 0 && bitsOf v 191 185 == 0 &&
    bitsOf v 127 69 == 0 && bitsOf v 65 64 == 0 && bitsOf v 24 8 == 0
  if bitsOf v 7 0 == 0xC1 && zero && decide (1 ≤ c.lanes ∧ c.lanes ≤ 64) && decide (c.wwin ≤ 32) && decide (c.spad ≤ 256) &&
      decide (c.acc ≤ 32) && decide (c.sema ≤ 16) && decide (c.mstk ≤ 32) && c.entry % 12 == 0 && c.parent % 8 == 0 then some c
  else none

/-- The core that a target names (R204): 0 to 7 within the cluster, 8 to 15 the wave's own. -/
def targetCore (core n : Nat) : Nat := if 8 ≤ n then core else core / 8 * 8 + n

def State.queued (s : State) (cc : Nat) : Nat := (s.cards.filter (fun e => e.1 == cc)).length

/-- A task queue has room for a card (R70). -/
def State.hasRoom (s : State) (cc : Nat) : Bool := s.queued cc < 256

/-- Who posts a card: what the child takes from it (R72, R73). -/
structure Poster where
  core : Nat
  cx : Nat
  part : Nat
  launch : Nat
  fn : Nat
  queue : Nat
  space : Space
  depth : Nat
  prio : Nat
  desc : KDesc
deriving DecidableEq, Repr

def Wave.poster (w : Wave) : Poster :=
  { core := w.core, cx := w.cx, part := w.part, launch := w.launch, fn := w.fn, queue := w.queue, space := w.space,
    depth := w.sdepth, prio := w.prio, desc := w.desc }

/-- A card joins the tail of a task queue; its birth is tried (R72). -/
def State.postCard (s : State) (o : Poster) (target : Nat) (c : JobCard) (devScope : Bool) : State :=
  let cc := 192 * o.cx + targetCore o.core target
  let card : Card :=
    { entry := BitVec.ofNat 64 c.entry, args := c.args, parent := c.parent, tag := c.tag, depth := o.depth + 1, prio := min c.prio o.prio,
      lanes := c.lanes, wwin := c.wwin, spad := c.spad, acc := c.acc, sema := c.sema, mstk := c.mstk, launch := o.launch,
      desc := o.desc, fn := o.fn, queue := o.queue, space := o.space, part := o.part, cx := o.cx, devScope := devScope }
  { s with cards := s.cards ++ [(cc, card)] }.due .taskCardBirth { core := cc }

end Sys2Proof.Machine
end

