-- ==== Sys2Proof/Machine/Atomic.lean ====
section
/-! DEFINITION. Atomics (R272), histograms (R273, R274) and guided chunks (R74, R75, R279). -/

namespace Sys2Proof.Machine

/-- A sealing instruction has issued (R261, R372). -/
def State.sealWave (s : State) (uid : Nat) : State := s.modWave uid (fun w => w.seal s.dtime)

/-- RoundNE of a sum in f32, without flags. -/
def addF32 (x y : Nat) : Nat := (fmtF32.round .rne false ((fmtF32.decode x).add .rne (fmtF32.decode y)).1).1

/-- New(op, m, x) of R272 on n bits, and whether the step stores: a swap, a store and a compare that matches store even an
unchanged value. -/
def atomNew (op n m x x2 : Nat) : Nat × Bool :=
  let sg (v : Nat) : Int := signedOf v n
  match op with
  | 0 => ((m + x) % 2 ^ n, false)
  | 1 => (m &&& x, false)
  | 2 => (m ||| x, false)
  | 3 => (m ^^^ x, false)
  | 4 => (if sg x < sg m then x else m, false)
  | 5 => (if sg m < sg x then x else m, false)
  | 6 => (min m x, false)
  | 7 => (max m x, false)
  | 8 => (x, true)
  | 9 => (if m = x then x2 else m, m == x)
  | 10 => (addF32 m x, false)
  | 11 => (if x ≤ m then 0 else m + 1, false)
  | 12 => (x, true)
  | _ => (m, false)

/-- A lane of a group: its number and operands. -/
structure AtomLane where
  lane : Nat
  x : Nat
  x2 : Nat
deriving DecidableEq, Repr

/-- The lanes of a group applied in ascending order (R272): the new value, whether any wrote, and each lane's old value. -/
def atomGroup (op n : Nat) : Nat → Bool → List AtomLane → Nat × Bool × List (Nat × Nat)
  | m, wrote, [] => (m, wrote, [])
  | m, wrote, a :: r =>
    let (new, stores) := atomNew op n m a.x a.x2
    let (v, wr, olds) := atomGroup op n new (wrote || stores || new != m) r
    (v, wr, (a.lane, m) :: olds)

/-- A partial sum of `.ra`: its value, and for each of its lanes what was summed before it. -/
abbrev Partial := Nat × List (Nat × Option Nat)

/-- Two partial sums become one. -/
def mergePartial (a b : Partial) : Partial :=
  (addF32 a.1 b.1, a.2 ++ b.2.map (fun e => (e.1, some (match e.2 with | some o => addF32 a.1 o | none => a.1))))

/-- `.ra`: the lanes are summed in an association that the free values choose. DESIGN CHOICE (log 25). -/
def anySum : Nat → Nat → List Partial → Option Partial
  | _, _, [] => none
  | _, _, [a] => some a
  | 0, _, a :: _ => some a
  | fuel + 1, draw, l =>
    let i := (Config.freeWord draw).toNat % l.length
    let rest := l.eraseIdx i
    let j := (Config.freeWord (draw + 1)).toNat % rest.length
    anySum fuel (draw + 2) (mergePartial (l.getD i (0, [])) (rest.getD j (0, [])) :: rest.eraseIdx j)

/-- A group of `.ra`: one addition of the sum; each lane's old value is the memory's plus a partial sum. DESIGN CHOICE (log 25). -/
def anyGroup (draw m : Nat) (lanes : List AtomLane) : Nat × Bool × List (Nat × Nat) :=
  match anySum lanes.length draw (lanes.map (fun a => (a.x, [(a.lane, none)]))) with
  | none => (m, false, [])
  | some (sum, offs) =>
    (addF32 m sum, addF32 m sum != m, offs.map (fun e => (e.1, match e.2 with | some o => addF32 m o | none => m)))

/-- An operand of n 32-bit registers of a lane. -/
def operandAt (rd : Nat → VReg) (r n l : Nat) : Nat := leNat ((runFrom r n).flatMap (fun i => toBytes 4 (laneOf (rd i) l).toNat))

def MF.atomLane (p : MF) (rd : Nat → VReg) (l : Nat) : AtomLane :=
  { lane := l, x := operandAt rd p.vt.toNat (regsOf p.width) l, x2 := operandAt rd (p.vt.toNat + regsOf p.width) (regsOf p.width) l }

/-- A group of lanes at one address: its new value, whether it is written, and the old values. -/
def atomStep (draw : Nat) (p : MF) (m : Nat) (lanes : List AtomLane) : Nat × Bool × List (Nat × Nat) :=
  if p.aRa then anyGroup draw m lanes else atomGroup p.aop.toNat (8 * sizeOf p.width) m false lanes

/-- Applied at a home: the core's own dirty bytes go first, a release at the scope (0: none) is recorded, then the group's one
step (R272): whether it wrote, and the old values. At system scope on system memory the host applies it (PCI Express AtomicOps). -/
def State.atomHome (s : State) (w : Wave) (scope : Nat) (p : MF) (pa : Nat) (lanes : List AtomLane) : State × Bool × List (Nat × Nat) :=
  let line := pa / 128; let n := sizeOf p.width; let core := w.core
  if isPeerPa pa then
    if p.aop = 13 then (s, false, lanes.map (fun a => (a.lane, leNat (s.peerBytes pa n))))
    else
      let s := if scope ≠ 0 then s.eagerRelease core (5 ≤ scope) else s
      (s.peerSend w.fn pa (toBytes n (atomStep s.draws p 0 lanes).1) false, true, [])
  else
    let s := s.homeTake core line
    let s := if scope ≠ 0 then s.recordRelease core line scope else s
    if isSysPa pa && p.scope = 5 then
      let s := s.proxyDrop line
      let (v, wrote, olds) := atomStep s.draws p (leNat (memBytes s.mem pa n)) lanes
      ({ s with draws := s.draws + 128, mem := if wrote then memPutAll s.mem pa (toBytes n v) else s.mem }, wrote, olds)
    else
      let (v, wrote, olds) := atomStep s.draws p (leNat (s.homeBytes pa n)) lanes
      let s := { s with draws := if p.aRa then s.draws + 128 else s.draws }
      (if wrote then s.homePut pa (toBytes n v) else s, wrote, olds)

/-- Lanes grouped by what they reach, in order of their first lane. -/
def groupBy (key : Nat × Nat → Nat) (l : List (Nat × Nat)) : List (Nat × List Nat) :=
  (distinct (l.map key)).map (fun k => (k, (l.filter (fun e => key e == k)).map Prod.fst))

/-- Groups applied one after another: whether one wrote, and the old values. -/
def State.atomGroups (s : State) (w : Wave) (scope : Nat) (p : MF) (rd : Nat → VReg) : List (Nat × List Nat) → State × Bool × List (Nat × Nat)
  | [] => (s, false, [])
  | g :: r =>
    let (s, wrote, olds) := s.atomHome w scope p g.1 (g.2.map (fun l => MF.atomLane p rd l))
    let (s, wrotes, rest) := s.atomGroups w scope p rd r
    (s, wrote || wrotes, olds ++ rest)

/-- Groups applied in scratchpad. -/
def State.atomSpads (s : State) (p : MF) (rd : Nat → VReg) : List (Nat × List Nat) → State × Bool × List (Nat × Nat)
  | [] => (s, false, [])
  | g :: r =>
    let n := sizeOf p.width
    let (v, wrote, olds) := atomStep s.draws p (leNat (s.spadBytes g.1 n)) (g.2.map (fun l => MF.atomLane p rd l))
    let s := { s with draws := if p.aRa then s.draws + 128 else s.draws }
    let (s, wrotes, rest) := (if wrote then s.spadPut g.1 (toBytes n v) else s).atomSpads p rd r
    (s, wrote || wrotes, olds ++ rest)

/-- The operations that seal (R261). -/
def MF.atomSeals (p : MF) : Bool := p.aRet || p.aop == 0 || p.aop == 3 || p.aop == 9 || p.aop == 10 || p.aop == 11

/-- An atomic has been applied: it seals, and its old values land, or it counts as a store. -/
def State.atomDone (s : State) (w : Wave) (c : Bool) (p : MF) (act : LaneMask) (olds : List (Nat × Nat)) (accs : List Acc) : State :=
  let s := if p.order.toNat % 2 = 1 then s.invalidate w.core p.scope.toNat else s
  let s := if MF.atomSeals p then s.sealWave w.uid else s
  let res := olds.map (fun e => (e.1, wordsFrom (regsOf p.width) (toBytes (sizeOf p.width) e.2)))
  let s := if p.aRet then s.issueAcc w .LD (.regs (vecWrites p.vt.toNat (regsOf p.width) act res)) accs else s.issueAcc w .ST .store accs
  s.advanceWave w.uid 2 c .L

/-- Pages that `atom` may not reach (R272). -/
def MF.atomDeny (p : MF) : Page → Bool := fun g =>
  (isPeerPa g.pa && !(p.aop == 12 || p.aop == 13)) ||
  (isSysPa g.pa && p.scope == 5 && !(p.aop == 0 || p.aop == 8 || p.aop == 9))

/-- The scope at which an `atom` in some lane releases, a pending fence included (R308, R313); a load does not write. -/
def Wave.atomScope (w : Wave) (p : MF) (act : LaneMask) : Nat := if p.aop = 13 ∨ act = 0 then 0 else w.releaseScope p.order p.scope

/-- `atom` (R272). A lane at a live barrier word is met before one at a poisoned word. DESIGN CHOICE (log 80). A pending fence is used up
by one that writes (R252, R313). -/
def execAtom (c : Bool) (p : MF) (s : State) : Host.Outcome State Fault Refusal :=
  s.onWave fun w =>
    let act := w.active p.km.toNat
    let data := runFrom p.vt.toNat (regsOf p.width * (if p.aop = 9 then 2 else 1))
    let srcs := offsetRegs p ++ (if p.aop = 13 then [] else data)
    match s.spillTrap w srcs (if p.aRet then runFrom p.vt.toNat (regsOf p.width) else []) with
    | some t => s.takeTrap w t
    | none =>
      if p.aSp then
        match s.spadLanes w ((lanesOf act).map (fun l => (l, spadAddr w (s.readV w) p 0 l))) (sizeOf p.width) with
        | .inl t => s.takeTrap w t
        | .inr ks =>
          match s.clobberTrap (sizeOf p.width) ks with
          | some t => s.takeTrap w t
          | none =>
            match s.spadPoisonTrap (sizeOf p.width) ks with
            | some t => s.takeTrap w t
            | none =>
              if s.spadBlocked w (w.atomScope p act) then s.stall w
              else
                let (s', wrote, olds) := (s.spillRead w (distinct srcs)).atomSpads p (s.readV w) (groupBy Prod.snd (ks.map (fun e => (e.1, e.2.2))))
                (s'.spadRelease w (w.atomScope p act) (!wrote)).atomDone w c p act olds []
      else
        match s.resolve w.view ((lanesOf act).map (fun l => (l, globalAddr w (s.readV w) p 0 l))) (sizeOf p.width) (p.aop != 13) (MF.atomDeny p) with
        | .trap t => s.takeTrap w t
        | .wait pages => s.parkPages w pages
        | .ok accs =>
          let scope := w.atomScope p act
          if s.homeBlocked w scope accs then s.stall w
          else
            let s := s.reach w accs true
            match s.poisonTrap w.core (if p.aop = 12 then accs.filter (fun a => !isPeerPa a.page.pa) else accs) with
            | some t => s.takeTrap w t
            | none =>
              let (s', wrote, olds) := (s.spillRead w (distinct srcs)).atomGroups w scope p (s.readV w) (groupBy Prod.snd (accs.map (fun a => (a.lane, a.page.pa))))
              (if wrote then s'.fenceUsed w.uid else s').atomDone w c p act olds accs

/-! ### hinc (R273, R274) -/

/-- What posting a card for `hinc` gives: the device, or a wait for a page or an engine. -/
inductive Posted where
  | done (s : State)
  | wait (page : Option Nat)

/-- MISSED of a histogram record rises by one at its home, which was translated at issue. DEDUCED (log 69). -/
def State.countMissed (s : State) (missed : Nat) : Posted :=
  if s.runHeld none missed 4 then .wait none
  else
    let (s, b) := s.homeLoad missed 4
    .done (s.homeRun missed (toBytes 4 ((leNat b + 1) % 2 ^ 32)))

/-- How a post reaches memory. -/
def Poster.view (o : Poster) (refused : List Nat) : View :=
  { sp := o.space, part := o.part, tlbs := [192 + coreDie o.core], refused := refused, cp := false, op := none }

/-- Post() of R274. -/
def State.post (s : State) (o : Poster) (refused : List Nat) (card target missed : Nat) : Posted :=
  match s.page (o.view refused) card false with
  | .miss pg => .wait pg
  | .fail _ => (s.walkCheck (o.view refused) card).countMissed missed
  | .ok p =>
    let s := s.walkCheck (o.view refused) card
    if isPeerPa p.pa then s.countMissed missed
    else if s.runHeld none p.pa 64 then .wait none
    else if s.lineBad (p.pa / 128) then (s.checkLine (p.pa / 128)).countMissed missed
    else
      let (s, raw) := s.homeLoad p.pa 64
      match parseCard raw with
      | none => s.countMissed missed
      | some c =>
        if o.depth < 15 ∧ s.hasRoom (192 * o.cx + targetCore o.core target) then .done (s.postCard o target c true)
        else s.countMissed missed

/-- A post is made now, or waits as an operation of its own. -/
def State.postNow (s : State) (w : Wave) (card target missed : Nat) : State :=
  match s.post w.poster [] card target missed with
  | .done s => s
  | .wait pg =>
    let id := s.nextOp
    ((s.requestPages w.space pg.toList).issueOp w none false (.post card target missed w.sdepth w.prio w.desc) .none []).modOp id
      (fun o => { o with waits := pg.toList })

/-- A histogram record (R273): BINS, NBINS, CARDS, TARGET; none when it breaks a rule. -/
def parseHist (raw : List Byte) : Option (Nat × Nat × Nat × Nat) :=
  let v := leNat raw
  let zero := bitsOf v 1023 288 == 0 && bitsOf v 255 196 == 0 && bitsOf v 191 185 == 0 && bitsOf v 127 96 == 0 && bitsOf v 63 57 == 0
  let bins := bitsOf v 56 0; let cards := bitsOf v 184 128
  if zero && bitsOf v 95 64 != 0 && bins % 4 == 0 && cards % 64 == 0 then some (bins, bitsOf v 95 64, cards, bitsOf v 195 192) else none

/-- The bin steps in ascending order: bin, physical address and increment. A pending fence makes them releases (R313). -/
def State.binSteps (s : State) (w : Wave) (cards target missed : Nat) : List (Nat × Nat × Nat) → State
  | [] => s
  | (bin, pa, d) :: r =>
    let s := s.homeTake w.core (pa / 128)
    let s := if w.fence ≠ 0 then s.recordRelease w.core (pa / 128) w.fence else s
    let m := leNat (s.homeBytes pa 4)
    let new := (m + d) % 2 ^ 32
    let s := s.homePut pa (toBytes 4 new)
    let s := if m = 0 ∧ new ≠ 0 ∧ cards ≠ 0 then s.postNow w (cards + 64 * bin) target missed else s
    s.binSteps w cards target missed r

/-- `hinc` (R274). Of two failures, a vb out of range in one lane comes before a bin of another that has no translation; and MISSED is
translated for reading alone, and written whatever W says. The spec leaves both open. DESIGN CHOICE (log 101). -/
def execHinc (c : Bool) (p : MF) (s : State) : Host.Outcome State Fault Refusal :=
  s.onWave fun w =>
    let act := w.active p.km.toNat
    let srcs := p.vt.toNat :: offsetRegs p
    match s.spillTrap w srcs [] with
    | some t => s.takeTrap w t
    | none =>
      match s.readRecord w (w.recordAt p.sbase) 128 128 denyPeer with
      | .trap t => s.takeTrap w t
      | .wait pages => s.parkPages w pages
      | .stall => s.stall w
      | .ok s1 raw =>
        match parseHist raw with
        | none => s1.takeTrap w illegalEncoding
        | some (bins, nbins, cards, target) =>
          let bin (l : Nat) : Nat := (laneOf (s.readV w p.vt.toNat) l).toNat
          let addrs := (lanesOf act).map (fun l => (l, bins + 4 * bin l))
          match trapOf 0x0A 0 (addrs.filter (fun e => nbins ≤ bin e.1)) with
          | some t => s1.takeTrap w t
          | none =>
            match s1.resolve w.view addrs 4 true denyPeer with
            | .trap t => s1.takeTrap w t
            | .wait pages => s1.parkPages w pages
            | .ok accs =>
              if s1.homeBlocked w (if act = 0 then 0 else w.fence) accs then s.stall w
              else
                let s1 := s1.reach w accs true
                match s1.poisonTrap w.core accs with
                | some t => s1.takeTrap w t
                | none =>
                  let inc (l : Nat) : Nat := if p.voff = 0xFF then 1 else (laneOf (s.readV w p.voff.toNat) l).toNat
                  let named := sortBy id (distinct (accs.map (fun a => bin a.lane)))
                  let steps := named.map (fun n =>
                    (n, ((accs.find? (fun a => bin a.lane == n)).map (fun a => a.page.pa)).getD 0,
                      ((accs.filter (fun a => bin a.lane == n)).map (fun a => inc a.lane)).foldl (· + ·) 0 % 2 ^ 32))
                  let missed := match s1.page w.view (w.recordAt p.sbase + 32) false with | .ok g => g.pa | _ => 0
                  let s2 := ((s1.spillRead w srcs).binSteps w cards target missed steps).sealWave w.uid
                  let s2 := if act = 0 then s2 else s2.fenceUsed w.uid
                  (s2.issueOp w (some .ST) false .store .none []).advanceWave w.uid 2 c .L

/-! ### chunk (R74, R75, R279) -/

/-- Start and size of the next chunk, and whether the record is written. -/
def nextChunk (next fin parts least : Nat) : Nat × Nat × Bool :=
  if fin ≤ next then (next, 0, false)
  else (next, min (max least ((fin - next + 2 * max parts 1 - 1) / (2 * max parts 1))) (fin - next), true)

def execChunk (c : Bool) (d a : R8) (s : State) : Host.Outcome State Fault Refusal :=
  s.onWave fun w =>
    let addr := w.recordAt a
    if addr % 32 ≠ 0 then s.takeTrap w { cause := 0x08, addr := BitVec.ofNat 64 addr }
    else
      match s.resolve w.view [(0, addr)] 1 true denyPeer with
      | .trap t => s.takeTrap w t.whole
      | .wait pages => s.parkPages w pages
      | .ok accs =>
        if s.homeBlocked w w.fence accs then s.stall w
        else
          let s := s.reach w accs true
          match s.poisonTrap w.core accs, accs with
          | some t, _ => s.takeTrap w t.whole
          | none, g :: _ =>
            let s := s.homeTake w.core (g.page.pa / 128)
            let v := leNat (s.homeBytes g.page.pa 32)
            let (start, size, writes) := nextChunk (bitsOf v 63 0) (bitsOf v 127 64) (bitsOf v 159 128) (bitsOf v 191 160)
            let s := if writes ∧ w.fence ≠ 0 then s.recordRelease w.core (g.page.pa / 128) w.fence else s
            let s := if writes then (s.homePut g.page.pa (toBytes 8 (start + size))).fenceUsed w.uid else s
            let ws := wordsFrom 4 (toBytes 8 start ++ toBytes 8 size)
            ((s.sealWave w.uid).issueOp w (some .LD) false (.regs (scalarWrites d.toNat ws)) .none []).advanceWave w.uid 1 c .L
          | none, [] => s

end Sys2Proof.Machine
end

