-- ==== Sys2Proof/Machine/Sync.lean ====
section
/-! DEFINITION. Synchronisation (R324 to R342): fences, cohorts, named barrier groups, barrier words, semaphores. -/

namespace Sys2Proof.Machine

/-! ### fence (R313, R336) -/

/-- What the implicit release of an arrival, a post or a wave's leaving its core does (R204, R322, R329): at cluster scope or
wider every dirty line of the core is at its home. DESIGN CHOICE (log 10). -/
def State.releaseNow (s : State) (core scope : Nat) : State :=
  if scope < 2 then s else s.eagerRelease core (5 ≤ scope)

/-- Such a release waits: an engine owns a dirty line of the core (R321). -/
def State.releaseStalls (s : State) (core scope : Nat) : Bool := 2 ≤ scope && s.flushHeld core

/-- `fence` (R313): a release fence stays pending for the wave's next write, and at system scope is eager (R318); an acquire
fence orders what follows the last read (R312). -/
def execFence (c : Bool) (order : BitVec 2) (scope : BitVec 3) (s : State) : Host.Outcome State Fault Refusal :=
  s.onWave fun w =>
    let rel := order.getLsbD 1; let system := rel && scope = 5
    if system && (s.flushHeld w.core || s.peerWritesOut w []) then s.stall w
    else
      let s := if system then s.eagerRelease w.core true else s
      let s := if rel then s.modWave w.uid (fun w => { w with fence := max w.fence scope.toNat }) else s
      let s := if order.getLsbD 0 then s.invalidate w.core scope.toNat else s
      s.advanceWave w.uid 2 c .C

/-! ### Cohorts (R324 to R326) -/

/-- The scope of a level's release and acquire (R327). -/
def levelScope (lvl : Nat) : Nat := if lvl < 2 then 2 else lvl + 1

/-- A wave parked on a group, to wait or to join, wakes; its wait acquires at the level's scope (R329). -/
def State.wakeGroup (s : State) (g : GroupKey) : State :=
  let on (w : Wave) : Bool := w.life == .parked (.group g) || w.life == .parked (.joining g)
  let cores := distinct ((s.waves.filter on).map (·.core))
  let s := cores.foldl (fun s c => s.invalidate c (levelScope g.level)) s
  { s with waves := s.waves.map (fun (w : Wave) => if on w then w.woken else w) }

/-- The cohort that a wave is a member of. -/
def State.cohortOf (s : State) (uid : Nat) : Option Cohort := s.cohorts.find? (fun c => c.members.contains uid)

/-- A cohort becomes c; one without members and pending joiners ceases to exist. -/
def State.putCohort (s : State) (c : Cohort) : State :=
  if c.members = [] ∧ c.pendJoin = [] then { s with cohorts := s.cohorts.filter (fun x => x.key != c.key) }
  else { s with cohorts := s.cohorts.map (fun x => if x.key = c.key then c else x) }

/-- Completion of a generation as one action (R325), when every member has arrived. -/
def State.cohortCheck (s : State) (c : Cohort) : State :=
  if c.members.all (fun u => c.arrived.contains u) then
    (s.putCohort { c with gen := c.gen + 1, arrived := [], members := c.members.filter (fun u => !c.pendLeave.contains u) ++ c.pendJoin,
                          pendJoin := [], pendLeave := [] }).wakeGroup c.key
  else s.putCohort c

/-- One arrival of a member; a second one in a generation changes nothing (R338). -/
def State.cohortArrive (s : State) (c : Cohort) (uid : Nat) : State :=
  if c.arrived.contains uid then s else s.cohortCheck { c with arrived := c.arrived ++ [uid] }

/-- `leave` of a member (R325), by the instruction or because the wave retires (R326). -/
def State.cohortLeave (s : State) (c : Cohort) (uid : Nat) : State :=
  if c.arrived = [] then s.putCohort { c with members := c.members.filter (· != uid) }
  else
    let c := { c with pendLeave := if c.pendLeave.contains uid then c.pendLeave else c.pendLeave ++ [uid] }
    if c.arrived.contains uid then s.putCohort c else s.cohortCheck { c with arrived := c.arrived ++ [uid] }

/-- A retiring wave leaves its cohort as by `leave`, with the release of an arrival on its core (R326, R329), or is no longer a
pending joiner. A wave that has left its core released there when it did (R322). -/
def State.leaveCohort (s : State) (core : Option Nat) (uid : Nat) : State :=
  let s := match s.cohortOf uid with
    | some c => (match core with | some k => s.releaseNow k 2 | none => s).cohortLeave c uid
    | none => s
  { s with cohorts := (s.cohorts.map (fun (c : Cohort) => { c with pendJoin := c.pendJoin.filter (· != uid) })) }

def Wave.cohortKey (w : Wave) (name : Nat) : GroupKey := { cx := w.cx, level := 0, place := coreCluster w.core, name := name }

def execJoin (c : Bool) (name : BitVec 6) (s : State) : Host.Outcome State Fault Refusal :=
  s.onWave fun w =>
    let key := w.cohortKey name.toNat
    let fresh : Cohort := { key := key, gen := 0, members := [], arrived := [], pendJoin := [], pendLeave := [] }
    let co := (s.cohorts.find? (fun x => x.key == key)).getD fresh
    if s.cohorts.any (fun x => x.members.contains w.uid || x.pendJoin.contains w.uid) ∨ 256 ≤ co.members.length + co.pendJoin.length then
      s.takeTrap w cohortTrap
    else
      let w := w.seal s.dtime
      let s := if s.cohorts.any (fun x => x.key == key) then s else { s with cohorts := s.cohorts ++ [fresh] }
      if co.arrived = [] then (s.putCohort { co with members := co.members ++ [w.uid] }).putWave (w.advance 2 c .C)
      else (s.putCohort { co with pendJoin := co.pendJoin ++ [w.uid] }).park w (.joining key) 2 c .C

def execLeave (c : Bool) (s : State) : Host.Outcome State Fault Refusal :=
  s.onWave fun w =>
    match s.cohortOf w.uid with
    | none => s.takeTrap w cohortTrap
    | some co =>
      if s.releaseStalls w.core 2 then s.stall w
      else (((s.releaseNow w.core 2).putWave ((w.seal s.dtime).advance 2 c .C))).cohortLeave co w.uid

/-! ### Arriving and waiting (R327 to R329, R338, R339) -/

/-- The group that a barrier form names; a die's names are separate between partitions. -/
def Wave.groupKey (w : Wave) (lvl name : Nat) : GroupKey :=
  { cx := w.cx, level := lvl, name := name,
    place := if lvl = 1 then coreCluster w.core else if lvl = 2 then 4 * w.part + coreDie w.core else w.part }

def State.group (s : State) (key : GroupKey) : Group :=
  (s.groups.find? (fun g => g.key == key)).getD { key := key, gen := 0, count := 0, expct := 0 }

def State.putGroup (s : State) (g : Group) : State :=
  { s with groups := s.groups.filter (fun x => x.key != g.key) ++ [g] }

/-- The group that a wave's barrier form names, with its generation: at level 0 its cohort, if it is a member. -/
def State.barrier (s : State) (w : Wave) (lvl name : Nat) : Option (GroupKey × Word) :=
  if lvl = 0 then (s.cohortOf w.uid).map (fun c => (c.key, c.gen))
  else some (w.groupKey lvl name, (s.group (w.groupKey lvl name)).gen)

/-- The generation of a group now. -/
def State.genOf (s : State) (key : GroupKey) : Word :=
  if key.level = 0 then ((s.cohorts.find? (fun c => c.key == key)).map (·.gen)).getD 0 else (s.group key).gen

/-- Arrive() of R338: none where the count breaks R328. -/
def State.arrive (s : State) (w : Wave) (key : GroupKey) (count : Nat) : Option State :=
  let s := s.releaseNow w.core (levelScope key.level)
  if key.level = 0 then (s.cohortOf w.uid).map (fun c => s.cohortArrive c w.uid)
  else
    let g := s.group key
    if count = 0 ∨ (g.count ≠ 0 ∧ g.expct ≠ count) then none
    else if g.count + 1 = count then some ((s.putGroup { g with gen := g.gen + 1, count := 0, expct := 0 }).wakeGroup key)
    else some (s.putGroup { g with count := g.count + 1, expct := count })

/-- The wait for generation g: it goes on with an acquire, or parks. -/
def State.waitGen (s : State) (uid : Nat) (key : GroupKey) (g : Word) (c : Bool) : State :=
  match s.wave? uid with
  | none => s
  | some w =>
    if s.genOf key ≠ g then (s.invalidate w.core (levelScope key.level)).putWave (w.advance 2 c .C)
    else s.park w (.group key) 2 c .C

/-- An arrival at a barrier (R338): the wave seals, d (if any) receives the generation, and the wave waits or goes on. -/
def State.barrierArrive (s : State) (w : Wave) (lvl name count : Nat) (d : Option R8) (wait c : Bool) : State :=
  match s.barrier w lvl name with
  | none => s.takeTrap w cohortTrap
  | some (key, g) =>
    if s.releaseStalls w.core (levelScope lvl) then s.stall w
    else
    match s.arrive w key count with
    | none => s.takeTrap w cohortTrap
    | some s' =>
      let s' := s'.modWave w.uid (fun w => match d with | some r => (w.seal s.dtime).setS r.toNat g | none => w.seal s.dtime)
      if wait then s'.waitGen w.uid key g c else s'.advanceWave w.uid 2 c .C

def execBarr (c : Bool) (d a : R8) (lvl : BitVec 2) (name : BitVec 6) (s : State) : Host.Outcome State Fault Refusal :=
  s.onWave fun w => s.barrierArrive w lvl.toNat name.toNat (w.rs a.toNat).toNat (some d) false c

def execBarrw (c : Bool) (d a : R8) (lvl : BitVec 2) (name : BitVec 6) (s : State) : Host.Outcome State Fault Refusal :=
  s.onWave fun w => s.barrierArrive w lvl.toNat name.toNat (w.rs a.toNat).toNat (some d) true c

def execBarOld (c : Bool) (name : BitVec 6) (count : Half) (s : State) : Host.Outcome State Fault Refusal :=
  s.onWave fun w => s.barrierArrive w 1 name.toNat count.toNat none true c

def execBwait (c : Bool) (a : R8) (lvl : BitVec 2) (name : BitVec 6) (s : State) : Host.Outcome State Fault Refusal :=
  s.onWave fun w =>
    match s.barrier w lvl.toNat name.toNat with
    | none => s.takeTrap w cohortTrap
    | some (key, _) => s.waitGen w.uid key (w.rs a.toNat) c

/-! ### Barrier words (R330 to R332, R340) -/

/-- BARRIER_CLOBBER of a barrier form. -/
def clobber (a : Nat) : Trap := { cause := 0x0B, addr := BitVec.ofNat 64 a }

/-- The key of the barrier word at a scratchpad address, or the trap of one that R237 or its alignment refuses. -/
def State.barrierWord (s : State) (w : Wave) (a : Nat) : Trap ⊕ Nat :=
  match s.spadLanes w [(0, a)] 8 with
  | .inl t => .inl t.whole
  | .inr ks => .inr ((ks.head?.map (fun e => e.2.2)).getD 0)

def State.setLive (s : State) (key : Nat) (b : Bool) : State := { s with tags := kvPut false s.tags (key / 8) b }

/-- Every wave parked on a barrier word wakes with a status. -/
def State.wakeWord (s : State) (key status : Nat) : State :=
  { s with waves := s.waves.map (fun (w : Wave) =>
      match w.life with
      | .parked (.word k d) => if k = key then (w.setS d (BitVec.ofNat 32 status)).woken else w
      | _ => w) }

/-- The tags of n bytes from a key go, and the waiters of those words wake with status 1 (R332). -/
def State.freeWords (s : State) (key n : Nat) : State :=
  ((wordsTouched key n).filter (fun x => kvGet false s.tags x)).foldl (fun s x => (s.setLive (8 * x) false).wakeWord (8 * x) 1) s

/-- A barrier word with FLAGS, GEN, EXPECTED and COUNT (R330). -/
def State.wordAt (s : State) (key : Nat) : Nat := leNat (s.spadBytes key 8)

def execBinit (c : Bool) (a : R8) (expected : Half) (s : State) : Host.Outcome State Fault Refusal :=
  s.onWave fun w =>
    match s.barrierWord w (w.rs a.toNat).toNat with
    | .inl t => s.takeTrap w t
    | .inr key =>
      if s.live key then s.takeTrap w (clobber (w.rs a.toNat).toNat)
      else ((s.spadPut key (toBytes 8 (expected.toNat * 2 ^ 16))).setLive key true).putWave ((w.seal s.dtime).advance 2 c .C)

def execBfree (c : Bool) (a : R8) (s : State) : Host.Outcome State Fault Refusal :=
  s.onWave fun w =>
    match s.barrierWord w (w.rs a.toNat).toNat with
    | .inl t => s.takeTrap w t
    | .inr key => ((s.freeWords key 8).sealWave w.uid).advanceWave w.uid 2 c .C

/-- The word after one arrival, and whether its generation completed. -/
def wordArrive (v : Nat) : Nat × Bool :=
  let gen := bitsOf v 47 32; let expd := bitsOf v 31 16; let count := bitsOf v 15 0
  if (count + 1) % 2 ^ 16 = expd then (bitsOf v 63 48 * 2 ^ 48 + (gen + 1) % 2 ^ 16 * 2 ^ 32 + expd * 2 ^ 16, true)
  else (bitsOf v 63 48 * 2 ^ 48 + gen * 2 ^ 32 + expd * 2 ^ 16 + (count + 1) % 2 ^ 16, false)

def execSarr (c : Bool) (d a : R8) (s : State) : Host.Outcome State Fault Refusal :=
  s.onWave fun w =>
    match s.barrierWord w (w.rs a.toNat).toNat with
    | .inl t => s.takeTrap w t
    | .inr key =>
      if s.live key then
        let v := s.wordAt key
        let s' := s.spadPut key (toBytes 8 (wordArrive v).1)
        let s' := if (wordArrive v).2 then s'.wakeWord key 0 else s'
        (s'.modWave w.uid (fun w => (w.seal s.dtime).setS d.toNat (BitVec.ofNat 32 (bitsOf v 47 32)))).advanceWave w.uid 2 c .C
      else s.takeTrap w (clobber (w.rs a.toNat).toNat)

def execSwait (c : Bool) (d a sb : R8) (s : State) : Host.Outcome State Fault Refusal :=
  s.onWave fun w =>
    match s.barrierWord w (w.rs a.toNat).toNat with
    | .inl t => s.takeTrap w t
    | .inr key =>
      if s.live key then
        if bitsOf (s.wordAt key) 47 32 ≠ (w.rs sb.toNat).toNat % 2 ^ 16 then s.putWave ((w.setS d.toNat 0).advance 2 c .C)
        else s.park w (.word key d.toNat) 2 c .C
      else s.takeTrap w (clobber (w.rs a.toNat).toNat)

/-! ### Semaphores (R333, R341) -/

/-- The amount of a semaphore form. -/
def Wave.amount (w : Wave) (a : R8) (i : Bool) (amount : Half) : Word := if i then amount.zeroExtend 32 else w.rs a.toNat

def execSemacq (c : Bool) (d a : R8) (n : BitVec 6) (i : Bool) (amount : Half) (s : State) : Host.Outcome State Fault Refusal :=
  s.onWave fun w =>
    if w.foot.sema ≤ n.toNat then s.takeTrap w illegalEncoding
    else
      let key := w.semKey n.toNat; let x := w.amount a i amount
      let w := w.seal s.dtime
      if s.semWaiters w.core w.cx key = [] ∧ x ≤ s.sem key then
        (s.putSem key (s.sem key - x)).putWave ((w.setS d.toNat (s.sem key)).advance 2 c .C)
      else s.park w (.sem key x d.toNat) 2 c .C

/-- An addition to a semaphore by a wave, which seals and goes on. -/
def State.semAddBy (s : State) (w : Wave) (key : Nat) (x : Word) (c : Bool) : State :=
  (s.putWave ((w.seal s.dtime).advance 2 c .C)).semAdd w.core w.cx key (· + x)

def execSemadd (c : Bool) (a : R8) (n : BitVec 6) (i : Bool) (amount : Half) (s : State) : Host.Outcome State Fault Refusal :=
  s.onWave fun w =>
    if w.foot.sema ≤ n.toNat then s.takeTrap w illegalEncoding
    else s.semAddBy w (w.semKey n.toNat) (w.amount a i amount) c

def execSemaddW (c : Bool) (d a : R8) (n : BitVec 6) (i : Bool) (amount : Half) (s : State) : Host.Outcome State Fault Refusal :=
  s.onWave fun w =>
    match s.waves.find? (fun x => x.core == w.core && x.cx == w.cx && x.slot == (w.rs d.toNat).toNat % 128 && x.life != .preempted &&
      x.life != .restoring) with
    | some x =>
      if x.launch = w.launch ∧ n.toNat < x.foot.sema then s.semAddBy w (x.semKey n.toNat) (w.amount a i amount) c
      else s.takeTrap w { cause := 0x0A }
    | none => s.takeTrap w { cause := 0x0A }

end Sys2Proof.Machine
end

