-- ==== Sys2Proof/Machine/Estates.lean ====
section
/-! DEFINITION. Estates (R84 to R108, R421): domains, blocks and where their registers lie, the directory, the Orchard and
the residue buffer, takes and claims, `will`, `claim` and `eprobe` (R394 to R397), folding, eviction and closing. -/

namespace Sys2Proof.Machine

/-! ### Domains and blocks -/

/-- An event that is not yet due becomes due. -/
def State.dueOnce (s : State) (i : Instr) (inp : Input) : State :=
  if s.agenda.contains (.ev i inp) then s else s.due i inp

def domKey (part dom : Nat) : Nat := part * 4096 + dom
def State.domain (s : State) (part dom : Nat) : Domain := kvGet Domain.reset s.domains (domKey part dom)
def State.putDomain (s : State) (part dom : Nat) (d : Domain) : State :=
  { s with domains := kvPut Domain.reset s.domains (domKey part dom) d }

def State.block? (s : State) (id : Nat) : Option Block := s.blocks.find? (fun b => b.id == id)
def State.putBlock (s : State) (b : Block) : State := { s with blocks := s.blocks.map (fun x => if x.id = b.id then b else x) }

/-- Where a block's registers are: a MOVING block is still where it was. -/
def Block.place (b : Block) : Loc := if b.loc = .moving then b.held else b.loc

/-- The block holds a run of register-file blocks (R87). -/
def Block.hasRun (b : Block) : Bool := b.place == .resident || b.place == .live

/-- Register-file blocks of a run. -/
def Block.runLen (b : Block) : Nat := (b.e + 7) / 8

/-- The register-file row of estate register j of a run. -/
def Block.rowOf (b : Block) (j : Nat) : Nat := rowKey (192 * b.cx + b.core) (b.rfblk + j / 8) (j % 8)

/-- Estate register j of a block, by slot. -/
def State.blockReg (s : State) (b : Block) (j : Nat) : VReg :=
  match b.place with
  | .resident | .live => kvGet zeroV s.rf (b.rowOf j)
  | .orchard => wordsFrom 64 (memBytes s.mem (s.orchardPa b.part b.slot j) 256)
  | .residue => wordsFrom 64 (memBytes s.mem (s.residuePa b.part b.slot + 64 + 256 * j) 256)
  | _ => b.data.getD j zeroV

/-- The run of memory, address and length, that holds a block's registers (R101, R102). -/
def State.blockRun (s : State) (b : Block) : Option (Nat × Nat) :=
  match b.place with
  | .orchard => some (s.orchardPa b.part b.slot 0, 256 * b.e)
  | .residue => some (s.residuePa b.part b.slot, 64 + 256 * b.e)
  | _ => none

/-- The estate transfer unit reads a block's registers: lines of memory that hold them are checked (R249, R250). -/
def State.checkBlock (s : State) (b : Block) : State :=
  match s.blockRun b with
  | some r => (linesOf r.1 r.2).foldl State.checkLine s
  | none => s

/-- An engine owns a line of memory that holds the block's registers: to read them waits (R321). -/
def State.blockHeld (s : State) (b : Block) : Bool := (s.blockRun b).any (fun r => s.runHeld none r.1 r.2)

/-- An earlier engine owns a line of memory to which the block is on its way (R321). -/
def State.destHeld (s : State) (b : Block) : Bool := (s.blockDest b).any (fun r => s.runHeld (some b.since) r.1 r.2)

/-- A wave's affinity hold has ended: it is placed like any other (R65). -/
def Launch.release (l : Launch) (index : Nat) : Launch :=
  { l with holds := l.holds.filter (fun h => h.1 != index), released := l.released ++ [index] }

/-- The affinity holds that await a block end, since it stops being RESIDENT (R65), and a placement pass is due (R60): whether it
leaves its core, or is MOVING while another heir takes from it. DEDUCED (log 91). -/
def State.endHolds (s : State) (b : Block) : State :=
  if s.launches.any (fun l => l.holds.any (fun h => h.2.1 == b.id)) then
    { s with launches := s.launches.map (fun (l : Launch) =>
        (l.holds.filter (fun (h : Nat × Nat × DWord) => h.2.1 == b.id)).foldl (fun (l : Launch) (h : Nat × Nat × DWord) => l.release h.1) l) }.dueOnce .placementPass { part := b.part }
  else s

/-- A block sets off for memory: it is MOVING, and its lines there are owned (R107, R321). -/
def State.setOff (s : State) (b : Block) : State :=
  ({ s with nextOp := s.nextOp + 1 }.endHolds b).putBlock { b with loc := .moving, since := s.nextOp }

/-- The block of a group that its domain holds (R87), a FORMING one apart. -/
def State.groupBlock (s : State) (part dom group : Nat) : Option Block :=
  s.blocks.find? (fun b => b.inDir && b.part == part && b.dom == dom && b.group == group && b.loc != .forming)

/-- A block of the group, or one bound for it, is FORMING or MOVING (R93). -/
def State.groupBusy (s : State) (part dom group : Nat) : Bool :=
  s.blocks.any (fun b => b.inDir && b.part == part && b.dom == dom && b.group == group && (b.loc == .forming || b.loc == .moving))

/-- Another block of the block's group, or the block itself, is FORMING or MOVING: an operation on it waits (R93). -/
def State.busyFor (s : State) (b : Block) : Bool := b.loc == .forming || b.loc == .moving || (b.inDir && s.groupBusy b.part b.dom b.group)

/-- Where a block's entry goes in the directory (R91): to that of its group, or to a free place, which is left open. DESIGN CHOICE (log 41). -/
def State.dirPlace (s : State) (part dom group : Nat) : Nat :=
  let mine := s.blocks.filter (fun b => b.part == part && b.inDir)
  match mine.find? (fun b => b.dom == dom && b.group == group && dom < 4096) with
  | some b => b.dirIdx
  | none =>
    let size := (s.part part).dirSize.toNat
    let used := sortBy id (distinct ((mine.map (·.dirIdx)).filter (· < size)))
    used.foldl (fun k x => if x ≤ k then k + 1 else k) ((Config.freeWord s.draws).toNat % (size - used.length))

/-- Slots of a block that waves other than `uid` have claimed (R98). -/
def State.claimedBy (s : State) (id uid : Nat) : LaneMask :=
  ((s.waves.filter (fun w => w.uid != uid)).flatMap (·.claims)).foldl (fun m c => if c.1 = id then m ||| c.2 else m) 0

/-- A block leaves the partition: its run or its Orchard slot is free. -/
def State.freeBlock (s : State) (id : Nat) : State := { s with blocks := s.blocks.filter (fun b => b.id != id) }

/-- The end of a residue record, in bytes as RESWIDX counts (R92): its place begins with any PAD. -/
def State.recordEnd (s : State) (b : Block) : Nat :=
  match b.route with
  | .residue start _ =>
    let size := (s.part b.part).resSize.toNat; let len := 64 + 256 * b.e
    start + (if start % size + len > size then size - start % size else 0) + len
  | _ => 0

/-- The directory drops the entries of records that RESRIDX has passed, one whose group is busy once it no longer is (R92, R93). -/
def State.dropPassed (s : State) (part : Nat) : State :=
  (s.blocks.filter (fun b => b.part == part && b.loc == .residue && decide (s.recordEnd b ≤ (s.part part).resRidx.toNat) &&
    !s.busyFor b)).foldl (fun s b => s.freeBlock b.id) s

/-- The operations on the partition's groups that wait (R93), in the order in which their homes received them: takes of BORN waves,
claims, and the ends of FORMING. -/
def State.waitingTakes (s : State) (part : Nat) : List (Instr × Input) :=
  let takes := (s.waves.filter (fun w => w.part == part && w.life == .born)).map (fun w => (w.ticket, Instr.estateTake, ({ uid := w.uid } : Input)))
  let ends := (s.waves.filter (fun w => w.part == part && w.life == .exiting)).map (fun w => (w.ticket, Instr.waveRetire, ({ uid := w.uid } : Input)))
  let claims := (s.ops.filter (fun o => o.part == part && (match o.kind with | .claim .. => true | _ => false))).map
    (fun o => (o.id, Instr.asyncWriteLands, ({ op := o.id, core := 192 * o.cx + o.core } : Input)))
  (sortBy Prod.fst (takes ++ ends ++ claims)).map Prod.snd

/-- Everything that a change of the partition's blocks may let go on. -/
def State.stirEstates (s : State) (part : Nat) : State :=
  let s := s.dropPassed part
  let evs : List (Instr × Input) := s.waitingTakes part ++
    ((s.blocks.filter (fun b => b.part == part && b.loc == .moving)).map (fun b => (Instr.estateEvictDone, { idx := b.id }))) ++
    (if s.places.any (fun p => p.part == part) then [(Instr.residueRecordWritten, { part := part })] else []) ++
    ((s.domains.filter (fun d => d.1 / 4096 == part && (match d.2.state with | .closing _ => true | _ => false))).map
      (fun d => (Instr.estateCloseStep, { part := part, dom := d.1 % 4096 }))) ++
    ((distinct ((s.cards.filter (fun e => e.2.part == part)).map Prod.fst)).map (fun cc => (Instr.taskCardBirth, { core := cc }))) ++
    [(Instr.placementPass, { part := part })]
  evs.foldl (fun s e => s.dueOnce e.1 e.2) s

/-- PRESENT of a residue record as its directory entry has it; CONSUMED when nothing is left (R102). -/
def State.rewriteRecord (s : State) (b : Block) : State :=
  let pa := s.residuePa b.part b.slot
  let s := s.homeRun pa (toBytes 8 b.present.toNat)
  if b.present = 0 then
    let (s, x) := s.homeLoad (pa + 17) 1
    s.homeRun (pa + 17) [(x.headD 0) ||| 0x80]
  else s

/-- Slots of a block are consumed (R96, R98, R102). -/
def State.consumeSlots (s : State) (id : Nat) (slots : LaneMask) : State :=
  match s.block? id with
  | none => s
  | some b =>
    let b := { b with present := b.present &&& ~~~slots }
    let s := if b.place = .residue then s.rewriteRecord b else s
    (if b.present = 0 ∧ b.taker = none then s.freeBlock id else s.putBlock b).stirEstates b.part

/-- The wave's claims become consumption (R98). -/
def State.consumeClaims (s : State) (uid : Nat) : State :=
  match s.wave? uid with
  | none => s
  | some w => (w.claims.foldl (fun s c => s.consumeSlots c.1 c.2) s).modWave uid (fun w => { w with claims := [] })

/-! ### The directory, the Orchard, the residue buffer -/

/-- Directory entries in use (R91): one for each group of a domain, one for each LIVE block, and those reserved (R105). -/
def State.dirUsed (s : State) (part : Nat) : Nat :=
  (distinct ((s.blocks.filter (fun b => b.part == part && b.inDir && b.dom < 4096)).map (fun b => b.dom * 2 ^ 34 + b.group))).length +
  (s.blocks.filter (fun b => b.part == part && b.dom == 4096)).length +
  (s.waves.filter (fun w => w.part == part && w.chosen && w.foot.ewin != 0)).length

def State.dirFree (s : State) (part : Nat) : Bool := s.dirUsed part < (s.part part).dirSize.toNat

def State.orchardUsed (s : State) (part : Nat) : List Nat :=
  (s.blocks.filter (fun b => b.part == part)).flatMap (fun b =>
    (if b.place = .orchard then [b.slot] else []) ++
    (match b.route with | .orchard k => (if b.loc = .forming ∨ b.loc = .moving then [k] else []) | _ => []))

/-- The n-th number below `size`, modulo how many there are, that is not in `used`: the used numbers are stepped over. -/
def nthFree (size n : Nat) (used : List Nat) : Option Nat :=
  let u := sortBy id (distinct (used.filter (· < size)))
  if size ≤ u.length then none else some (u.foldl (fun k x => if x ≤ k then k + 1 else k) (n % (size - u.length)))

/-- A free Orchard slot: which of them is left open (R101), a free value. -/
def State.orchardSlot (s : State) (part : Nat) : Option Nat :=
  nthFree (s.part part).orchSlots.toNat (Config.freeWord s.draws).toNat (s.orchardUsed part)

/-- A residue place of L bytes (R421), when the free residue space of R92 holds it: its start. -/
def State.givePlace (s : State) (part len : Nat) : Option (State × Nat) :=
  let p := s.part part
  let size := p.resSize.toNat; let start := p.resVidx.toNat
  let pad := padFor size start len
  if size = 0 ∨ size < pad + len + (start - p.resRidx.toNat) then none
  else
    some ({ s.putPart part { p with resVidx := p.resVidx + BitVec.ofNat 64 (pad + len) } with
      places := s.places ++ [{ part := part, start := start, pad := pad, len := len, written := false }] }, start)

/-- A PAD record of n bytes (R102): its header. -/
def padHeader (n : Nat) : List Byte := toBytes 64 (2 * 2 ^ 128 + n / 64 * 2 ^ 160)

/-- The header of a BLOCK record (R102). -/
def blockHeader (b : Block) (reason : Nat) : List Byte :=
  toBytes 64 (b.present.toNat + b.group * 2 ^ 64 + b.dom * 2 ^ 98 + b.e * 2 ^ 112 + 2 ^ 128 + reason * 2 ^ 136 +
    (1 + 4 * b.e) * 2 ^ 160 + (b.btime.toNat % 2 ^ 40) * 2 ^ 192)

/-- The bytes of a block's record: data of absent slots reads zero. -/
def State.recordBytes (s : State) (b : Block) (reason : Nat) : List Byte :=
  blockHeader b reason ++ (List.range b.e).flatMap (fun j => bytesFrom (mergeV zeroV b.present (laneOf (s.blockReg b j))))

/-- The block that a place waits for. -/
def State.placeBlock (s : State) (p : Place) : Option Block :=
  s.blocks.find? (fun b => b.part == p.part && (b.loc == .forming || b.loc == .moving) &&
    (match b.route with | .residue st _ => st == p.start | _ => false))

/-- A place can be written now: its block has left FORMING and every write to it has landed, or the place lost its block. -/
def State.placeReady (s : State) (p : Place) : Bool :=
  !p.written && (match s.placeBlock p with | none => true | some b => b.loc == .moving && b.pend.isEmpty)

/-- The estate transfer unit has written its lines: what waited for them goes on (R321, R379). -/
def State.estateWrote (s : State) (part : Nat) : State :=
  let s := ((List.range 65).filter (fun f => (s.func f).busy)).foldl (fun (s : State) f => s.dueOnce .dptinvBusyClear { fn := f }) s.stirWaiting
  s.stirEstates part

/-- Poisoned lines of an Orchard slot make the record's lines that receive from them poisoned (R102, R251). -/
def State.carryPoison (s : State) (b : Block) (pa : Nat) : State :=
  if b.place = .orchard then
    ((List.range (2 * b.e)).filter (fun i => s.poisoned ((s.orchardPa b.part b.slot 0 + 128 * i) / 128))).foldl
      (fun s i => (linesOf (pa + 64 + 128 * i) 128).foldl State.setPoison s) s
  else s

/-- A place is written whole, PAD first (R421). -/
def State.writePlace (s : State) (p : Place) : State :=
  let part := s.part p.part
  let size := part.resSize.toNat; let base := part.resBase.toNat
  let at_ := (p.start + p.pad) % size
  let s := if p.pad = 0 then s else s.homeRun (base + p.start % size) (padHeader p.pad)
  match s.placeBlock p with
  | none => s.homeRun (base + at_) (padHeader p.len)
  | some b =>
    let reason := match b.route with | .residue _ r => r | _ => 0
    let s := s.checkBlock b
    let s := s.homeRun (base + at_) (s.recordBytes b reason) |>.carryPoison b (base + at_)
    if b.inDir then s.putBlock { b with loc := .residue, slot := at_ / 64, data := [] } else s.freeBlock b.id

/-- Engines leave the unit the lines of a place (R321): earlier ones, where a block is to be written there. -/
def State.placeFree (s : State) (p : Place) : Bool :=
  match s.placeBlock p with
  | some b => !s.destHeld b && !s.blockHeld b
  | none => !s.runHeld none ((s.part p.part).resBase.toNat + (p.start + p.pad) % (s.part p.part).resSize.toNat) 64

/-- RESWIDX passes the leading written places. -/
def advancePlaces (part : Nat) : Nat → List Place → Nat × List Place
  | w, [] => (w, [])
  | w, p :: r =>
    if p.part = part then (if p.written then advancePlaces part (w + p.pad + p.len) r else (w, p :: r))
    else let (w, r) := advancePlaces part w r; (w, p :: r)

/-- One place of the partition is written, the earliest that can be, and RESWIDX advances (R421). -/
def execResidueRecordWritten (s : State) : Host.Outcome State Fault Refusal :=
  .next (
    let n := s.input.part
    match s.places.find? (fun p => p.part == n && s.placeReady p && s.placeFree p) with
    | none => s
    | some p =>
      let s := s.writePlace p
      let s := { s with places := s.places.map (fun x => if x = p then { x with written := true } else x) }
      let (w, rest) := advancePlaces n (s.part n).resWidx.toNat s.places
      let s := { s with places := rest }
      (s.putPart n { s.part n with resWidx := BitVec.ofNat 64 w }).estateWrote n)

/-! ### Captured writes (R88, R97) -/

/-- A register with the slots that lanes fill replaced by what the lanes bring. -/
def slotMerge (old : VReg) (slots : List (Option Nat)) (lanes : LaneMask) (v : VReg) : VReg :=
  (lanesOf lanes).foldl (fun acc l => match slots.getD l none with | some k => acc.set k (laneOf v l) | none => acc) old

/-- A landing vector write reaches what captured it: FORMING blocks, runs of RESIDENT blocks, and runs adopted in place. -/
def State.landCaptured (s : State) (o : Op) (n : Nat) (lanes : LaneMask) (v : VReg) : State :=
  let s := s.blocks.foldl (fun s b =>
    (b.pend.filter (fun d => d.op == o.id && d.reg == n)).foldl (fun (s : State) d =>
      if b.hasRun then { s with rf := kvPut zeroV s.rf (b.rowOf d.row) (slotMerge (s.blockReg b d.row) d.slots lanes v) }
      else
        match s.block? b.id with
        | some x => s.putBlock { x with data := x.data.set d.row (slotMerge (x.data.getD d.row zeroV) d.slots lanes v) }
        | none => s) s) s
  (o.moved.filter (fun d => d.reg == n)).foldl (fun (s : State) d =>
    { s with rf := kvPut zeroV s.rf d.row (slotMerge (kvGet zeroV s.rf d.row) d.slots lanes v) }) s

/-- A write of an operation lands: in the wave's register, unless dropped, and in whatever captured it. -/
def State.landOp (s : State) (o : Op) (x : RegWrite) : State :=
  let s := if o.dropped then s else s.land o.uid x
  match x with
  | .v n lanes v => s.landCaptured o n lanes v
  | _ => s

/-! ### will (R85, R86, R88, R395) -/

/-- The key of an operand register pair in a lane (R394). -/
def keyOf (lo hi : VReg) (l : Nat) : Nat := (laneOf hi l).toNat % 256 * 2 ^ 32 + (laneOf lo l).toNat

def estateKey : Trap := { cause := 0x0E }
def estateOverflow : Trap := { cause := 0x0F }

/-- Distinct keys in one group (R86). -/
def keysOk (keys : List (Nat × Nat)) : Bool :=
  (distinct (keys.map (fun e => e.2 / 64))).length == 1 && (distinct (keys.map Prod.snd)).length == keys.length

/-- The route that R88 chooses, with its space reserved; none is ESTATE_OVERFLOW. -/
def State.chooseRoute (s : State) (w : Wave) (dom group : Nat) : Option (State × Route × Bool) :=
  let e := w.desc.nbeq; let n := (e + 7) / 8; let len := 64 + 256 * e
  let has := s.blocks.any (fun b => b.inDir && b.part == w.part && b.dom == dom && b.group == group) || s.dirFree w.part
  if !has then (s.givePlace w.part len).map (fun x => (x.1, Route.residue x.2 5, false))
  else
    match s.orchardSlot w.part with
    | some k => if n ≤ w.foot.wwin ∨ n ≤ w.foot.ewin then some (s, .resident, true)
        else some ({ s with draws := s.draws + 1 }, .orchard k, true)
    | none => (s.givePlace w.part len).map (fun x => (x.1, Route.residue x.2 4, true))

/-- The slots of a bequest, by lane. -/
def slotsOf (keys : List (Nat × Nat)) : List (Option Nat) := allLanes.map (fun l => (keys.find? (fun e => e.1 == l)).map (fun e => e.2 % 64))

/-- The FORMING block of a bequest: the values as they stand, and the writes still to land (R88), those that an adopted run brought
along among them (R97). -/
def State.formBlock (s : State) (w : Wave) (dom group : Nat) (keys : List (Nat × Nat)) (route : Route) (inDir : Bool) : Block :=
  let slots := slotsOf keys
  let lanes := maskOf (keys.map Prod.fst)
  let regs := w.desc.beqlist.take w.desc.nbeq
  let own (o : Op) : List Landing := if o.uid != w.uid || o.dropped then []
    else (regs.zipIdx.filter (fun e => o.pending.contains (.v e.1))).map (fun e => { op := o.id, reg := e.1, row := e.2, slots := slots })
  let brought (o : Op) : List Landing := regs.zipIdx.flatMap (fun e => (o.moved.filter (fun d => s.vloc w e.1 == .row d.row)).map (fun d =>
    { op := o.id, reg := d.reg, row := e.2, slots := d.slots.map (fun k => k.bind (fun x => slots.getD x none)) }))
  { id := s.nextBlock, part := w.part, cx := w.cx, dom := dom, group := group, e := w.desc.nbeq,
    present := maskOf (keys.map (fun e => e.2 % 64)), loc := .forming, held := .forming, route := route, btime := s.dtime,
    core := w.core, rfblk := 0, slot := 0, waveIdx := 0, uid := w.uid, inDir := inDir,
    data := regs.map (fun r => slotMerge zeroV slots lanes (s.readV w r)),
    pend := s.ops.flatMap (fun o => own o ++ brought o), dirIdx := s.dirPlace w.part dom group, taker := none, since := 0 }

/-- `will` (R395): the keys, then the route with its space, then the values (R88); one that traps has no effect. DEDUCED (log 40). -/
def execWill (c : Bool) (p : A2) (s : State) : Host.Outcome State Fault Refusal :=
  s.onWave fun w =>
    match if w.child then none else (s.launch? w.launch).bind (·.eout) with
    | none => s.takeTrap w estateKey
    | some dom =>
      if w.desc.nbeq = 0 then s.advanceWave w.uid 2 c .A
      else if w.didWill then s.takeTrap w estateKey
      else
        let act := w.active (p.fl.toNat / 2)
        let done (s : State) : State := (s.modWave w.uid (fun x => { x.seal s.dtime with didWill := true })).advanceWave w.uid 2 c .A
        if act = 0 then done s
        else
          let byKey := p.fl.getLsbD 0
          let src := if byKey then [p.aa.toNat, p.aa.toNat + 1] else []
          let regs := w.desc.beqlist.take w.desc.nbeq
          match s.spillTrap w src [] with
          | some t => s.takeTrap w t
          | none =>
            let keys := (lanesOf act).map (fun l =>
              (l, if byKey then keyOf (s.readV w p.aa.toNat) (s.readV w (p.aa.toNat + 1)) l else (64 * w.index + l) % 2 ^ 40))
            if !keysOk keys then s.takeTrap w estateKey
            else
              let group := (keys.head?.map (fun e => e.2 / 64)).getD 0
              match s.chooseRoute w dom group with
              | none => s.takeTrap w estateOverflow
              | some (reserved, route, inDir) =>
                match s.spillTrap w regs [] with
                | some t => s.takeTrap w t
                | none =>
                  let s := reserved.spillRead w (distinct (src ++ regs))
                  let b := s.formBlock w dom group keys route inDir
                  done { s with blocks := s.blocks ++ [b], nextBlock := s.nextBlock + 1, draws := s.draws + 1 }

/-! ### claim and eprobe (R98, R396, R397) -/

/-- `claim`: an operation that takes the slots when it lands. -/
def execClaim (c : Bool) (p : A2) (s : State) : Host.Outcome State Fault Refusal :=
  s.onWave fun w =>
    let n := p.ac.toNat
    match s.spillTrap w [p.aa.toNat, p.aa.toNat + 1] (runFrom p.ab.toNat n) with
    | some t => s.takeTrap w t
    | none =>
      let keys := (lanesOf w.exec).map (fun l => (l, keyOf (s.readV w p.aa.toNat) (s.readV w (p.aa.toNat + 1)) l))
      ((s.spillRead w [p.aa.toNat, p.aa.toNat + 1]).issueOp w (some .LD) true (.claim p.ab.toNat n (p.fl.toNat / 2) keys []) .none []).advanceWave w.uid 2 c .A

/-- The estate-in domain that a claim of the wave reaches, while it is open. -/
def State.claimDomain (s : State) (w : Wave) : Option Nat :=
  if w.child then none
  else ((s.launch? w.launch).bind (·.ein)).filter (fun d => (s.domain w.part d).state == .open)

/-- The domain from which a BORN wave of a launch takes. -/
def State.heirDomain (s : State) (w : Wave) : Nat := ((s.launch? w.launch).bind (·.ein)).getD 4095

/-- A take of the active context that its home received before number `t` still waits for the group (R93). -/
def State.takeBefore (s : State) (part dom group t : Nat) : Bool :=
  let cx := (s.part part).active
  s.waves.any (fun w => w.part == part && w.cx == cx && w.life == .born && decide (w.ticket < t) && w.takes.contains group && s.heirDomain w == dom) ||
  s.ops.any (fun o => o.part == part && o.cx == cx && !o.dropped && decide (o.id < t) && (match o.kind, s.wave? o.uid with
    | .claim _ _ _ keys _, some w => s.claimDomain w == some dom && keys.any (fun e => e.2 / 64 == group)
    | _, _ => false))

/-- A take from a group waits (R93, R97, R321): a block is FORMING or MOVING, has pending writes, or lies where an engine writes, or an
earlier take waits. -/
def State.takeWaits (s : State) (part dom group t : Nat) : Bool :=
  s.groupBusy part dom group || (match s.groupBlock part dom group with | some b => !b.pend.isEmpty || s.blockHeld b | none => false) ||
  s.takeBefore part dom group t

/-- The takes of a claim, operation `id`, from the groups of keys wait (R93): from one of them. -/
def State.claimWaits (s : State) (w : Wave) (id : Nat) (keys : List (Nat × Nat)) : Bool :=
  match s.claimDomain w with
  | none => false
  | some d => keys.any (fun e => s.takeWaits w.part d (e.2 / 64) id)

/-- The block that holds a key for a wave: its slot is present and no other wave has claimed it. -/
def State.holds (s : State) (w : Wave) (d key : Nat) : Option Block :=
  (s.groupBlock w.part d (key / 64)).filter (fun b => b.present.getLsbD (key % 64) && !(s.claimedBy b.id w.uid).getLsbD (key % 64))

/-- What a lane of a claim receives from the block that holds its key: n words. -/
def State.claimWords (s : State) (n key : Nat) (b : Option Block) : List Word :=
  (List.range n).map (fun j => match b with | some b => if j < b.e then laneOf (s.blockReg b j) (key % 64) else 0 | none => 0)

/-- The take of a claim from one group, applied at its home (R93): what its lanes receive, and the slots marked as claimed in a domain
without KEEP. -/
def State.claimTake (s : State) (w : Wave) (n : Nat) (keys : List (Nat × Nat)) : State × List (Nat × Bool × List Word) :=
  let found (key : Nat) : Option Block := (s.claimDomain w).bind (fun dom => s.holds w dom key)
  let s1 := ((keys.filterMap (fun e => found e.2)).eraseDups).foldl State.checkBlock s
  let got := keys.map (fun e => (e.1, (found e.2).isSome, s1.claimWords n e.2 (found e.2)))
  let keep := match s.claimDomain w with | some dom => (s.domain w.part dom).keep | none => true
  let marks := if keep then [] else keys.filterMap (fun e => (found e.2).map (fun b => (b.id, (1 : LaneMask) <<< (e.2 % 64))))
  (s1.modWave w.uid (fun w => { w with claims := w.claims ++ marks }), got)

/-- The takes of a claim, operation `id`, that do not wait, group by group: the device, the keys left, and what lanes have received. -/
def State.claimTakes (s : State) (w : Wave) (id n : Nat) (keys : List (Nat × Nat)) (got : List (Nat × Bool × List Word)) :
    List Nat → State × List (Nat × Nat) × List (Nat × Bool × List Word)
  | [] => (s, keys, got)
  | g :: r =>
    let mine := keys.filter (fun e => e.2 / 64 == g)
    if s.claimWaits w id mine then s.claimTakes w id n keys got r
    else
      let (s, x) := s.claimTake w n mine
      s.claimTakes w id n (keys.filter (fun e => e.2 / 64 != g)) (got ++ x) r

/-- The register writes of a claim all of whose takes are done (R396). -/
def claimWrites (d n kd : Nat) (got : List (Nat × Bool × List Word)) : List RegWrite :=
  let lanes := maskOf (got.map Prod.fst)
  (List.range n).map (fun j => .v (d + j) lanes (allLanes.map (fun l => ((got.find? (fun e => e.1 == l)).map (fun e => e.2.2.getD j 0)).getD 0))) ++
    [.k kd lanes (maskOf ((got.filter (fun e => e.2.1)).map Prod.fst))]

/-- The code of LOC (R91). -/
def Loc.code : Loc → Nat
  | .forming => 1 | .resident => 2 | .moving => 3 | .orchard => 4 | .residue => 5 | .live => 6

/-- The directory entry of a block (R91): DOMAIN is zero for LIVE. -/
def Block.entry (b : Block) : Nat :=
  b.present.toNat + b.group * 2 ^ 64 + b.dom % 4096 * 2 ^ 98 + b.e * 2 ^ 112 + b.loc.code * 2 ^ 118 + (if b.pend.isEmpty then 0 else 2 ^ 121) +
  (if b.loc = .forming ∨ b.loc = .resident ∨ b.loc = .live then b.core * 2 ^ 128 else 0) +
  (if b.loc = .resident ∨ b.loc = .live then b.rfblk * 2 ^ 136 else 0) +
  (if b.loc = .orchard ∨ b.loc = .residue then b.slot * 2 ^ 160 else 0) + (b.btime.toNat % 2 ^ 40) * 2 ^ 192 +
  (if b.loc = .live then b.waveIdx * 2 ^ 232 else 0)

/-- The entry of a group, 0 for an absent one: a FORMING block shows only where the group holds no other. -/
def State.probe (s : State) (part dom group : Nat) : Nat :=
  match s.groupBlock part dom group with
  | some b => b.entry
  | none =>
    match s.blocks.find? (fun b => b.inDir && b.part == part && b.dom == dom && b.group == group) with
    | some b => b.entry
    | none => 0

/-- The dies' caches of the directory are written back to it (R106): the entries in use, and zeros over those given up. -/
def State.writeDirectory (s : State) (part : Nat) : State :=
  let mine := s.blocks.filter (fun b => b.part == part && b.inDir)
  let idxs := distinct (mine.map (·.dirIdx))
  let entry (i : Nat) : Nat :=
    match mine.find? (fun b => b.dirIdx == i && b.loc != .forming), mine.find? (fun b => b.dirIdx == i) with
    | some b, _ => b.entry
    | none, some b => b.entry
    | none, none => 0
  let p := s.part part
  let s := (idxs ++ p.dirKept.filter (fun i => !idxs.contains i)).foldl
    (fun (s : State) i => s.homeRun (p.dirBase.toNat + 32 * i) (toBytes 32 (entry i))) s
  s.putPart part { s.part part with dirKept := idxs }

def execEprobe (c : Bool) (p : A2) (s : State) : Host.Outcome State Fault Refusal :=
  s.onWave fun w =>
    let group := (w.pair p.ab.toNat).toNat % 2 ^ 34
    let dom := (w.rs p.ac.toNat).toNat % 4096
    let ws := wordsFrom 8 (toBytes 32 (s.probe w.part dom group))
    (s.issueOp w (some .LD) true (.regs (scalarWrites p.aa.toNat ws)) .none []).advanceWave w.uid 2 c .A

/-! ### Births of heirs (R93 to R97) -/

/-- The lanes of a birth whose keys lie in a group, with their slots. -/
def Wave.groupLanes (w : Wave) (group : Nat) : List (Nat × Nat) :=
  (lanesOf w.exec).filterMap (fun l => (w.keys.getD l none).bind (fun k => if k / 64 = group then some (l, k % 64) else none))

/-- One take of a heir, applied at its home (R93, R95, R96): the values wait to be moved, k1 and the block change. A block whose values
move is MOVING until they have (R107). -/
def State.applyTake (s : State) (w : Wave) (group : Nat) : State :=
  let dom := s.heirDomain w
  let w' := { w with takes := w.takes.filter (· != group) }
  match if (s.domain w.part dom).state = .open then s.groupBlock w.part dom group else none with
  | none => s.putWave w'
  | some b =>
    let free := b.present &&& ~~~(s.claimedBy b.id w.uid)
    let got := (w.groupLanes group).filter (fun e => free.getLsbD e.2)
    let lanes := maskOf (got.map Prod.fst)
    let s := if got = [] then s else s.checkBlock b
    let fills := (w.desc.inhmap.take (min w.desc.ninh b.e)).zipIdx.filterMap (fun e =>
      if e.1 = 0xFF then none
      else some (e.1, lanes, allLanes.map (fun l => ((got.find? (fun g => g.1 == l)).map (fun g => laneOf (s.blockReg b e.2) g.2)).getD 0)))
    let s := s.putWave ({ w' with fill := w'.fill ++ fills }.setK 1 (w'.rk 1 ||| lanes))
    if got = [] then s
    else
      let s := (s.endHolds b).putBlock { b with loc := .moving, held := b.loc, taker := some w.uid }
      if (s.domain w.part dom).keep then s else s.consumeSlots b.id (maskOf (got.map Prod.snd))

/-- The blocks that were MOVING into a heir's window are where they were; those of which nothing is left are freed (R96, R107). -/
def State.endTransfer (s : State) (uid : Nat) : State :=
  let mine := s.blocks.filter (fun b => b.taker == some uid)
  let s := mine.foldl (fun (s : State) b =>
    if b.present = 0 then s.freeBlock b.id else s.putBlock { b with loc := b.held, taker := none }) s
  mine.foldl (fun s b => s.stirEstates b.part) s

/-- The next group of a heir whose take can be applied. -/
def State.nextTake (s : State) (w : Wave) : Option Nat :=
  let dom := s.heirDomain w
  w.takes.find? (fun g => (s.domain w.part dom).state != .open || !s.takeWaits w.part dom g w.ticket)

/-- ESTATE_TAKE: one take of a BORN wave. -/
def execEstateTake (s : State) : Host.Outcome State Fault Refusal :=
  .next (match s.wave? s.input.uid with
    | none => s
    | some w =>
      if w.life = .born ∧ w.cx = (s.part w.part).active ∧ (s.part w.part).switching = none then
        match s.nextTake w with
        | none => s
        | some g =>
          let s := (s.applyTake w g).dueOnce .estateTransferDone { uid := w.uid }
          if (w.takes.filter (· != g)) = [] then s else s.dueOnce .estateTake { uid := w.uid }
      else s)

/-- ESTATE_TRANSFER_DONE: what was taken so far is in the estate window. -/
def execEstateTransferDone (s : State) : Host.Outcome State Fault Refusal :=
  .next (match s.wave? s.input.uid with
    | none => s
    | some w =>
      if w.life = .born then
        let s := ((w.fill.foldl (fun s e => s.writeV w.uid e.1 e.2.1 e.2.2) s).modWave w.uid (fun w => { w with fill := [] })).endTransfer w.uid
        if w.takes = [] then s.dueOnce .waveBirthDone { uid := w.uid } else s
      else s)

/-- The checkpoint of a wave (R371) that names scalar and vector registers. -/
def State.checkpoint (s : State) (w : Wave) (head : DWord) (sregs vregs : List Nat) : Checkpoint :=
  { exec := w.exec, k := w.k, fmt := w.fmt, scc := w.scc, maskStack := w.maskStack, callStack := w.callStack, tbudget := w.tbudget,
    inld := w.inld, head := head, args := w.args, icount := w.icount, ibase := w.ibase, ctaglo := w.ctaglo, ctaghi := w.ctaghi,
    sdepth := w.sdepth, sregs := sregs.map (fun r => (r, w.rs r)), vregs := vregs.map (fun r => (r, s.readV w r)) }

/-- WAVE_BIRTH_DONE: a BORN wave whose estate window is filled becomes READY; birth counts as a checkpoint (R371). -/
def execWaveBirthDone (s : State) : Host.Outcome State Fault Refusal :=
  .next (match s.wave? s.input.uid with
    | none => s
    | some w =>
      if w.life = .born ∧ w.takes = [] ∧ w.fill = [] then
        let c := s.checkpoint w w.pc (w.s.map Prod.fst) []
        (s.saveCheckpoint w c).putWave { w with life := .ready, ckpt := some c }
      else s)

/-! ### Retirement of a FORMING block (R88, R89, R90) -/

/-- The fold of R89: the new block, FORMING, takes what the older block alone holds. Claims of slots that only the older block held go
with them; those of slots that the new block brings are over, since the values claimed are gone. DESIGN CHOICE (log 86). -/
def State.foldBlock (s : State) (b old : Block) : State :=
  let s := s.checkBlock old
  let only := old.present &&& ~~~b.present
  let data := (List.range b.e).map (fun j =>
    mergeV (b.data.getD j zeroV) only (fun l => if j < old.e then laneOf (s.blockReg old j) l else 0))
  let pend := (old.pend.filter (fun d => d.row < b.e)).map (fun d =>
    { d with slots := d.slots.map (fun k => k.filter (fun x => only.getLsbD x)) })
  let move (w : Wave) : Wave := { w with claims := w.claims.map (fun c => if c.1 = old.id then (b.id, c.2 &&& only) else c) }
  let s := { s with beqFold := s.beqFold + 1, waves := s.waves.map move }
  (s.putBlock { b with data := data, pend := b.pend ++ pend, present := b.present ||| old.present }).freeBlock old.id

/-- The end of FORMING must wait (R93): the domain takes the block, and its group has a MOVING block. -/
def State.formingWaits (s : State) (uid : Nat) : Bool :=
  s.blocks.any (fun b => b.loc == .forming && b.uid == uid && b.inDir && (s.domain b.part b.dom).state == .open &&
    (match s.groupBlock b.part b.dom b.group with | some o => o.loc == .moving | none => false))

/-- A residue place for a record that no `will` reserved, when there is space; until then the block stays as it is. -/
def State.toResidue (s : State) (b : Block) (reason : Nat) : Option State :=
  (s.givePlace b.part (64 + 256 * b.e)).map (fun x =>
    (x.1.setOff { b with held := b.place, route := .residue x.2 reason, inDir := false }).dueOnce .residueRecordWritten { part := b.part })

/-- The FORMING block of a wave that retires takes its route (R88, R89, R90); of a halted wave it is discarded (R367). Writes that an
adopted run still awaits go to what captured them, and no longer to the run that the block takes (R97). -/
def State.retireBlock (s : State) (w : Wave) (halted : Bool) : State :=
  match s.blocks.find? (fun b => b.loc == .forming && b.uid == w.uid) with
  | none => s
  | some b =>
    let dom := s.domain b.part b.dom
    if halted then s.freeBlock b.id
    else if dom.state ≠ .open then
      if dom.residue then
        match b.route with
        | .residue st _ => (s.setOff { b with held := .forming, route := .residue st 6, inDir := false }).dueOnce .residueRecordWritten { part := b.part }
        | _ => (s.toResidue { b with inDir := false, route := .resident } 6).getD (s.putBlock { b with loc := .moving, held := .forming, route := .resident, inDir := false })
      else s.freeBlock b.id
    else
      let s := if b.inDir then (match s.groupBlock b.part b.dom b.group with | some o => s.foldBlock b o | none => s) else s
      match s.block? b.id with
      | none => s
      | some b =>
        match b.route with
        | .resident =>
          let blk := if b.runLen ≤ w.foot.wwin then w.wbase else w.ebase
          let b' := { b with loc := .resident, core := w.core, cx := w.cx, rfblk := blk, data := [] }
          let rows := (List.range (8 * b.runLen)).map b'.rowOf
          let s := (b.data.zipIdx).foldl (fun (s : State) e => { s with rf := kvPut zeroV s.rf (b'.rowOf e.2) e.1 }) s
          { s.putBlock b' with ops := s.ops.map (fun (o : Op) => { o with moved := o.moved.filter (fun d => !rows.contains d.row) }) }
        | .orchard _ => (s.setOff { b with held := .forming }).dueOnce .estateEvictDone { idx := b.id }
        | .residue .. => (s.setOff { b with held := .forming }).dueOnce .residueRecordWritten { part := b.part }

/-! ### Eviction (R101) -/

/-- The eviction of a block waits (R93): its group is busy, or an earlier take from it waits. -/
def State.evictWaits (s : State) (b : Block) : Bool := s.busyFor b || s.takeBefore b.part b.dom b.group s.nextOp

/-- A RESIDENT or LIVE block goes to MOVING, for an Orchard slot, once nothing on its group comes before (R93). -/
def State.evict (s : State) (id : Nat) : State :=
  match (s.block? id).filter (fun b => !s.evictWaits b) with
  | none => s
  | some b =>
    match s.orchardSlot b.part with
    | none => s
    | some k => ({ s with draws := s.draws + 1 }.setOff { b with held := b.loc, route := .orchard k }).dueOnce .estateEvictDone { idx := id }

/-- ESTATE_EVICT_DONE: a MOVING block, its pending writes landed, is written to its Orchard slot. A block that waits for
residue space asks for it again. -/
def execEstateEvictDone (s : State) : Host.Outcome State Fault Refusal :=
  .next (match s.block? s.input.idx with
    | none => s
    | some b =>
      if b.loc = .moving ∧ b.taker = none then
        match b.route with
        | .orchard k =>
          if b.pend = [] ∧ !s.destHeld b then
            let s1 := (List.range b.e).foldl (fun st j => st.homeRun (s.orchardPa b.part k j) (bytesFrom (s.blockReg b j))) s
            let s2 := s1.putBlock { b with loc := .orchard, slot := k, data := [] }
            { s2 with estEvict := if b.held = Loc.forming then s2.estEvict else s2.estEvict + 1 }.estateWrote b.part
          else s
        | .resident => if (s.part b.part).switching.isSome then s else (s.toResidue b 6).getD s
        | .residue .. => s
      else s)

/-! ### Closing a domain (R103, R104) -/

/-- A packet's work is done and released (R41): its completion comes due. -/
def State.workDone (s : State) (fn q idx : Nat) : State :=
  (s.modQueue fn q (fun (x : Queue) => { x with packets := x.packets.map (fun (p : Packet) => if p.idx = idx then { p with stage := .complete } else p) })).dueOnce
    .packetComplete { fn := fn, queue := q, idx := idx }

def Feed.limit (f : Feed) : Nat := min f.count f.maxrec
/-- Every record has been handed out. -/
def Feed.finished (f : Feed) : Bool := f.final && decide (f.limit ≤ f.next)

/-- The feed that a TILELAUNCH with FEED = 1 has bound still hands out records (R53). -/
def State.feeding (s : State) (l : Launch) : Bool := s.feeds.any (fun f => f.launch == l.id && !f.finished)

/-- Every wave of a launch has been created and has retired, and every child with its decrement is done (R393). -/
def State.launchRetired (s : State) (l : Launch) : Bool :=
  !l.broken && l.stopAt.isNone && l.created &&
  !s.waves.any (fun w => w.launch == l.id) && !s.cards.any (fun c => c.2.launch == l.id) &&
  !s.ops.any (fun o => o.launch == l.id && (match o.kind with | .parent _ | .post .. => true | _ => false))

/-- A domain whose CLOSE_ON_HEIR close a launch waits for. -/
def State.heirWaits (s : State) (l : Launch) : Bool :=
  s.domains.any (fun e => e.1 / 4096 == l.part && e.2.closeOnHeir && e.2.heir == some l.id && e.2.state != .closed)

/-- A launch that has ended completes its packet, its memory effects visible at system scope first (R320, R393). An L1 line that an
engine owns holds that up (R321). -/
def State.launchFinish (s : State) (id : Nat) : State :=
  match s.launch? id with
  | none => s
  | some l =>
    if s.launchRetired l ∧ !s.heirWaits l ∧ !s.feeding l then
      if (s.partCores l.part).any s.flushHeld then s.hold .packetComplete { fn := l.fn, queue := l.queue, idx := l.idx }
      else
      let s := (s.partCores l.part).foldl (fun s c => s.eagerRelease c true) s
      { s with launches := s.launches.filter (fun x => x.id != id) }.workDone l.fn l.queue l.idx
    else s

/-- What waited for a domain's close goes on: ESTATE_CLOSE packets and the heir launch. -/
def State.closed (s : State) (d : Domain) : State :=
  let s := d.closers.foldl (fun s c => s.workDone c.1 c.2.1 c.2.2) s
  match d.heir with
  | some id => s.launchFinish id
  | none => s

/-- An OPEN domain begins to close: its blocks in ascending key group remain, and claimed slots are consumed. -/
def State.beginClose (s : State) (part dom reason : Nat) : State :=
  let d := s.domain part dom
  if d.state = .open then
    let mine := s.blocks.filter (fun b => b.part == part && b.dom == dom)
    let s := s.putDomain part dom { d with state := .closing reason, remaining := (sortBy (fun b => b.group) mine).map (·.id) }
    let s := mine.foldl (fun (s : State) b => s.consumeSlots b.id (s.claimedBy b.id 0)) s
    s.dueOnce .estateCloseStep { part := part, dom := dom }
  else s

/-- A launch whose queue has been reset is over (R54): its packet is gone, and its last wave has retired. -/
def State.launchOver (s : State) (l : Launch) : Bool :=
  l.broken && !s.queues.any (fun x => x.packets.any (fun p => p.launch == l.id)) && !s.waves.any (fun w => w.launch == l.id)

/-- A launch that may have ended is looked at: it closes the domains of which it is the heir (R103) and completes. -/
def State.launchCheck (s : State) (id : Nat) : State :=
  match s.launch? id with
  | none => s
  | some l =>
    let s :=
      if l.created ∧ !s.waves.any (fun w => w.launch == id && !w.child) then
        (s.domains.filter (fun e => e.1 / 4096 == l.part && e.2.closeOnHeir && e.2.heir == some id && e.2.state == .open)).foldl
          (fun s e => s.beginClose l.part (e.1 % 4096) 2) s
      else s
    if l.broken then
      { s with launches := s.launches.filter (fun x => !(x.id == id && s.launchOver l)) }.dueOnce .estateClose { fn := l.fn, queue := l.queue }
    else s.launchFinish id

/-- A close step on a block waits (R48, R104): it, or another remaining block of its group, is FORMING or MOVING. A block whose `will`
came after the close began does not count. -/
def State.closeWaits (s : State) (d : Domain) (b : Block) : Bool :=
  s.blocks.any (fun x => d.remaining.contains x.id && x.part == b.part && x.dom == b.dom && x.group == b.group &&
    (x.loc == .forming || x.loc == .moving))

/-- ESTATE_CLOSE_STEP: the first block that remains is written as residue or discarded, which frees its run, its Orchard slot and its
directory entry for what waits for them (R60); with none left the domain is CLOSED. Domains are shared by a partition's contexts
(log 41), and the spec does not say whose context a close belongs to: close steps are held until the context that opened the domain is
active, whichever queue began the close and whichever context's blocks remain. DESIGN CHOICE (log 92). -/
def execEstateCloseStep (s : State) : Host.Outcome State Fault Refusal :=
  .next (
    let part := s.input.part; let dom := s.input.dom
    let d := s.domain part dom
    match d.state with
    | .closing reason =>
      let again (s : State) : State := s.dueOnce .estateCloseStep { part := part, dom := dom }
      match d.remaining.findSome? s.block? with
      | none => (s.putDomain part dom { d with state := .closed, remaining := [], closers := [] } |>.closed d).stirEstates part
      | some b =>
        if s.closeWaits d b ∨ b.pend ≠ [] ∨ d.cx ≠ (s.part part).active ∨ (s.part part).switching.isSome then s
        else if b.loc = .residue ∨ !d.residue then again ((s.freeBlock b.id).stirEstates part)
        else (s.toResidue b reason).getD s
    | _ => s)

/-- DOMAIN_TIMER_EXPIRE (R103), once the context that opened the domain is active. -/
def execDomainTimerExpire (s : State) : Host.Outcome State Fault Refusal :=
  .next (
    let part := s.input.part; let dom := s.input.dom
    let d := s.domain part dom
    if d.timer ≠ 0 ∧ d.openTime.toNat + d.timer ≤ s.dtime.toNat ∧ d.cx = (s.part part).active ∧ (s.part part).switching = none then
      s.beginClose part dom 3
    else s)

end Sys2Proof.Machine
end

