-- ==== Sys2Proof/Decode.lean ====
section
/-! DEFINITION. Decoding and encoding (R109 to R130): the fields of an instruction's words, the opcode map, the checks
that read the words alone, and the words of a well-formed instruction. -/

namespace Sys2Proof

/-- Bits lo + len − 1 : lo of a word. -/
def fld (w : Word) (lo len : Nat) : BitVec len := w.extractLsb' lo len

/-- The leading word's OP (R109). -/
def opOf (w : Word) : Nat := (fld w 24 7).toNat

/-- The chain bit (R109). -/
def cOf (w : Word) : Bool := w.getLsbD 31

/-- Bits 23:0 of a word: F, or an extension word's payload (R109, R110). -/
def pay (w : Word) : BitVec 24 := fld w 0 24

/-- Bits 23:16, 15:8 and 7:0 of a word. -/
def fA (w : Word) : R8 := fld w 16 8
def fB (w : Word) : R8 := fld w 8 8
def fD (w : Word) : R8 := fld w 0 8

/-- A leading word, from C, OP and F (R109). -/
def leadW (c : Bool) (op : Nat) (f : BitVec 24) : Word := BitVec.ofBool c ++ (BitVec.ofNat 7 op ++ f)

/-- An extension word (R110). -/
def extW (c : Bool) (f : BitVec 24) : Word := leadW c 0x7F f

/-- Three 8-bit fields in bits 23:16, 15:8 and 7:0 (R118, R120). -/
def p3 (a b d : R8) : BitVec 24 := a ++ (b ++ d)

/-- The immediate of SI32 (R118). -/
def imm32 (w1 w2 : Word) : Word := fld w2 0 8 ++ fld w1 0 24

/-- Format V4 (R120). -/
def getV4 (w0 w1 : Word) : V4 :=
  { vd := fA w0, va := fB w0, vb := fD w0, vc := fld w1 16 8, km := fld w1 12 4, z := w1.getLsbD 11,
    ty := fld w1 7 4, rnd := fld w1 5 2, sat := w1.getLsbD 4, nega := w1.getLsbD 3, negb := w1.getLsbD 2,
    absa := w1.getLsbD 1, fnx := w1.getLsbD 0 }
def v4w0 (op : Nat) (p : V4) : Word := leadW false op (p3 p.vd p.va p.vb)
def v4w1 (c : Bool) (p : V4) : Word :=
  extW c (p.vc ++ (p.km ++ (BitVec.ofBool p.z ++ (p.ty ++ (p.rnd ++ (BitVec.ofBool p.sat ++
    (BitVec.ofBool p.nega ++ (BitVec.ofBool p.negb ++ (BitVec.ofBool p.absa ++ BitVec.ofBool p.fnx)))))))))

/-- Format VS (R120). -/
def getVS (w0 w1 : Word) : VS :=
  { vd := fA w0, va := fB w0, sb := fD w0, km := fld w1 12 4, z := w1.getLsbD 11,
    ty := fld w1 7 4, rnd := fld w1 5 2, sat := w1.getLsbD 4, nega := w1.getLsbD 3, negb := w1.getLsbD 2,
    absa := w1.getLsbD 1, fnx := w1.getLsbD 0 }
def vsw0 (op : Nat) (p : VS) : Word := leadW false op (p3 p.vd p.va p.sb)
def vsw1 (c : Bool) (fn : R8) (p : VS) : Word :=
  extW c (fn ++ (p.km ++ (BitVec.ofBool p.z ++ (p.ty ++ (p.rnd ++ (BitVec.ofBool p.sat ++
    (BitVec.ofBool p.nega ++ (BitVec.ofBool p.negb ++ (BitVec.ofBool p.absa ++ BitVec.ofBool p.fnx)))))))))

/-- Format M (R121). -/
def getM (w0 w1 : Word) : MF :=
  { vt := fA w0, sbase := fB w0, voff := fD w0, km := fld w1 20 4, width := fld w1 17 3, scope := fld w1 14 3,
    order := fld w1 12 2, cache := fld w1 10 2, imm := fld w1 0 10 }
def mw0 (op : Nat) (p : MF) : Word := leadW false op (p3 p.vt p.sbase p.voff)
def mw1 (c : Bool) (p : MF) : Word :=
  extW c (p.km ++ (p.width ++ (p.scope ++ (p.order ++ (p.cache ++ p.imm)))))

/-- Format T (R122). -/
def getT (w0 w1 w2 : Word) : TF :=
  { ta := fA w0, tb := fB w0, tc := fD w0, nd := fld w1 21 3, km := fld w1 17 4, z := w1.getLsbD 16,
    cm := fld w1 14 2, ct := fld w1 6 8, ty := fld w1 2 4, td := fld w2 16 8, scope := fld w2 13 3,
    order := fld w2 11 2, cache := fld w2 9 2, btype := fld w2 4 4 }
def tw0 (op : Nat) (p : TF) : Word := leadW false op (p3 p.ta p.tb p.tc)
def tw1 (fnt : BitVec 2) (p : TF) : Word :=
  extW false (p.nd ++ (p.km ++ (BitVec.ofBool p.z ++ (p.cm ++ (p.ct ++ (p.ty ++ fnt))))))
def tw2 (sp : Bool) (p : TF) : Word :=
  extW false (p.td ++ (p.scope ++ (p.order ++ (p.cache ++ (BitVec.ofBool sp ++ (p.btype ++ 0#4))))))

/-- Format A (R123). -/
def getA2 (w0 w1 : Word) : A2 :=
  { aa := fA w0, ab := fB w0, ac := fD w0, cm := fld w1 18 2, ct := fld w1 10 8, scope := fld w1 7 3,
    order := fld w1 5 2, fl := fld w1 0 5 }
def a2w0 (op : Nat) (p : A2) : Word := leadW false op (p3 p.aa p.ab p.ac)
def a2w1 (c : Bool) (fn : BitVec 4) (p : A2) : Word :=
  extW c (fn ++ (p.cm ++ (p.ct ++ (p.scope ++ (p.order ++ p.fl)))))
def getA3 (w0 w1 w2 : Word) : A3 :=
  { aa := fA w0, ab := fB w0, ac := fD w0, cm := fld w1 18 2, ct := fld w1 10 8, scope := fld w1 7 3,
    order := fld w1 5 2, fl := fld w1 0 5, imm := pay w2 }
def a3w0 (op : Nat) (p : A3) : Word := leadW false op (p3 p.aa p.ab p.ac)
def a3w1 (fn : BitVec 4) (p : A3) : Word :=
  extW false (fn ++ (p.cm ++ (p.ct ++ (p.scope ++ (p.order ++ p.fl)))))

/-- OPs 0x00 to 0x0F (R127, R128): the instruction whose words are w0, w1 and w2, and whether every bit it gives as zero is zero. -/
def parse0 (op : Nat) (w0 _w1 _w2 : Word) : Option (Instr × Bool) :=
  match op with
  | 0x01 =>
    if pay w0 == 0 then some (.nop (cOf w0), true)
    else if fld w0 20 4 == 0xA then some (.nopHeader (fld w0 14 6) (fld w0 8 6), fld w0 0 8 == 0 && !cOf w0)
    else some (.nop (cOf w0), false)
  | 0x02 => some (.sadd (cOf w0) (fA w0) (fB w0) (fD w0), true)
  | 0x03 => some (.ssub (cOf w0) (fA w0) (fB w0) (fD w0), true)
  | 0x04 => some (.smul (cOf w0) (fA w0) (fB w0) (fD w0), true)
  | 0x05 => some (.smulh (cOf w0) (fA w0) (fB w0) (fD w0), true)
  | 0x06 => some (.smulhu (cOf w0) (fA w0) (fB w0) (fD w0), true)
  | 0x07 => some (.sdiv (cOf w0) (fA w0) (fB w0) (fD w0), true)
  | 0x08 => some (.sdivu (cOf w0) (fA w0) (fB w0) (fD w0), true)
  | 0x09 => some (.srem (cOf w0) (fA w0) (fB w0) (fD w0), true)
  | 0x0A => some (.sremu (cOf w0) (fA w0) (fB w0) (fD w0), true)
  | 0x0B => some (.sand (cOf w0) (fA w0) (fB w0) (fD w0), true)
  | 0x0C => some (.sor (cOf w0) (fA w0) (fB w0) (fD w0), true)
  | 0x0D => some (.sxor (cOf w0) (fA w0) (fB w0) (fD w0), true)
  | 0x0E => some (.sshl (cOf w0) (fA w0) (fB w0) (fD w0), true)
  | 0x0F => some (.sshr (cOf w0) (fA w0) (fB w0) (fD w0), true)
  | _ => none

/-- OPs 0x10 to 0x1F (R127, R128): the instruction whose words are w0, w1 and w2, and whether every bit it gives as zero is zero. -/
def parse1 (op : Nat) (w0 w1 w2 : Word) : Option (Instr × Bool) :=
  match op with
  | 0x10 => some (.ssra (cOf w0) (fA w0) (fB w0) (fD w0), true)
  | 0x11 => some (.smin (cOf w0) (fA w0) (fB w0) (fD w0), true)
  | 0x12 => some (.smax (cOf w0) (fA w0) (fB w0) (fD w0), true)
  | 0x13 => some (.sminu (cOf w0) (fA w0) (fB w0) (fD w0), true)
  | 0x14 => some (.smaxu (cOf w0) (fA w0) (fB w0) (fD w0), true)
  | 0x15 =>
    match (fD w0).toNat with
    | 1 => some (.smovSi (cOf w1) (fA w0) (pay w1), ((fB w0) == 0))
    | 2 => some (.saddSi (cOf w1) (fA w0) (fB w0) (pay w1), true)
    | 3 => some (.ssubSi (cOf w1) (fA w0) (fB w0) (pay w1), true)
    | 4 => some (.smulSi (cOf w1) (fA w0) (fB w0) (pay w1), true)
    | 5 => some (.smulhSi (cOf w1) (fA w0) (fB w0) (pay w1), true)
    | 6 => some (.smulhuSi (cOf w1) (fA w0) (fB w0) (pay w1), true)
    | 7 => some (.sdivSi (cOf w1) (fA w0) (fB w0) (pay w1), true)
    | 8 => some (.sdivuSi (cOf w1) (fA w0) (fB w0) (pay w1), true)
    | 9 => some (.sremSi (cOf w1) (fA w0) (fB w0) (pay w1), true)
    | 10 => some (.sremuSi (cOf w1) (fA w0) (fB w0) (pay w1), true)
    | 11 => some (.sandSi (cOf w1) (fA w0) (fB w0) (pay w1), true)
    | 12 => some (.sorSi (cOf w1) (fA w0) (fB w0) (pay w1), true)
    | 13 => some (.sxorSi (cOf w1) (fA w0) (fB w0) (pay w1), true)
    | 14 => some (.sshlSi (cOf w1) (fA w0) (fB w0) (pay w1), true)
    | 15 => some (.sshrSi (cOf w1) (fA w0) (fB w0) (pay w1), true)
    | 16 => some (.ssraSi (cOf w1) (fA w0) (fB w0) (pay w1), true)
    | 17 => some (.sminSi (cOf w1) (fA w0) (fB w0) (pay w1), true)
    | 18 => some (.smaxSi (cOf w1) (fA w0) (fB w0) (pay w1), true)
    | 19 => some (.sminuSi (cOf w1) (fA w0) (fB w0) (pay w1), true)
    | 20 => some (.smaxuSi (cOf w1) (fA w0) (fB w0) (pay w1), true)
    | _ => none
  | 0x16 =>
    match (fD w0).toNat with
    | 1 => some (.smovSi32 (fA w0) (imm32 w1 w2), ((fB w0) == 0 && fld w2 8 16 == 0))
    | 2 => some (.saddSi32 (fA w0) (fB w0) (imm32 w1 w2), (fld w2 8 16 == 0))
    | 3 => some (.ssubSi32 (fA w0) (fB w0) (imm32 w1 w2), (fld w2 8 16 == 0))
    | 4 => some (.smulSi32 (fA w0) (fB w0) (imm32 w1 w2), (fld w2 8 16 == 0))
    | 5 => some (.smulhSi32 (fA w0) (fB w0) (imm32 w1 w2), (fld w2 8 16 == 0))
    | 6 => some (.smulhuSi32 (fA w0) (fB w0) (imm32 w1 w2), (fld w2 8 16 == 0))
    | 7 => some (.sdivSi32 (fA w0) (fB w0) (imm32 w1 w2), (fld w2 8 16 == 0))
    | 8 => some (.sdivuSi32 (fA w0) (fB w0) (imm32 w1 w2), (fld w2 8 16 == 0))
    | 9 => some (.sremSi32 (fA w0) (fB w0) (imm32 w1 w2), (fld w2 8 16 == 0))
    | 10 => some (.sremuSi32 (fA w0) (fB w0) (imm32 w1 w2), (fld w2 8 16 == 0))
    | 11 => some (.sandSi32 (fA w0) (fB w0) (imm32 w1 w2), (fld w2 8 16 == 0))
    | 12 => some (.sorSi32 (fA w0) (fB w0) (imm32 w1 w2), (fld w2 8 16 == 0))
    | 13 => some (.sxorSi32 (fA w0) (fB w0) (imm32 w1 w2), (fld w2 8 16 == 0))
    | 14 => some (.sshlSi32 (fA w0) (fB w0) (imm32 w1 w2), (fld w2 8 16 == 0))
    | 15 => some (.sshrSi32 (fA w0) (fB w0) (imm32 w1 w2), (fld w2 8 16 == 0))
    | 16 => some (.ssraSi32 (fA w0) (fB w0) (imm32 w1 w2), (fld w2 8 16 == 0))
    | 17 => some (.sminSi32 (fA w0) (fB w0) (imm32 w1 w2), (fld w2 8 16 == 0))
    | 18 => some (.smaxSi32 (fA w0) (fB w0) (imm32 w1 w2), (fld w2 8 16 == 0))
    | 19 => some (.sminuSi32 (fA w0) (fB w0) (imm32 w1 w2), (fld w2 8 16 == 0))
    | 20 => some (.smaxuSi32 (fA w0) (fB w0) (imm32 w1 w2), (fld w2 8 16 == 0))
    | _ => none
  | 0x17 => if (fld w0 0 4).toNat < 10 then some (.scmp (cOf w1) (fA w0) (fB w0) (fld w0 0 4) (w0.getLsbD 4) (pay w1), (fld w0 5 3 == 0)) else none
  | 0x18 => some (.ssel (cOf w0) (fA w0) (fB w0) (fD w0), true)
  | 0x19 =>
    match (fD w0).toNat with
    | 0 => some (.sbfe (cOf w1) (fA w0) (fB w0) (fld w1 0 5) (fld w1 5 6), (fld w1 11 13 == 0))
    | 1 => some (.sbfeu (cOf w1) (fA w0) (fB w0) (fld w1 0 5) (fld w1 5 6), (fld w1 11 13 == 0))
    | 2 => some (.sbfi (cOf w1) (fA w0) (fB w0) (fld w1 0 5) (fld w1 5 6), (fld w1 11 13 == 0))
    | _ => none
  | 0x1A =>
    match (fD w0).toNat with
    | 0 => some (.sclz (cOf w0) (fA w0) (fB w0), true)
    | 1 => some (.sctz (cOf w0) (fA w0) (fB w0), true)
    | 2 => some (.spopc (cOf w0) (fA w0) (fB w0), true)
    | 3 => some (.sbrev (cOf w0) (fA w0) (fB w0), true)
    | 4 => some (.sext8 (cOf w0) (fA w0) (fB w0), true)
    | 5 => some (.sext16 (cOf w0) (fA w0) (fB w0), true)
    | _ => none
  | 0x1B =>
    match (fld w0 0 3).toNat with
    | 0 => some (.sadd64 (cOf w1) (fA w0) (fB w0) (w0.getLsbD 7) (pay w1), (fld w0 3 4 == 0))
    | 1 => some (.ssub64 (cOf w1) (fA w0) (fB w0) (w0.getLsbD 7) (pay w1), (fld w0 3 4 == 0))
    | 2 => some (.smul64 (cOf w1) (fA w0) (fB w0) (w0.getLsbD 7) (pay w1), (fld w0 3 4 == 0))
    | 3 => some (.sshl64 (cOf w1) (fA w0) (fB w0) (w0.getLsbD 7) (pay w1), (fld w0 3 4 == 0))
    | 4 => some (.sshr64 (cOf w1) (fA w0) (fB w0) (w0.getLsbD 7) (pay w1), (fld w0 3 4 == 0))
    | 5 => some (.ssra64 (cOf w1) (fA w0) (fB w0) (w0.getLsbD 7) (pay w1), (fld w0 3 4 == 0))
    | 6 => some (.smov64 (cOf w1) (fA w0) (w0.getLsbD 7) (pay w1), (fld w0 3 4 == 0 && (fB w0) == 0))
    | _ => none
  | _ => none

/-- OPs 0x20 to 0x2F (R127, R128): the instruction whose words are w0, w1 and w2, and whether every bit it gives as zero is zero. -/
def parse2 (op : Nat) (w0 w1 _w2 : Word) : Option (Instr × Bool) :=
  match op with
  | 0x20 => some (.b (cOf w0) (fld w0 0 20), ((fld w0 20 4) == 0))
  | 0x21 => some (.bc (cOf w0) (fld w0 20 4) (fld w0 0 20), true)
  | 0x22 => some (.bu (cOf w0) (fld w0 20 4) (fld w0 0 20), true)
  | 0x23 => some (.loop (cOf w1) (fB w0) (pay w1), (fD w0 == 0 && (fA w0) == 0))
  | 0x24 => some (.call (fld w0 0 20), ((fld w0 20 4) == 0 && !(cOf w0)))
  | 0x25 => some (.callp (fB w0), ((fA w0) == 0 && (fD w0) == 0 && !(cOf w0)))
  | 0x26 => some (.ret, (pay w0 == 0 && !(cOf w0)))
  | 0x27 => some (.stub (fld w0 0 20), ((fld w0 20 4) == 0 && !(cOf w0)))
  | 0x28 => some (.mpush (cOf w0) (fld w0 16 4), (fld w0 8 4 == 0 && (fld w0 20 4) == 0 && (fld w0 12 4) == 0 && (fD w0) == 0))
  | 0x29 => some (.melse (cOf w0) (fld w0 16 4), (fld w0 8 4 == 0 && (fld w0 20 4) == 0 && (fld w0 12 4) == 0 && (fD w0) == 0))
  | 0x2A => some (.mpop (cOf w0), (fld w0 8 4 == 0 && (fld w0 20 4) == 0 && (fld w0 16 4) == 0 && (fld w0 12 4) == 0 && (fD w0) == 0))
  | 0x2B =>
    match (fld w0 8 4).toNat with
    | 0 => some (.kand (cOf w0) (fld w0 20 4) (fld w0 16 4) (fld w0 12 4), ((fD w0) == 0))
    | 1 => some (.kor (cOf w0) (fld w0 20 4) (fld w0 16 4) (fld w0 12 4), ((fD w0) == 0))
    | 2 => some (.kxor (cOf w0) (fld w0 20 4) (fld w0 16 4) (fld w0 12 4), ((fD w0) == 0))
    | 3 => some (.kandn (cOf w0) (fld w0 20 4) (fld w0 16 4) (fld w0 12 4), ((fD w0) == 0))
    | 4 => some (.knot (cOf w0) (fld w0 20 4) (fld w0 16 4), ((fld w0 12 4) == 0 && (fD w0) == 0))
    | 5 => some (.kmov (cOf w0) (fld w0 20 4) (fld w0 16 4), ((fld w0 12 4) == 0 && (fD w0) == 0))
    | 6 => some (.kshl (cOf w0) (fld w0 20 4) (fld w0 16 4) (fD w0), ((fld w0 12 4) == 0))
    | 7 => some (.kshr (cOf w0) (fld w0 20 4) (fld w0 16 4) (fD w0), ((fld w0 12 4) == 0))
    | 8 => some (.kpopc (cOf w0) (fld w0 16 4) (fD w0), ((fld w0 20 4) == 0 && (fld w0 12 4) == 0))
    | 9 => some (.kffs (cOf w0) (fld w0 16 4) (fD w0), ((fld w0 20 4) == 0 && (fld w0 12 4) == 0))
    | 10 => some (.kfroms (cOf w0) (fld w0 20 4) (fD w0), ((fld w0 16 4) == 0 && (fld w0 12 4) == 0))
    | 11 => some (.ktos (cOf w0) (fld w0 16 4) (fD w0), ((fld w0 20 4) == 0 && (fld w0 12 4) == 0))
    | _ => none
  | 0x2C =>
    match (fld w0 8 4).toNat with
    | 0 => some (.voteK (cOf w0) (fld w0 20 4) (fld w0 16 4) (fld w0 12 4), ((fD w0) == 0))
    | 1 => some (.voteF (cOf w0) (fld w0 16 4) (fld w0 12 4), ((fld w0 20 4) == 0 && (fD w0) == 0))
    | 2 => some (.voteKf (cOf w0) (fld w0 20 4) (fld w0 16 4) (fld w0 12 4), ((fD w0) == 0))
    | _ => none
  | 0x2D => some (.setfmt (cOf w1) (fA w0) (fB w0) (pay w1), (fD w0 == 0))
  | 0x2E => some (.sget (cOf w0) (fA w0) (fB w0), ((fD w0) == 0))
  | 0x2F => some (.sput (cOf w0) (fA w0) (fB w0), ((fD w0) == 0))
  | _ => none

/-- OPs 0x30 to 0x3F (R127, R128): the instruction whose words are w0, w1 and w2, and whether every bit it gives as zero is zero. -/
def parse3 (op : Nat) (w0 w1 _w2 : Word) : Option (Instr × Bool) :=
  match op with
  | 0x30 => some (.spawn (fA w0) (fB w0) (fD w0), (!(cOf w0)))
  | 0x31 => some (.tnext (cOf w0) (fA w0) (fB w0), ((fD w0) == 0))
  | 0x32 => some (.hpush (cOf w1) (fA w0) (fB w0), (fld w1 20 4 == 0 && (fD w0) == 0 && fld w1 0 20 == 0))
  | 0x33 =>
    match (fld w1 20 4).toNat with
    | 0 => some (.hadmit (cOf w1) (fA w0) (fB w0) (fD w0), (fld w1 0 20 == 0))
    | 1 => some (.hadmitMulti (cOf w1) (fA w0) (fB w0) (fD w0), (fld w1 0 20 == 0))
    | _ => none
  | 0x34 => some (.vaddF32Short (cOf w0) (fA w0) (fB w0) (fD w0), true)
  | 0x35 => some (.vmulF32Short (cOf w0) (fA w0) (fB w0) (fD w0), true)
  | 0x36 => some (.vaddI32Short (cOf w0) (fA w0) (fB w0) (fD w0), true)
  | 0x37 => some (.vmovShort (cOf w0) (fA w0) (fB w0), ((fD w0) == 0))
  | 0x38 => some (.vadd (cOf w1) (getV4 w0 w1), true)
  | 0x39 => some (.vsub (cOf w1) (getV4 w0 w1), true)
  | 0x3A => some (.vmul (cOf w1) (getV4 w0 w1), true)
  | 0x3B => some (.vfma (cOf w1) (getV4 w0 w1), true)
  | 0x3C =>
    match (fld w1 0 1).toNat with
    | 0 => some (.vmin (cOf w1) (getV4 w0 w1), true)
    | 1 => some (.vmax (cOf w1) (getV4 w0 w1), true)
    | _ => none
  | 0x3D => some (.vrcp (cOf w1) (getV4 w0 w1), true)
  | 0x3E =>
    match (fld w1 0 1).toNat with
    | 0 => some (.vsqrt (cOf w1) (getV4 w0 w1), true)
    | 1 => some (.vrsqrt (cOf w1) (getV4 w0 w1), true)
    | _ => none
  | 0x3F => some (.vlog2 (cOf w1) (getV4 w0 w1), true)
  | _ => none

/-- OPs 0x40 to 0x4F (R127, R128): the instruction whose words are w0, w1 and w2, and whether every bit it gives as zero is zero. -/
def parse4 (op : Nat) (w0 w1 _w2 : Word) : Option (Instr × Bool) :=
  match op with
  | 0x40 => some (.vexp2 (cOf w1) (getV4 w0 w1), true)
  | 0x41 => some (.vand (cOf w1) (getV4 w0 w1), true)
  | 0x42 => some (.vor (cOf w1) (getV4 w0 w1), true)
  | 0x43 => some (.vxor (cOf w1) (getV4 w0 w1), true)
  | 0x44 => some (.vshl (cOf w1) (getV4 w0 w1), true)
  | 0x45 =>
    match (fld w1 0 1).toNat with
    | 0 => some (.vshr (cOf w1) (getV4 w0 w1), true)
    | 1 => some (.vsra (cOf w1) (getV4 w0 w1), true)
    | _ => none
  | 0x46 => if (fld w1 16 8).toNat < 8 then some (.vcmp (cOf w1) (getV4 w0 w1), true) else none
  | 0x47 => some (.vsel (cOf w1) (getV4 w0 w1), true)
  | 0x48 => some (.vcvt (cOf w1) (getV4 w0 w1), true)
  | 0x49 => some (.vcvtLegacy (cOf w1) (getV4 w0 w1), true)
  | 0x4A => some (.vpack (cOf w1) (getV4 w0 w1), true)
  | 0x4B => some (.vunpack (cOf w1) (getV4 w0 w1), true)
  | 0x4C => some (.vperm (cOf w1) (getV4 w0 w1), true)
  | 0x4D =>
    match (fld w1 16 8).toNat with
    | 0 => some (.vbcast (cOf w1) (getVS w0 w1), true)
    | 1 => some (.vrot (cOf w1) (getVS w0 w1), true)
    | 2 => some (.vshup (cOf w1) (getVS w0 w1), true)
    | 3 => some (.vshdn (cOf w1) (getVS w0 w1), true)
    | 4 => some (.vsplat (cOf w1) (getVS w0 w1), true)
    | _ => none
  | 0x4E => if (fld w1 16 8).toNat < 6 then some (.vred (cOf w1) (getV4 w0 w1), true) else none
  | 0x4F => if (fld w1 16 8).toNat < 6 then some (.vscan (cOf w1) (getV4 w0 w1), true) else none
  | _ => none

/-- OPs 0x50 to 0x5F (R127, R128): the instruction whose words are w0, w1 and w2, and whether every bit it gives as zero is zero. -/
def parse5 (op : Nat) (w0 w1 _w2 : Word) : Option (Instr × Bool) :=
  match op with
  | 0x50 => some (.vredmaxi (cOf w1) (getV4 w0 w1), true)
  | 0x51 => some (.vtopk (cOf w1) (getV4 w0 w1), true)
  | 0x52 => some (.vdot4 (cOf w1) (getV4 w0 w1), true)
  | 0x53 => some (.vrand (cOf w1) (getV4 w0 w1), true)
  | 0x54 =>
    match (fld w1 16 8).toNat with
    | 56 => some (.vaddVs (cOf w1) (getVS w0 w1), true)
    | 57 => some (.vsubVs (cOf w1) (getVS w0 w1), true)
    | 58 => some (.vmulVs (cOf w1) (getVS w0 w1), true)
    | 59 => some (.vfmaVs (cOf w1) (getVS w0 w1), true)
    | 60 => if (fld w1 0 1).toNat = 1 then some (.vmaxVs (cOf w1) (getVS w0 w1), true) else some (.vminVs (cOf w1) (getVS w0 w1), true)
    | 61 => some (.vrcpVs (cOf w1) (getVS w0 w1), true)
    | 62 => if (fld w1 0 1).toNat = 1 then some (.vrsqrtVs (cOf w1) (getVS w0 w1), true) else some (.vsqrtVs (cOf w1) (getVS w0 w1), true)
    | 63 => some (.vlog2Vs (cOf w1) (getVS w0 w1), true)
    | 64 => some (.vexp2Vs (cOf w1) (getVS w0 w1), true)
    | 65 => some (.vandVs (cOf w1) (getVS w0 w1), true)
    | 66 => some (.vorVs (cOf w1) (getVS w0 w1), true)
    | 67 => some (.vxorVs (cOf w1) (getVS w0 w1), true)
    | 68 => some (.vshlVs (cOf w1) (getVS w0 w1), true)
    | 69 => if (fld w1 0 1).toNat = 1 then some (.vsraVs (cOf w1) (getVS w0 w1), true) else some (.vshrVs (cOf w1) (getVS w0 w1), true)
    | _ => none
  | 0x55 => some (.vmulh (cOf w1) (getV4 w0 w1), true)
  | 0x56 =>
    match (fld w1 16 8).toNat with
    | 0 => some (.vclz (cOf w1) (getV4 w0 w1), true)
    | 1 => some (.vpopc (cOf w1) (getV4 w0 w1), true)
    | 2 => some (.vbrev (cOf w1) (getV4 w0 w1), true)
    | _ => none
  | 0x57 => some (.vrnd (cOf w1) (getV4 w0 w1), true)
  | 0x5C => some (.ld (cOf w1) (getM w0 w1), true)
  | 0x5D => some (.st (cOf w1) (getM w0 w1), true)
  | 0x5E => some (.sld (cOf w1) (getM w0 w1), true)
  | 0x5F => some (.sst (cOf w1) (getM w0 w1), true)
  | _ => none

/-- OPs 0x60 to 0x6F (R127, R128): the instruction whose words are w0, w1 and w2, and whether every bit it gives as zero is zero. -/
def parse6 (op : Nat) (w0 w1 w2 : Word) : Option (Instr × Bool) :=
  match op with
  | 0x60 => if (fld w1 17 3 == 7) then some (.lds16 (cOf w1) (getM w0 w1), true) else some (.ldp (cOf w1) (getM w0 w1), true)
  | 0x61 => some (.stp (cOf w1) (getM w0 w1), true)
  | 0x62 =>
    match (fld w1 0 2).toNat with
    | 0 => some (.ldt (getT w0 w1 w2), (!w2.getLsbD 8 && fld w2 0 4 == 0))
    | 1 => some (.stt (getT w0 w1 w2), (!w2.getLsbD 8 && fld w2 0 4 == 0))
    | _ => none
  | 0x63 => some (.cpy (getA3 w0 w1 w2), (fld w1 20 4 == 0))
  | 0x64 => some (.cpyt (getT w0 w1 w2), (fld w1 0 2 == 0 && !w2.getLsbD 8 && fld w2 0 4 == 0))
  | 0x65 => if (!(fld w1 5 5 == 14) && !(fld w1 5 5 == 15) && !(fld w1 5 5 == 30) && !(fld w1 5 5 == 31)) then some (.atom (cOf w1) (getM w0 w1), true) else none
  | 0x66 => some (.hinc (cOf w1) (getM w0 w1), true)
  | 0x67 => some (.ldv (cOf w1) (getM w0 w1), true)
  | 0x68 =>
    match (fD w0).toNat with
    | 0 => some (.valset (cOf w1) (fA w0) (fB w0), (pay w1 == 0))
    | 1 => some (.valst (cOf w1) (fA w0) (fB w0) (fld w1 0 8), (fld w1 8 16 == 0))
    | _ => none
  | 0x69 => some (.casv (cOf w1) (getM w0 w1), true)
  | 0x6A => some (.chunk (cOf w0) (fA w0) (fB w0), ((fD w0) == 0))
  | 0x6B =>
    match (fD w0).toNat with
    | 0 => some (.waitc (cOf w1) (fld w1 0 6) (fld w1 6 6) (fld w1 12 6) (fld w1 18 6), ((fA w0) == 0 && (fB w0) == 0))
    | 1 => some (.prefL1 (cOf w1) (fB w0) (fld w1 0 16), ((fA w0) == 0 && fld w1 16 8 == 0))
    | 2 => some (.prefL2 (cOf w1) (fB w0) (fld w1 0 16), ((fA w0) == 0 && fld w1 16 8 == 0))
    | 3 => some (.cwb (cOf w1) (fB w0) (fld w1 0 16), ((fA w0) == 0 && fld w1 16 8 == 0))
    | 4 => some (.cinv (cOf w1) (fB w0) (fld w1 0 16), ((fA w0) == 0 && fld w1 16 8 == 0))
    | _ => none
  | 0x6C => if (w2.getLsbD 8) then some (.mmqSp (getT w0 w1 w2), (fld w1 0 2 == 0 && fld w2 0 4 == 0)) else some (.mmq (getT w0 w1 w2), (fld w1 0 2 == 0 && fld w2 0 4 == 0))
  | 0x6D => some (.mwalk (cOf w1) (getA2 w0 w1), (fld w1 20 4 == 0))
  | 0x6E =>
    match (fD w0).toNat with
    | 0 => some (.mfence (cOf w0) (fA w0), ((fB w0) == 0))
    | 1 => some (.mwait (cOf w0) (fB w0), ((fA w0) == 0))
    | _ => none
  | 0x6F =>
    match (fld w1 0 2).toNat with
    | 0 => some (.accz (getT w0 w1 w2), (!w2.getLsbD 8 && fld w2 0 4 == 0))
    | 1 => some (.accrd (getT w0 w1 w2), (!w2.getLsbD 8 && fld w2 0 4 == 0))
    | 2 => some (.accwr (getT w0 w1 w2), (!w2.getLsbD 8 && fld w2 0 4 == 0))
    | _ => none
  | _ => none

/-- OPs 0x70 to 0x7F (R127, R128): the instruction whose words are w0, w1 and w2, and whether every bit it gives as zero is zero. -/
def parse7 (op : Nat) (w0 w1 w2 : Word) : Option (Instr × Bool) :=
  match op with
  | 0x70 => some (.bload (getT w0 w1 w2), (fld w1 0 2 == 0 && !w2.getLsbD 8 && fld w2 0 4 == 0))
  | 0x71 => some (.mparam (cOf w1) (getA2 w0 w1), (fld w1 20 4 == 0))
  | 0x72 =>
    match (fD w0).toNat with
    | 0 => some (.fence (cOf w1) (fld w1 3 2) (fld w1 0 3), ((fA w0) == 0 && (fB w0) == 0 && fld w1 5 19 == 0))
    | 1 => some (.join (cOf w1) (fld w1 0 6), ((fA w0) == 0 && (fB w0) == 0 && fld w1 6 18 == 0))
    | 2 => some (.leave (cOf w1), ((fA w0) == 0 && (fB w0) == 0 && pay w1 == 0))
    | _ => none
  | 0x73 =>
    match (fD w0).toNat with
    | 0 => some (.barr (cOf w1) (fA w0) (fB w0) (fld w1 0 2) (fld w1 2 6), (fld w1 8 16 == 0))
    | 1 => some (.bwait (cOf w1) (fB w0) (fld w1 0 2) (fld w1 2 6), ((fA w0) == 0 && fld w1 8 16 == 0))
    | 2 => some (.barrw (cOf w1) (fA w0) (fB w0) (fld w1 0 2) (fld w1 2 6), (fld w1 8 16 == 0))
    | 3 => some (.barOld (cOf w1) (fld w1 2 6) (fld w1 8 16), ((fA w0) == 0 && (fB w0) == 0 && (fld w1 0 2) == 1))
    | _ => none
  | 0x74 =>
    match (fD w0).toNat with
    | 0 => some (.binit (cOf w1) (fB w0) (fld w1 0 16), ((fA w0) == 0 && fld w1 16 8 == 0))
    | 1 => some (.bfree (cOf w1) (fB w0), ((fA w0) == 0 && pay w1 == 0))
    | 2 => some (.sarr (cOf w1) (fA w0) (fB w0), (pay w1 == 0))
    | 3 => some (.swait (cOf w1) (fA w0) (fB w0) (fld w1 0 8), (fld w1 8 16 == 0))
    | _ => none
  | 0x75 =>
    match (fD w0).toNat with
    | 0 => some (.semacq (cOf w1) (fA w0) (fB w0) (fld w1 0 6) (w1.getLsbD 7) (fld w1 8 16), (!w1.getLsbD 6))
    | 1 => if (w1.getLsbD 6) then some (.semaddW (cOf w1) (fA w0) (fB w0) (fld w1 0 6) (w1.getLsbD 7) (fld w1 8 16), true) else some (.semadd (cOf w1) (fB w0) (fld w1 0 6) (w1.getLsbD 7) (fld w1 8 16), ((fA w0) == 0))
    | _ => none
  | 0x77 =>
    match (fld w1 20 4).toNat with
    | 0 => some (.gbind (getA3 w0 w1 w2), true)
    | 1 => some (.gmask (getA3 w0 w1 w2), true)
    | 2 => some (.gmaskDelta (getA3 w0 w1 w2), true)
    | _ => none
  | 0x78 =>
    match (fld w1 20 4).toNat with
    | 0 => some (.gstep (cOf w1) (getA2 w0 w1), true)
    | 1 => some (.gfork (cOf w1) (getA2 w0 w1), true)
    | 2 => some (.groll (cOf w1) (getA2 w0 w1), true)
    | 3 => some (.gcommit (cOf w1) (getA2 w0 w1), true)
    | 4 => some (.gfree (cOf w1) (getA2 w0 w1), true)
    | _ => none
  | 0x79 =>
    match (fld w0 18 6).toNat with
    | 0 => some (.trap (fld w0 10 8) (fld w0 0 10), (!(cOf w0)))
    | 1 => some (.ecall (fld w0 10 8) (fld w0 0 10), (!(cOf w0)))
    | 2 => some (.sleep (fld w0 10 8) (w0.getLsbD 0), (fld w0 1 9 == 0 && !(cOf w0)))
    | _ => none
  | 0x7A => some (.rte, (fld w0 18 6 == 0 && fld w0 0 18 == 0 && !(cOf w0)))
  | 0x7B => some (.ckpt (fld w0 10 8) (fld w0 0 6) (fld w1 16 8) (fld w1 0 16), (fld w0 18 6 == 0 && fld w0 6 4 == 0 && !(cOf w1)))
  | 0x7C =>
    match (fld w1 20 4).toNat with
    | 0 => some (.will (cOf w1) (getA2 w0 w1), true)
    | 1 => some (.claim (cOf w1) (getA2 w0 w1), true)
    | 2 => some (.eprobe (cOf w1) (getA2 w0 w1), true)
    | _ => none
  | 0x7D => some (.exit, (pay w0 == 0 && !(cOf w0)))
  | _ => none

/-- The instruction that three words name (R127, R128), none where checks 2 or 3 of R129 refuse them. -/
def parse (w0 w1 w2 : Word) : Option (Instr × Bool) :=
  match (opOf w0) / 16 with
  | 0 => parse0 (opOf w0) w0 w1 w2
  | 1 => parse1 (opOf w0) w0 w1 w2
  | 2 => parse2 (opOf w0) w0 w1 w2
  | 3 => parse3 (opOf w0) w0 w1 w2
  | 4 => parse4 (opOf w0) w0 w1 w2
  | 5 => parse5 (opOf w0) w0 w1 w2
  | 6 => parse6 (opOf w0) w0 w1 w2
  | 7 => parse7 (opOf w0) w0 w1 w2
  | _ => none

/-- The words of an instruction (R118 to R124); an event of the table has none. -/
def encode : Instr → List Word
  | .nop c => [leadW c 0x01 0]
  | .nopHeader budget mstk => [leadW false 0x01 (0xA#4 ++ (budget ++ (mstk ++ 0#8)))]
  | .sadd c d a b => [leadW c 0x02 (p3 d a b)]
  | .ssub c d a b => [leadW c 0x03 (p3 d a b)]
  | .smul c d a b => [leadW c 0x04 (p3 d a b)]
  | .smulh c d a b => [leadW c 0x05 (p3 d a b)]
  | .smulhu c d a b => [leadW c 0x06 (p3 d a b)]
  | .sdiv c d a b => [leadW c 0x07 (p3 d a b)]
  | .sdivu c d a b => [leadW c 0x08 (p3 d a b)]
  | .srem c d a b => [leadW c 0x09 (p3 d a b)]
  | .sremu c d a b => [leadW c 0x0A (p3 d a b)]
  | .sand c d a b => [leadW c 0x0B (p3 d a b)]
  | .sor c d a b => [leadW c 0x0C (p3 d a b)]
  | .sxor c d a b => [leadW c 0x0D (p3 d a b)]
  | .sshl c d a b => [leadW c 0x0E (p3 d a b)]
  | .sshr c d a b => [leadW c 0x0F (p3 d a b)]
  | .ssra c d a b => [leadW c 0x10 (p3 d a b)]
  | .smin c d a b => [leadW c 0x11 (p3 d a b)]
  | .smax c d a b => [leadW c 0x12 (p3 d a b)]
  | .sminu c d a b => [leadW c 0x13 (p3 d a b)]
  | .smaxu c d a b => [leadW c 0x14 (p3 d a b)]
  | .saddSi c d a i => [leadW false 0x15 (p3 d a 0x02), extW c i]
  | .saddSi32 d a i => [leadW false 0x16 (p3 d a 0x02), extW false (i.extractLsb' 0 24), extW false (0#16 ++ i.extractLsb' 24 8)]
  | .ssubSi c d a i => [leadW false 0x15 (p3 d a 0x03), extW c i]
  | .ssubSi32 d a i => [leadW false 0x16 (p3 d a 0x03), extW false (i.extractLsb' 0 24), extW false (0#16 ++ i.extractLsb' 24 8)]
  | .smulSi c d a i => [leadW false 0x15 (p3 d a 0x04), extW c i]
  | .smulSi32 d a i => [leadW false 0x16 (p3 d a 0x04), extW false (i.extractLsb' 0 24), extW false (0#16 ++ i.extractLsb' 24 8)]
  | .smulhSi c d a i => [leadW false 0x15 (p3 d a 0x05), extW c i]
  | .smulhSi32 d a i => [leadW false 0x16 (p3 d a 0x05), extW false (i.extractLsb' 0 24), extW false (0#16 ++ i.extractLsb' 24 8)]
  | .smulhuSi c d a i => [leadW false 0x15 (p3 d a 0x06), extW c i]
  | .smulhuSi32 d a i => [leadW false 0x16 (p3 d a 0x06), extW false (i.extractLsb' 0 24), extW false (0#16 ++ i.extractLsb' 24 8)]
  | .sdivSi c d a i => [leadW false 0x15 (p3 d a 0x07), extW c i]
  | .sdivSi32 d a i => [leadW false 0x16 (p3 d a 0x07), extW false (i.extractLsb' 0 24), extW false (0#16 ++ i.extractLsb' 24 8)]
  | .sdivuSi c d a i => [leadW false 0x15 (p3 d a 0x08), extW c i]
  | .sdivuSi32 d a i => [leadW false 0x16 (p3 d a 0x08), extW false (i.extractLsb' 0 24), extW false (0#16 ++ i.extractLsb' 24 8)]
  | .sremSi c d a i => [leadW false 0x15 (p3 d a 0x09), extW c i]
  | .sremSi32 d a i => [leadW false 0x16 (p3 d a 0x09), extW false (i.extractLsb' 0 24), extW false (0#16 ++ i.extractLsb' 24 8)]
  | .sremuSi c d a i => [leadW false 0x15 (p3 d a 0x0A), extW c i]
  | .sremuSi32 d a i => [leadW false 0x16 (p3 d a 0x0A), extW false (i.extractLsb' 0 24), extW false (0#16 ++ i.extractLsb' 24 8)]
  | .sandSi c d a i => [leadW false 0x15 (p3 d a 0x0B), extW c i]
  | .sandSi32 d a i => [leadW false 0x16 (p3 d a 0x0B), extW false (i.extractLsb' 0 24), extW false (0#16 ++ i.extractLsb' 24 8)]
  | .sorSi c d a i => [leadW false 0x15 (p3 d a 0x0C), extW c i]
  | .sorSi32 d a i => [leadW false 0x16 (p3 d a 0x0C), extW false (i.extractLsb' 0 24), extW false (0#16 ++ i.extractLsb' 24 8)]
  | .sxorSi c d a i => [leadW false 0x15 (p3 d a 0x0D), extW c i]
  | .sxorSi32 d a i => [leadW false 0x16 (p3 d a 0x0D), extW false (i.extractLsb' 0 24), extW false (0#16 ++ i.extractLsb' 24 8)]
  | .sshlSi c d a i => [leadW false 0x15 (p3 d a 0x0E), extW c i]
  | .sshlSi32 d a i => [leadW false 0x16 (p3 d a 0x0E), extW false (i.extractLsb' 0 24), extW false (0#16 ++ i.extractLsb' 24 8)]
  | .sshrSi c d a i => [leadW false 0x15 (p3 d a 0x0F), extW c i]
  | .sshrSi32 d a i => [leadW false 0x16 (p3 d a 0x0F), extW false (i.extractLsb' 0 24), extW false (0#16 ++ i.extractLsb' 24 8)]
  | .ssraSi c d a i => [leadW false 0x15 (p3 d a 0x10), extW c i]
  | .ssraSi32 d a i => [leadW false 0x16 (p3 d a 0x10), extW false (i.extractLsb' 0 24), extW false (0#16 ++ i.extractLsb' 24 8)]
  | .sminSi c d a i => [leadW false 0x15 (p3 d a 0x11), extW c i]
  | .sminSi32 d a i => [leadW false 0x16 (p3 d a 0x11), extW false (i.extractLsb' 0 24), extW false (0#16 ++ i.extractLsb' 24 8)]
  | .smaxSi c d a i => [leadW false 0x15 (p3 d a 0x12), extW c i]
  | .smaxSi32 d a i => [leadW false 0x16 (p3 d a 0x12), extW false (i.extractLsb' 0 24), extW false (0#16 ++ i.extractLsb' 24 8)]
  | .sminuSi c d a i => [leadW false 0x15 (p3 d a 0x13), extW c i]
  | .sminuSi32 d a i => [leadW false 0x16 (p3 d a 0x13), extW false (i.extractLsb' 0 24), extW false (0#16 ++ i.extractLsb' 24 8)]
  | .smaxuSi c d a i => [leadW false 0x15 (p3 d a 0x14), extW c i]
  | .smaxuSi32 d a i => [leadW false 0x16 (p3 d a 0x14), extW false (i.extractLsb' 0 24), extW false (0#16 ++ i.extractLsb' 24 8)]
  | .smovSi c d i => [leadW false 0x15 (p3 d 0 0x01), extW c i]
  | .smovSi32 d i => [leadW false 0x16 (p3 d 0 0x01), extW false (i.extractLsb' 0 24), extW false (0#16 ++ i.extractLsb' 24 8)]
  | .scmp c d a cc i imm => [leadW false 0x17 (d ++ (a ++ (0#3 ++ (BitVec.ofBool i ++ cc)))), extW c imm]
  | .ssel c d a b => [leadW c 0x18 (p3 d a b)]
  | .sbfe c d a pos len => [leadW false 0x19 (p3 d a 0), extW c (0#13 ++ (len ++ pos))]
  | .sbfeu c d a pos len => [leadW false 0x19 (p3 d a 1), extW c (0#13 ++ (len ++ pos))]
  | .sbfi c d a pos len => [leadW false 0x19 (p3 d a 2), extW c (0#13 ++ (len ++ pos))]
  | .sclz c d a => [leadW c 0x1A (p3 d a 0)]
  | .sctz c d a => [leadW c 0x1A (p3 d a 1)]
  | .spopc c d a => [leadW c 0x1A (p3 d a 2)]
  | .sbrev c d a => [leadW c 0x1A (p3 d a 3)]
  | .sext8 c d a => [leadW c 0x1A (p3 d a 4)]
  | .sext16 c d a => [leadW c 0x1A (p3 d a 5)]
  | .sadd64 c d a i imm => [leadW false 0x1B (d ++ (a ++ (BitVec.ofBool i ++ (0#4 ++ 0#3)))), extW c imm]
  | .ssub64 c d a i imm => [leadW false 0x1B (d ++ (a ++ (BitVec.ofBool i ++ (0#4 ++ 1#3)))), extW c imm]
  | .smul64 c d a i imm => [leadW false 0x1B (d ++ (a ++ (BitVec.ofBool i ++ (0#4 ++ 2#3)))), extW c imm]
  | .sshl64 c d a i imm => [leadW false 0x1B (d ++ (a ++ (BitVec.ofBool i ++ (0#4 ++ 3#3)))), extW c imm]
  | .sshr64 c d a i imm => [leadW false 0x1B (d ++ (a ++ (BitVec.ofBool i ++ (0#4 ++ 4#3)))), extW c imm]
  | .ssra64 c d a i imm => [leadW false 0x1B (d ++ (a ++ (BitVec.ofBool i ++ (0#4 ++ 5#3)))), extW c imm]
  | .smov64 c d i imm => [leadW false 0x1B (d ++ (0#8 ++ (BitVec.ofBool i ++ (0#4 ++ 6#3)))), extW c imm]
  | .setfmt c src a imm => [leadW false 0x2D (p3 src a 0), extW c imm]
  | .sget c d n => [leadW c 0x2E (p3 d n 0)]
  | .sput c n a => [leadW c 0x2F (p3 n a 0)]
  | .b c off => [leadW c 0x20 (0#4 ++ off)]
  | .bc c cond off => [leadW c 0x21 (cond ++ off)]
  | .bu c ka off => [leadW c 0x22 (ka ++ off)]
  | .loop c a imm => [leadW false 0x23 (p3 0 a 0), extW c imm]
  | .call off => [leadW false 0x24 (0#4 ++ off)]
  | .callp a => [leadW false 0x25 (p3 0 a 0)]
  | .ret => [leadW false 0x26 0]
  | .stub ident => [leadW false 0x27 (0#4 ++ ident)]
  | .mpush c ka => [leadW c 0x28 (0#4 ++ (ka ++ (0#4 ++ (0#4 ++ 0#8))))]
  | .melse c ka => [leadW c 0x29 (0#4 ++ (ka ++ (0#4 ++ (0#4 ++ 0#8))))]
  | .mpop c => [leadW c 0x2A 0]
  | .kand c kd ka kb => [leadW c 0x2B (kd ++ (ka ++ (kb ++ (0#4 ++ 0#8))))]
  | .kor c kd ka kb => [leadW c 0x2B (kd ++ (ka ++ (kb ++ (1#4 ++ 0#8))))]
  | .kxor c kd ka kb => [leadW c 0x2B (kd ++ (ka ++ (kb ++ (2#4 ++ 0#8))))]
  | .kandn c kd ka kb => [leadW c 0x2B (kd ++ (ka ++ (kb ++ (3#4 ++ 0#8))))]
  | .knot c kd ka => [leadW c 0x2B (kd ++ (ka ++ (0#4 ++ (4#4 ++ 0#8))))]
  | .kmov c kd ka => [leadW c 0x2B (kd ++ (ka ++ (0#4 ++ (5#4 ++ 0#8))))]
  | .kshl c kd ka n => [leadW c 0x2B (kd ++ (ka ++ (0#4 ++ (6#4 ++ n))))]
  | .kshr c kd ka n => [leadW c 0x2B (kd ++ (ka ++ (0#4 ++ (7#4 ++ n))))]
  | .kpopc c ka s => [leadW c 0x2B (0#4 ++ (ka ++ (0#4 ++ (8#4 ++ s))))]
  | .kffs c ka s => [leadW c 0x2B (0#4 ++ (ka ++ (0#4 ++ (9#4 ++ s))))]
  | .kfroms c kd s => [leadW c 0x2B (kd ++ (0#4 ++ (0#4 ++ (10#4 ++ s))))]
  | .ktos c ka s => [leadW c 0x2B (0#4 ++ (ka ++ (0#4 ++ (11#4 ++ s))))]
  | .voteK c kd ka kb => [leadW c 0x2C (kd ++ (ka ++ (kb ++ (0#4 ++ 0#8))))]
  | .voteF c ka kb => [leadW c 0x2C (0#4 ++ (ka ++ (kb ++ (1#4 ++ 0#8))))]
  | .voteKf c kd ka kb => [leadW c 0x2C (kd ++ (ka ++ (kb ++ (2#4 ++ 0#8))))]
  | .spawn d a b => [leadW false 0x30 (p3 d a b)]
  | .tnext c d a => [leadW c 0x31 (p3 d a 0)]
  | .hpush c d a => [leadW false 0x32 (p3 d a 0), extW c 0]
  | .hadmit c d a b => [leadW false 0x33 (p3 d a b), extW c (0#4 ++ 0#20)]
  | .hadmitMulti c d a b => [leadW false 0x33 (p3 d a b), extW c (1#4 ++ 0#20)]
  | .vaddF32Short c d a b => [leadW c 0x34 (p3 d a b)]
  | .vmulF32Short c d a b => [leadW c 0x35 (p3 d a b)]
  | .vaddI32Short c d a b => [leadW c 0x36 (p3 d a b)]
  | .vmovShort c d a => [leadW c 0x37 (p3 d a 0)]
  | .vadd c p => [v4w0 0x38 p, v4w1 c p]
  | .vsub c p => [v4w0 0x39 p, v4w1 c p]
  | .vmul c p => [v4w0 0x3A p, v4w1 c p]
  | .vfma c p => [v4w0 0x3B p, v4w1 c p]
  | .vmin c p => [v4w0 0x3C p, v4w1 c p]
  | .vmax c p => [v4w0 0x3C p, v4w1 c p]
  | .vmulh c p => [v4w0 0x55 p, v4w1 c p]
  | .vrcp c p => [v4w0 0x3D p, v4w1 c p]
  | .vsqrt c p => [v4w0 0x3E p, v4w1 c p]
  | .vrsqrt c p => [v4w0 0x3E p, v4w1 c p]
  | .vlog2 c p => [v4w0 0x3F p, v4w1 c p]
  | .vexp2 c p => [v4w0 0x40 p, v4w1 c p]
  | .vand c p => [v4w0 0x41 p, v4w1 c p]
  | .vor c p => [v4w0 0x42 p, v4w1 c p]
  | .vxor c p => [v4w0 0x43 p, v4w1 c p]
  | .vshl c p => [v4w0 0x44 p, v4w1 c p]
  | .vshr c p => [v4w0 0x45 p, v4w1 c p]
  | .vsra c p => [v4w0 0x45 p, v4w1 c p]
  | .vaddVs c p => [vsw0 0x54 p, vsw1 c 0x38 p]
  | .vsubVs c p => [vsw0 0x54 p, vsw1 c 0x39 p]
  | .vmulVs c p => [vsw0 0x54 p, vsw1 c 0x3A p]
  | .vfmaVs c p => [vsw0 0x54 p, vsw1 c 0x3B p]
  | .vminVs c p => [vsw0 0x54 p, vsw1 c 0x3C p]
  | .vmaxVs c p => [vsw0 0x54 p, vsw1 c 0x3C p]
  | .vrcpVs c p => [vsw0 0x54 p, vsw1 c 0x3D p]
  | .vsqrtVs c p => [vsw0 0x54 p, vsw1 c 0x3E p]
  | .vrsqrtVs c p => [vsw0 0x54 p, vsw1 c 0x3E p]
  | .vlog2Vs c p => [vsw0 0x54 p, vsw1 c 0x3F p]
  | .vexp2Vs c p => [vsw0 0x54 p, vsw1 c 0x40 p]
  | .vandVs c p => [vsw0 0x54 p, vsw1 c 0x41 p]
  | .vorVs c p => [vsw0 0x54 p, vsw1 c 0x42 p]
  | .vxorVs c p => [vsw0 0x54 p, vsw1 c 0x43 p]
  | .vshlVs c p => [vsw0 0x54 p, vsw1 c 0x44 p]
  | .vshrVs c p => [vsw0 0x54 p, vsw1 c 0x45 p]
  | .vsraVs c p => [vsw0 0x54 p, vsw1 c 0x45 p]
  | .vcmp c p => [v4w0 0x46 p, v4w1 c p]
  | .vsel c p => [v4w0 0x47 p, v4w1 c p]
  | .vcvt c p => [v4w0 0x48 p, v4w1 c p]
  | .vcvtLegacy c p => [v4w0 0x49 p, v4w1 c p]
  | .vpack c p => [v4w0 0x4A p, v4w1 c p]
  | .vunpack c p => [v4w0 0x4B p, v4w1 c p]
  | .vperm c p => [v4w0 0x4C p, v4w1 c p]
  | .vbcast c p => [vsw0 0x4D p, vsw1 c 0x00 p]
  | .vrot c p => [vsw0 0x4D p, vsw1 c 0x01 p]
  | .vshup c p => [vsw0 0x4D p, vsw1 c 0x02 p]
  | .vshdn c p => [vsw0 0x4D p, vsw1 c 0x03 p]
  | .vsplat c p => [vsw0 0x4D p, vsw1 c 0x04 p]
  | .vred c p => [v4w0 0x4E p, v4w1 c p]
  | .vscan c p => [v4w0 0x4F p, v4w1 c p]
  | .vredmaxi c p => [v4w0 0x50 p, v4w1 c p]
  | .vtopk c p => [v4w0 0x51 p, v4w1 c p]
  | .vdot4 c p => [v4w0 0x52 p, v4w1 c p]
  | .vrand c p => [v4w0 0x53 p, v4w1 c p]
  | .vclz c p => [v4w0 0x56 p, v4w1 c p]
  | .vpopc c p => [v4w0 0x56 p, v4w1 c p]
  | .vbrev c p => [v4w0 0x56 p, v4w1 c p]
  | .vrnd c p => [v4w0 0x57 p, v4w1 c p]
  | .ld c p => [mw0 0x5C p, mw1 c p]
  | .st c p => [mw0 0x5D p, mw1 c p]
  | .sld c p => [mw0 0x5E p, mw1 c p]
  | .sst c p => [mw0 0x5F p, mw1 c p]
  | .ldp c p => [mw0 0x60 p, mw1 c p]
  | .stp c p => [mw0 0x61 p, mw1 c p]
  | .lds16 c p => [mw0 0x60 p, mw1 c p]
  | .ldt p => [tw0 0x62 p, tw1 0#2 p, tw2 false p]
  | .stt p => [tw0 0x62 p, tw1 1#2 p, tw2 false p]
  | .cpy p => [a3w0 0x63 p, a3w1 0#4 p, extW false p.imm]
  | .cpyt p => [tw0 0x64 p, tw1 0#2 p, tw2 false p]
  | .atom c p => [mw0 0x65 p, mw1 c p]
  | .hinc c p => [mw0 0x66 p, mw1 c p]
  | .ldv c p => [mw0 0x67 p, mw1 c p]
  | .valset c d a => [leadW false 0x68 (p3 d a 0), extW c 0]
  | .valst c d a sv => [leadW false 0x68 (p3 d a 1), extW c (0#16 ++ sv)]
  | .casv c p => [mw0 0x69 p, mw1 c p]
  | .chunk c d a => [leadW c 0x6A (p3 d a 0)]
  | .waitc c nl ns nc nm => [leadW false 0x6B (p3 0 0 0), extW c (nm ++ (nc ++ (ns ++ nl)))]
  | .prefL1 c a n => [leadW false 0x6B (p3 0 a 1), extW c (0#8 ++ n)]
  | .prefL2 c a n => [leadW false 0x6B (p3 0 a 2), extW c (0#8 ++ n)]
  | .cwb c a n => [leadW false 0x6B (p3 0 a 3), extW c (0#8 ++ n)]
  | .cinv c a n => [leadW false 0x6B (p3 0 a 4), extW c (0#8 ++ n)]
  | .mmq p => [tw0 0x6C p, tw1 0#2 p, tw2 false p]
  | .mmqSp p => [tw0 0x6C p, tw1 0#2 p, tw2 true p]
  | .bload p => [tw0 0x70 p, tw1 0#2 p, tw2 false p]
  | .accz p => [tw0 0x6F p, tw1 0#2 p, tw2 false p]
  | .accrd p => [tw0 0x6F p, tw1 1#2 p, tw2 false p]
  | .accwr p => [tw0 0x6F p, tw1 2#2 p, tw2 false p]
  | .mwalk c p => [a2w0 0x6D p, a2w1 c 0#4 p]
  | .mfence c d => [leadW c 0x6E (p3 d 0 0)]
  | .mwait c a => [leadW c 0x6E (p3 0 a 1)]
  | .mparam c p => [a2w0 0x71 p, a2w1 c 0#4 p]
  | .fence c order scope => [leadW false 0x72 (p3 0 0 0), extW c (0#19 ++ (order ++ scope))]
  | .join c name => [leadW false 0x72 (p3 0 0 1), extW c (0#18 ++ name)]
  | .leave c => [leadW false 0x72 (p3 0 0 2), extW c 0]
  | .barr c d a lvl name => [leadW false 0x73 (p3 d a 0), extW c (0#16 ++ (name ++ lvl))]
  | .bwait c a lvl name => [leadW false 0x73 (p3 0 a 1), extW c (0#16 ++ (name ++ lvl))]
  | .barrw c d a lvl name => [leadW false 0x73 (p3 d a 2), extW c (0#16 ++ (name ++ lvl))]
  | .barOld c name count => [leadW false 0x73 (p3 0 0 3), extW c (count ++ (name ++ 1#2))]
  | .binit c a expected => [leadW false 0x74 (p3 0 a 0), extW c (0#8 ++ expected)]
  | .bfree c a => [leadW false 0x74 (p3 0 a 1), extW c 0]
  | .sarr c d a => [leadW false 0x74 (p3 d a 2), extW c 0]
  | .swait c d a sb => [leadW false 0x74 (p3 d a 3), extW c (0#16 ++ sb)]
  | .semacq c d a n i amount => [leadW false 0x75 (p3 d a 0), extW c (amount ++ (BitVec.ofBool i ++ (0#1 ++ n)))]
  | .semadd c a n i amount => [leadW false 0x75 (p3 0 a 1), extW c (amount ++ (BitVec.ofBool i ++ (0#1 ++ n)))]
  | .semaddW c d a n i amount => [leadW false 0x75 (p3 d a 1), extW c (amount ++ (BitVec.ofBool i ++ (1#1 ++ n)))]
  | .gbind p => [a3w0 0x77 p, a3w1 0#4 p, extW false p.imm]
  | .gstep c p => [a2w0 0x78 p, a2w1 c 0#4 p]
  | .gmask p => [a3w0 0x77 p, a3w1 1#4 p, extW false p.imm]
  | .gmaskDelta p => [a3w0 0x77 p, a3w1 2#4 p, extW false p.imm]
  | .gfork c p => [a2w0 0x78 p, a2w1 c 1#4 p]
  | .groll c p => [a2w0 0x78 p, a2w1 c 2#4 p]
  | .gcommit c p => [a2w0 0x78 p, a2w1 c 3#4 p]
  | .gfree c p => [a2w0 0x78 p, a2w1 c 4#4 p]
  | .trap a code => [leadW false 0x79 (0#6 ++ (a ++ code))]
  | .ecall a code => [leadW false 0x79 (1#6 ++ (a ++ code))]
  | .sleep a sem => [leadW false 0x79 (2#6 ++ (a ++ (0#9 ++ BitVec.ofBool sem)))]
  | .rte => [leadW false 0x7A 0]
  | .ckpt vb sb sg vm => [leadW false 0x7B (0#6 ++ (vb ++ (0#4 ++ sb))), extW false (sg ++ vm)]
  | .will c p => [a2w0 0x7C p, a2w1 c 0#4 p]
  | .claim c p => [a2w0 0x7C p, a2w1 c 1#4 p]
  | .eprobe c p => [a2w0 0x7C p, a2w1 c 2#4 p]
  | .exit => [leadW false 0x7D 0]
  | _ => []

/-- How many words an OP takes (R127); 0 for an OP that is not an instruction (check 2 of R129). -/
def opWords (op : Nat) : Nat :=
  if op = 0 then 0
  else if op ≤ 0x14 then 1
  else if op = 0x15 then 2
  else if op = 0x16 then 3
  else if op = 0x17 then 2
  else if op = 0x18 then 1
  else if op = 0x19 then 2
  else if op = 0x1A then 1
  else if op = 0x1B then 2
  else if op ≤ 0x1F then 0
  else if op ≤ 0x22 then 1
  else if op = 0x23 then 2
  else if op ≤ 0x2C then 1
  else if op = 0x2D then 2
  else if op ≤ 0x31 then 1
  else if op ≤ 0x33 then 2
  else if op ≤ 0x37 then 1
  else if op ≤ 0x57 then 2
  else if op ≤ 0x5B then 0
  else if op ≤ 0x61 then 2
  else if op ≤ 0x64 then 3
  else if op ≤ 0x69 then 2
  else if op = 0x6A then 1
  else if op = 0x6B then 2
  else if op = 0x6C then 3
  else if op = 0x6D then 2
  else if op = 0x6E then 1
  else if op ≤ 0x70 then 3
  else if op ≤ 0x75 then 2
  else if op = 0x76 then 0
  else if op = 0x77 then 3
  else if op = 0x78 then 2
  else if op ≤ 0x7A then 1
  else if op ≤ 0x7C then 2
  else if op = 0x7D then 1
  else 0

/-- The pipe of an OP (R114, R127): none for `nop` and for a reserved OP. -/
def opPipe (op : Nat) : Pipe :=
  if opWords op = 0 then .none
  else if op = 0x01 then .none
  else if op ≤ 0x1B then .S
  else if op ≤ 0x2D then .C
  else if op ≤ 0x2F then .S
  else if op ≤ 0x31 then .C
  else if op ≤ 0x33 then .A
  else if op ≤ 0x57 then .V
  else if op ≤ 0x62 then .L
  else if op ≤ 0x64 then .A
  else if op ≤ 0x6B then .L
  else if op ≤ 0x71 then .A
  else if op ≤ 0x75 then .C
  else if op ≤ 0x78 then .A
  else if op ≤ 0x7B then .Y
  else if op = 0x7C then .A
  else if op = 0x7D then .C
  else .none

/-- The experimental forms (R26); the class of `mmq.sp` follows its B type. -/
def Instr.experimental : Instr → Bool
  | .vrand _ _ | .hadmitMulti _ _ _ _ | .gmaskDelta _ => true
  | .mmqSp p => p.btype == 6
  | _ => false

/-- What the checks 2 to 6 of R129 make of an instruction's words. -/
inductive Decoded where
  | ok (i : Instr) (n : Nat)
  | illegalOpcode
  | illegalEncoding
deriving DecidableEq, Repr

/-- The word that stands in for a word beyond the packet, which R129 does not read: check 3 passes on it. -/
def unreadWord (op : Nat) : Word := if op = 0x54 then 0x7F380000#32 else 0x7F000000#32

/-- Whether an instruction that carries C ends before word 2 and the instruction after it uses no pipe of the group (R112). -/
def chainOk (used : List Pipe) (rest : List Word) : Bool :=
  match rest with
  | [] => false
  | w :: _ => opPipe (opOf w) == .none || !(used.contains (opPipe (opOf w)))

/-- Check 5 of R129 on the words of an instruction of n words: it fits its packet, its extension words have OP 0x7F, no
C bit stands on a word that is not its last, and its C bit obeys R112. -/
def wordsOk (grp : List Pipe) (n : Nat) (ws : List Word) : Bool :=
  n ≤ ws.length &&
  ((ws.take n).drop 1).all (fun w => opOf w == 0x7F) &&
  ((ws.take n).dropLast).all (fun w => !cOf w) &&
  (!(((ws.take n).getLast?.map cOf).getD false) ||
    chainOk (opPipe (opOf (ws.headD 0)) :: grp) (ws.drop n))

/-- Checks 2 to 6 of R129 on the words from an instruction's first to the end of its packet (1 to 3 words). `exp` says
whether R25 permits experimental forms, `grp` gives the pipes of the earlier members of its issue group. DEDUCED (log 21). DEDUCED (log 22). -/
def decodeWords (exp : Bool) (grp : List Pipe) (ws : List Word) : Decoded :=
  let w0 := ws.headD 0
  let n := opWords (opOf w0)
  if n = 0 then .illegalOpcode
  else
    let x := unreadWord (opOf w0)
    match parse w0 (ws.getD 1 x) (ws.getD 2 x) with
    | none => .illegalOpcode
    | some (i, zeros) =>
      if i.experimental && !exp then .illegalOpcode
      else if !wordsOk grp n ws then .illegalEncoding
      else if zeros && i.wf then .ok i n
      else .illegalEncoding

/-- A little-endian word (R109). -/
def wordOfBytes (b0 b1 b2 b3 : Byte) : Word := b3 ++ (b2 ++ (b1 ++ b0))

/-- The words that the bytes from an instruction's first to the end of its packet hold; a cut-off word is dropped. -/
def wordsOfBytes : List Byte → List Word
  | b0 :: b1 :: b2 :: b3 :: rest => wordOfBytes b0 b1 b2 b3 :: wordsOfBytes rest
  | _ => []

/-- The decoder on bytes: total, refusing by name. -/
def decode (exp : Bool) (grp : List Pipe) (bytes : List Byte) : Decoded := decodeWords exp grp (wordsOfBytes bytes)

/-- The bytes of a word, lowest address first (R109). -/
def bytesOfWord (w : Word) : List Byte := [fld w 0 8, fld w 8 8, fld w 16 8, fld w 24 8]

/-- The three words that hold a table word of nbits bits: word 0 at bits 31:0, later words above it, zero beyond. -/
def tableWords (nbits w : Nat) : List Word :=
  let v := w % 2 ^ nbits
  [BitVec.ofNat 32 v, BitVec.ofNat 32 (v >>> 32), BitVec.ofNat 32 (v >>> 64)]

/-- The instruction that the decoder reads from an instruction whose bits are w, as spec/opcode_table.json numbers them. -/
def decodeTableWord (nbits w : Nat) : Option Instr :=
  match decode true [] ((tableWords nbits w).flatMap bytesOfWord) with
  | .ok i _ => some i
  | _ => none

end Sys2Proof
end

