-- ==== Sys2Proof/Machine/Fetch.lean ====
section
/-! DEFINITION. Reading code: a word as fetch reads it through the instruction cache (R115, R116), function headers (R21,
R23) and the words of the wave's next instruction. -/

namespace Sys2Proof.Machine

/-- What reading a code word gives (R116). -/
inductive Code where
  | word (x : Word)
  | miss (page : Nat)
  /-- An engine owns the line (R321). -/
  | held
  | fail (fsub : Nat)
deriving DecidableEq, Repr

/-- The line of a core's instruction cache (R115). -/
def State.codeLine (s : State) (core line : Nat) : Option CodeLine := s.icache.find? (fun x => x.core == core && x.line == line)

/-- The code word at an address, in the wave's space and with execute permission: of the core's instruction cache, or, on a
miss, of the line's home. A peer's word is free, and may be poisoned (R404). DESIGN CHOICE (log 12). A word at or beyond 2^57 of an
instruction whose pc lies below gives FSUB 4 as well. DESIGN CHOICE (log 90). -/
def State.codeWord (s : State) (w : Wave) (a : Nat) : Code :=
  if 2 ^ 57 ≤ a then .fail 4
  else
    match s.translate w.codeView a with
    | .miss p => .miss p
    | .failed => .fail 1
    | .invalid => .fail 5
    | .outside => .fail 6
    | .ok p =>
      if !p.x then .fail 2
      else if isPeerPa p.pa then (if Config.peerPoisoned s.draws (p.pa / 128) then .fail 3 else .word (Config.freeWord (s.draws + a)))
      else
        match s.codeLine w.core (p.pa / 128) with
        | some x => .word (BitVec.ofNat 32 (leNat ((x.data.drop (p.pa % 128)).take 4)))
        | none =>
          if s.homeHeld none (p.pa / 128) (some w.core) then .held
          else if s.lineBad (p.pa / 128) then .fail 3
          else .word (BitVec.ofNat 32 (leNat (s.homeBytes p.pa 4)))

/-- A line comes into a core's instruction cache of 64 KiB; a full one loses its oldest line (R115). DESIGN CHOICE (log 64). -/
def State.codeFill (s : State) (core line : Nat) (data : List Byte) : State :=
  let mine := s.icache.filter (fun x => x.core == core)
  let kept := if mine.length < 512 then s.icache else match mine.head? with | some x => s.icache.erase x | none => s.icache
  { s with icache := kept ++ [{ core := core, line := line, data := data }] }

/-- The caches take what fetching a code word brings (R115, R244): translation and line. A fetch that fails has walked and checked as
well (R249, R250). -/
def State.codeFetch (s : State) (w : Wave) (a : Nat) : State :=
  match s.translate w.codeView a, s.codeWord w a with
  | .ok p, .word _ =>
    let s := s.tlbFill w.codeView a
    if isPeerPa p.pa || (s.codeLine w.core (p.pa / 128)).isSome then s
    else
      let (s, d) := s.homeRead (p.pa / 128) (some w.core)
      s.codeFill w.core (p.pa / 128) d
  | .ok p, .fail 3 => if isPeerPa p.pa then { s with draws := s.draws + 1 } else (s.walkCheck w.codeView a).checkLine (p.pa / 128)
  | _, _ => s.walkCheck w.codeView a

/-- The instruction caches of a partition's cores are empty (R115). -/
def State.codeInvalidate (s : State) (part : Nat) : State :=
  { s with icache := s.icache.filter (fun x => !(s.part part).clusters.testBit (coreCluster x.core)) }

/-- A FETCH trap (R116). -/
def fetchTrap (fsub : Nat) (pc fa1 fa2 : DWord) : Trap :=
  { cause := 0x13, fsub := fsub, pc := some pc, faddr1 := fa1, faddr2 := fa2 }

/-- A word that meets R21 in full: its BUDGET and MSTK. -/
def headerOf (x : Word) : Option (Nat × Nat) :=
  if fld x 20 12 == 0x01A && (fld x 14 6).toNat ≤ 32 && (fld x 8 6).toNat ≤ 32 && fld x 0 8 == 0 then
    some ((fld x 14 6).toNat, (fld x 8 6).toNat)
  else none

/-- A `stub` word as R23 recognises it. -/
def isStub (x : Word) : Bool := fld x 20 12 == 0x270

/-- What the header check of R23 gives. -/
inductive Header where
  | ok (budget : Nat)
  | miss (page : Nat)
  | held
  | trap (t : Trap)
deriving DecidableEq, Repr

/-- The check of a call target (R23): `extra` entries are pushed before the callee's own; traps report pc. A `stub` of MSTK 0 that leaves
no room for `extra` overflows here, before the depth of the call stack is looked at (R198). DESIGN CHOICE (log 87). -/
def State.header (s : State) (w : Wave) (target : DWord) (extra : Nat) (pc : DWord) : Header :=
  match s.codeWord w target.toNat with
  | .miss p => .miss p
  | .held => .held
  | .fail f => .trap (fetchTrap f pc target target)
  | .word x =>
    if isStub x then
      if 32 < w.maskStack.length + extra then .trap { cause := 0x04, pc := some pc } else .ok 0
    else
      match headerOf x with
      | none => .trap { illegalEncoding with pc := some pc }
      | some (budget, mstk) =>
        if 32 < w.maskStack.length + extra + mstk then .trap { cause := 0x04, pc := some pc } else .ok budget

end Sys2Proof.Machine
end

