-- ==== Sys2Proof/Machine/Version.lean ====
section
/-! DEFINITION. Versioned operations (R275 to R278), prefetch and cache control (R281), and `waitc` (R280). -/

namespace Sys2Proof.Machine

/-- The registers of a data word of n registers with its version (R275). -/
def versionWords (data : List Word) (high : Word) (v : BitVec 48) : List Word :=
  data ++ [v.truncate 32, high ||| ((v >>> (32 : Nat)).truncate 32 &&& 0xFFFF)]

/-- The lanes' data and versions, those of one line read in one step at its home (R275). -/
def State.ldvAll (s : State) (core n : Nat) (accs : List Acc) : List Nat → State × List (Nat × List Word)
  | [] => (s, [])
  | line :: r =>
    let s := s.homeTake core line
    let here := (lineAccs accs line).map (fun a => (a.lane, versionWords (wordsFrom n (s.homeBytes a.page.pa (4 * n))) 0 (s.version line)))
    let (s, rest) := s.ldvAll core n accs r
    (s, here ++ rest)

/-- `ldv` (R275). -/
def execLdv (c : Bool) (p : MF) (s : State) : Host.Outcome State Fault Refusal :=
  s.onWave fun w =>
    let act := w.active p.km.toNat; let n := regsOf p.width
    match s.spillTrap w (offsetRegs p) (runFrom p.vt.toNat (n + 2)) with
    | some t => s.takeTrap w t
    | none =>
      match s.resolve w.view ((lanesOf act).map (fun l => (l, globalAddr w (s.readV w) p (MF.disp p) l))) (MF.size p) false denyPeer with
      | .trap t => s.takeTrap w t
      | .wait pages => s.parkPages w pages
      | .ok accs =>
        if s.homeBlocked w 0 accs then s.stall w
        else
          let s := s.reach w accs true
          match s.poisonTrap w.core accs with
          | some t => s.takeTrap w t
          | none =>
            let (s, res) := (s.spillRead w (offsetRegs p)).ldvAll w.core n accs (accLines accs)
            let s := if p.order = 1 then s.invalidate w.core p.scope.toNat else s
            (s.issueOp w (some .LD) false (.regs (vecWrites p.vt.toNat (n + 2) act res)) .none []).advanceWave w.uid 2 c .L

/-- One lane of `casv` at the home of its line: it compares the line's version, writes when it is the one expected, a release at the
scope (0: none), and gets the version after. -/
def State.casvOne (s : State) (core scope : Nat) (p : MF) (rd : Nat → VReg) (a : Acc) : State × Bool × List Word :=
  let n := regsOf p.width; let line := a.page.pa / 128
  if s.version line = BitVec.ofNat 48 (operandAt rd (p.vt.toNat + n) 2 a.lane) then
    let s := if scope ≠ 0 then s.recordRelease core line scope else s
    let s := s.homePut a.page.pa ((toBytes (4 * n) (operandAt rd p.vt.toNat n a.lane)))
    (s, true, versionWords [] 0x80000000 (s.version line))
  else (s, false, versionWords [] 0 (s.version line))

/-- The lanes of one line, one after another: whether one wrote, and their results. -/
def State.casvLine (s : State) (core scope : Nat) (p : MF) (rd : Nat → VReg) : List Acc → State × Bool × List (Nat × List Word)
  | [] => (s, false, [])
  | a :: r =>
    let (s, wrote, ws) := s.casvOne core scope p rd a
    let (s, wrotes, rest) := s.casvLine core scope p rd r
    (s, wrote || wrotes, (a.lane, ws) :: rest)

/-- Each line touched in one atomic step (R278). -/
def State.casvAll (s : State) (core scope : Nat) (p : MF) (rd : Nat → VReg) (accs : List Acc) : List Nat → State × Bool × List (Nat × List Word)
  | [] => (s, false, [])
  | line :: r =>
    let (s, wrote, here) := (s.homeTake core line).casvLine core scope p rd (lineAccs accs line)
    let (s, wrotes, rest) := s.casvAll core scope p rd accs r
    (s, wrote || wrotes, here ++ rest)

/-- `casv` (R278). Bits 31:16 of the expected version are met before any address is. DESIGN CHOICE (log 81). -/
def execCasv (c : Bool) (p : MF) (s : State) : Host.Outcome State Fault Refusal :=
  s.onWave fun w =>
    let act := w.active p.km.toNat; let n := regsOf p.width
    let srcs := offsetRegs p ++ runFrom p.vt.toNat (n + 2)
    match s.spillTrap w srcs (runFrom (p.vt.toNat + n) 2) with
    | some t => s.takeTrap w t
    | none =>
      if (lanesOf act).any (fun l => (laneOf (s.readV w (p.vt.toNat + n + 1)) l).toNat / 2 ^ 16 != 0) then s.takeTrap w illegalEncoding
      else
        match s.resolve w.view ((lanesOf act).map (fun l => (l, globalAddr w (s.readV w) p (MF.disp p) l))) (MF.size p) true denyPeer with
        | .trap t => s.takeTrap w t
        | .wait pages => s.parkPages w pages
        | .ok accs =>
          let scope := if act = 0 then 0 else w.releaseScope p.order p.scope
          if s.homeBlocked w scope accs then s.stall w
          else
            let s := s.reach w accs true
            match s.poisonTrap w.core accs with
            | some t => s.takeTrap w t
            | none =>
              let (s', wrote, res) := (s.spillRead w (distinct srcs)).casvAll w.core scope p (s.readV w) accs (accLines accs)
              let s' := if wrote then s'.fenceUsed w.uid else s'
              let s' := if p.order.toNat % 2 = 1 then s'.invalidate w.core p.scope.toNat else s'
              ((s'.sealWave w.uid).issueOp w (some .LD) false (.regs (vecWrites (p.vt.toNat + n) 2 act res)) .none []).advanceWave w.uid 2 c .L

/-! ### valset, valst (R276, R277) -/

/-- A version-set record as it lies in scratchpad: SADDR and the entries (address, version); none when N or a reserved bit is wrong. -/
def parseVersionSet (header : List Byte) (entries : List (List Byte)) : Option (Nat × List (Nat × Nat)) :=
  let h := leNat header
  let es := entries.map leNat
  if bitsOf h 127 121 == 0 && bitsOf h 63 4 == 0 && es.all (fun e => bitsOf e 127 112 == 0 && bitsOf e 63 57 == 0) then
    some (bitsOf h 120 64, es.map (fun e => (bitsOf e 56 0, bitsOf e 111 64)))
  else none

/-- The least entry whose line has another version. -/
def State.firstMismatch (s : State) (es : List (Acc × Nat)) : Option Nat :=
  (es.zipIdx.find? (fun e => s.version (e.1.1.page.pa / 128) != BitVec.ofNat 48 e.1.2)).map Prod.snd

/-- An 8-bit status lands in s[sd]: any outcome but a successful `valst` is an acquire at device scope. DEDUCED (log 30). -/
def State.versionStatus (s : State) (w : Wave) (c : Bool) (d : R8) (status : Nat) : State :=
  ((s.invalidate w.core 4).issueOp w (some .LD) false (.regs [.s d.toNat (BitVec.ofNat 32 status)]) .none []).advanceWave w.uid 2 c .L

/-- `valset` (store none) and `valst` (R277): the compare and the store take place in this one step. -/
def State.versionSet (s : State) (w : Wave) (c : Bool) (d a : R8) (store : Option Word) : State :=
  let o := (w.rs a.toNat).toNat
  let whole (x : Trap ⊕ List (Nat × Nat × Nat)) : Trap ⊕ Nat :=
    match x with | .inl t => .inl t.whole | .inr ks => .inr ((ks.head?.map (fun e => e.2.2)).getD 0)
  match whole (s.spadLanes w [(0, o)] 16) with
  | .inl t => s.takeTrap w t
  | .inr key =>
    let header := s.spadBytes key 16
    let n := bitsOf (leNat header) 3 0
    let valid := decide (1 ≤ n ∧ n ≤ 8)
    match s.spadLanes w ((List.range (if valid then n else 0)).map (fun i => (0, o + 16 + 16 * i))) 1 with
    | .inl t => s.takeTrap w t.whole
    | .inr ks =>
      match s.spadPoisonTrap 16 ((0, o, key) :: ks) with
      | some t => s.takeTrap w t.whole
      | none =>
        match if valid then parseVersionSet header (ks.map (fun e => s.spadBytes e.2.2 16)) else none with
        | none =>
          let s := if store.isSome then s.sealWave w.uid else s
          s.versionStatus w c d 0xFF
        | some (saddr, es) =>
          if store.isSome ∧ saddr % 4 ≠ 0 then s.takeTrap w { cause := 0x08, addr := BitVec.ofNat 64 saddr }
          else
            let addrs := es.map (fun e => ((0, e.1, false, denyPeer) : Nat × Nat × Bool × (Page → Bool))) ++
              (if store.isSome then [(0, saddr, true, denyPeer)] else [])
            match s.resolveAll w.view addrs 1 with
            | .trap t => s.takeTrap w t.whole
            | .wait pages => s.parkPages w pages
            | .ok all =>
              let accs := all.take es.length; let dst := all.drop es.length
              let scope := if store.isSome then max w.fence 4 else 0
              if s.homeBlocked w 0 accs || s.homeBlocked w scope dst then s.stall w
              else
                let s := s.reach w all true
                match s.poisonTrap w.core all with
                | some t => s.takeTrap w t.whole
                | none =>
                  let s := (distinct (all.map (fun g => g.page.pa / 128))).foldl (fun s l => s.homeTake w.core l) s
                  let s := if store.isSome then s.sealWave w.uid else s
                  match s.firstMismatch (accs.zip (es.map Prod.snd)) with
                  | some f => s.versionStatus w c d (f + 1)
                  | none =>
                    match store, dst with
                    | some v, g :: _ =>
                      let s := (s.recordRelease w.core (g.page.pa / 128) scope).homePut g.page.pa (toBytes 4 v.toNat)
                      (s.fenceUsed w.uid).versionStatus w c d 0
                    | _, _ => s.versionStatus w c d 0

def execValset (c : Bool) (d a : R8) (s : State) : Host.Outcome State Fault Refusal :=
  s.onWave fun w => s.versionSet w c d a none
def execValst (c : Bool) (d a sv : R8) (s : State) : Host.Outcome State Fault Refusal :=
  s.onWave fun w => s.versionSet w c d a (some (w.rs sv.toNat))

/-! ### Prefetch and cache control (R281) -/

/-- The addresses of n lines from the line that holds an address. -/
def lineAddrs (a n : Nat) : List Nat := (List.range n).map (fun i => a / 128 * 128 + 128 * i)

/-- The lines that translate at once. -/
def State.readyPages (s : State) (w : Wave) (addrs : List Nat) : List Page :=
  addrs.filterMap (fun a => match s.page w.view a false with | .ok p => (if isPeerPa p.pa then none else some p) | _ => none)

/-- The walks of a prefetch, for each of its lines (R249). -/
def State.prefetchWalks (s : State) (w : Wave) (addrs : List Nat) : State := s.walked w.view addrs

/-- `pref.l1`: lines of pages with ATTR = 1, and lines that must wait for an engine, are skipped. DEDUCED (log 29). -/
def execPrefL1 (c : Bool) (a : R8) (n : Half) (s : State) : Host.Outcome State Fault Refusal :=
  s.onWave fun w =>
    let s := s.prefetchWalks w (lineAddrs (w.recordAt a) n.toNat)
    ((s.readyPages w (lineAddrs (w.recordAt a) n.toNat)).foldl (fun (s : State) p =>
      if p.nol1 || s.loadWaits w.core (p.pa / 128) (BitVec.allOnes 128) false then s else (s.coreLine w.core (p.pa / 128) (BitVec.allOnes 128) false).1) s).advanceWave w.uid 2 c .L

/-- `pref.l2`: into the home, or into the die's RDC when homed elsewhere, which a page without L1 bypasses (R245). -/
def execPrefL2 (c : Bool) (a : R8) (n : Half) (s : State) : Host.Outcome State Fault Refusal :=
  s.onWave fun w =>
    let s := s.prefetchWalks w (lineAddrs (w.recordAt a) n.toNat)
    ((s.readyPages w (lineAddrs (w.recordAt a) n.toNat)).foldl (fun (s : State) p =>
      if s.homeHeld none (p.pa / 128) (some w.core) then s
      else if p.nol1 then s.fillProxy (p.pa / 128)
      else if homeDie (p.pa / 128) = coreDie w.core then s.fillProxy (p.pa / 128)
      else (s.fetchLine w.core (p.pa / 128)).1) s).advanceWave w.uid 2 c .L

/-- `cwb` and `cinv`: dirty bytes go to the homes, one write per line; `cinv` then drops the lines. -/
def State.cleanLines (s : State) (w : Wave) (c : Bool) (a : R8) (n : Half) (drop : Bool) : State :=
  match s.resolve w.view ((lineAddrs (w.recordAt a) n.toNat).map (fun x => (0, x))) 1 false noDeny with
  | .trap t => s.takeTrap w t.whole
  | .wait pages => s.parkPages w pages
  | .ok accs =>
    if accs.any (fun g => s.owned (g.page.pa / 128) && (s.dirtyLines w.core).contains (g.page.pa / 128)) then s.stall w
    else
      let s := (s.reach w accs false)
      let s := accs.foldl (fun s g =>
        let s := s.writeBack w.core (g.page.pa / 128)
        if drop then s.l1Drop w.core (g.page.pa / 128) else s) s
      (s.issueOp w (some .ST) false .store .none []).advanceWave w.uid 2 c .L

def execCwb (c : Bool) (a : R8) (n : Half) (s : State) : Host.Outcome State Fault Refusal :=
  s.onWave fun w => s.cleanLines w c a n false
def execCinv (c : Bool) (a : R8) (n : Half) (s : State) : Host.Outcome State Fault Refusal :=
  s.onWave fun w => s.cleanLines w c a n true

/-- Every class counter is at or below its limit (R280). -/
def State.countersOk (s : State) (uid ld st cp mm : Nat) : Bool :=
  s.classCount uid .LD ≤ ld && s.classCount uid .ST ≤ st && s.classCount uid .CP ≤ cp && s.classCount uid .MM ≤ mm

/-- `waitc` (R280): it parks only when a counter is above its limit (R145). -/
def execWaitc (c : Bool) (nl ns nc nm : BitVec 6) (s : State) : Host.Outcome State Fault Refusal :=
  s.onWave fun w =>
    if s.countersOk w.uid nl.toNat ns.toNat nc.toNat nm.toNat then s.putWave (w.advance 2 c .L)
    else s.park w (.counters nl.toNat ns.toNat nc.toNat nm.toNat) 2 c .L

end Sys2Proof.Machine
end

