-- ==== Sys2Proof/Machine/Issue.lean ====
section
/-! DEFINITION. Choosing what issues (R155, R156, R158 to R160) and reading the wave's next instruction (R116, R129). -/

namespace Sys2Proof.Machine

/-! ### Registers of an instruction, for the scoreboard (R155) -/

def vRegs (ns : List Nat) : List Reg := ns.map .v
def sRegs (r n : Nat) : List Reg := (runFrom r n).map .s
def pairS (r : R8) : List Reg := sRegs r.toNat 2

/-- The registers of a V4 form: an emulated type names pairs. -/
def usesV4 (p : V4) (ns : List Nat) : List Reg :=
  .k p.km.toNat :: vRegs (if emulated p.ty || p.srcTy == 13 then ns ++ ns.map (· + 1) else ns)

def usesVS (p : VS) : List Reg := [.k p.km.toNat, .s p.sb.toNat, .v p.va.toNat, .v p.vd.toNat]

/-- The registers of a format M form with n vector data registers. -/
def usesM (p : MF) (n : Nat) : List Reg := .k p.km.toNat :: pairS p.sbase ++ vRegs (offsetRegs p ++ runFrom p.vt.toNat n)

/-- The registers of a format M form at a scratchpad address, which is one register. -/
def usesMSpad (p : MF) (n : Nat) : List Reg := .k p.km.toNat :: .s p.sbase.toNat :: vRegs (offsetRegs p ++ runFrom p.vt.toNat n)

/-- The registers of a T form but for ta: masks, the record's pair and the coordinates. -/
def usesT (p : TF) : List Reg := .k p.km.toNat :: pairS p.tb ++ sRegs p.tc.toNat p.nd.toNat

/-- The completion's token registers. -/
def usesDone (cm : BitVec 2) (ct : R8) : List Reg := if cm = 1 then sRegs ct.toNat 2 else []

/-- The registers of a Bramble form whose second operand is n registers. -/
def usesBramble (aa ab ac : R8) (cm : BitVec 2) (ct : R8) (fl : BitVec 5) (n : Nat) : List Reg :=
  usesDone cm ct ++ (if fl.getLsbD 0 then .k (fl.toNat / 2) :: vRegs ([aa.toNat, aa.toNat + 1, ac.toNat] ++ runFrom ab.toNat n)
    else sRegs aa.toNat 2 ++ sRegs ab.toNat n)

/-- The second operand of a 64-bit form. -/
def usesImm (i : Bool) (imm : BitVec 24) (n : Nat) : List Reg := if i then [] else sRegs (immReg imm) n

/-- An operand register that a form reads unless its immediate or its level takes the place. -/
def usesIf (b : Bool) (r : R8) : List Reg := if b then [.s r.toNat] else []

/-- The registers that an instruction's word names. -/
def Instr.uses : Instr → List Reg
  | .sadd _ d a b | .ssub _ d a b | .smul _ d a b | .smulh _ d a b | .smulhu _ d a b | .sdiv _ d a b | .sdivu _ d a b | .srem _ d a b
  | .sremu _ d a b | .sand _ d a b | .sor _ d a b | .sxor _ d a b | .sshl _ d a b | .sshr _ d a b | .ssra _ d a b | .smin _ d a b
  | .smax _ d a b | .sminu _ d a b | .smaxu _ d a b | .ssel _ d a b | .hadmit _ d a b | .hadmitMulti _ d a b | .swait _ d a b =>
      [.s d.toNat, .s a.toNat, .s b.toNat]
  | .saddSi _ d a _ | .ssubSi _ d a _ | .smulSi _ d a _ | .smulhSi _ d a _ | .smulhuSi _ d a _ | .sdivSi _ d a _ | .sdivuSi _ d a _
  | .sremSi _ d a _ | .sremuSi _ d a _ | .sandSi _ d a _ | .sorSi _ d a _ | .sxorSi _ d a _ | .sshlSi _ d a _ | .sshrSi _ d a _
  | .ssraSi _ d a _ | .sminSi _ d a _ | .smaxSi _ d a _ | .sminuSi _ d a _ | .smaxuSi _ d a _ | .sclz _ d a | .sctz _ d a | .spopc _ d a
  | .sbrev _ d a | .sext8 _ d a | .sext16 _ d a | .sbfe _ d a _ _ | .sbfeu _ d a _ _ | .sbfi _ d a _ _ | .saddSi32 d a _ | .ssubSi32 d a _
  | .smulSi32 d a _ | .smulhSi32 d a _ | .smulhuSi32 d a _ | .sdivSi32 d a _ | .sdivuSi32 d a _ | .sremSi32 d a _ | .sremuSi32 d a _
  | .sandSi32 d a _ | .sorSi32 d a _ | .sxorSi32 d a _ | .sshlSi32 d a _ | .sshrSi32 d a _ | .ssraSi32 d a _ | .sminSi32 d a _
  | .smaxSi32 d a _ | .sminuSi32 d a _ | .smaxuSi32 d a _ | .sarr _ d a | .valset _ d a => [.s d.toNat, .s a.toNat]
  | .barr _ d a lvl _ | .barrw _ d a lvl _ => .s d.toNat :: usesIf (lvl != 0) a
  | .semaddW _ d a _ i _ | .semacq _ d a _ i _ => .s d.toNat :: usesIf (!i) a
  | .semadd _ a _ i _ => usesIf (!i) a
  | .setfmt _ src a _ => usesIf (src != 0) a
  | .smovSi _ d _ | .smovSi32 d _ | .mfence _ d => [.s d.toNat]
  | .scmp _ d a _ i imm => [.s d.toNat, .s a.toNat] ++ usesImm i imm 1
  | .sadd64 _ d a i imm | .ssub64 _ d a i imm | .smul64 _ d a i imm | .sshl64 _ d a i imm | .sshr64 _ d a i imm | .ssra64 _ d a i imm =>
      pairS d ++ pairS a ++ usesImm i imm 2
  | .smov64 _ d i imm => pairS d ++ usesImm i imm 2
  | .loop _ a _ | .bwait _ a _ _ | .binit _ a _ | .bfree _ a | .mwait _ a | .trap a _ | .sleep a _ =>
      [.s a.toNat]
  | .sget _ d n => if sregWidth n = 64 then pairS d else [.s d.toNat]
  | .sput _ n a => if sregWidth n = 64 then pairS a else [.s a.toNat]
  | .bu _ ka _ | .mpush _ ka | .melse _ ka => [.k ka.toNat]
  | .callp a => vRegs [a.toNat, a.toNat + 1]
  | .kand _ kd ka kb | .kor _ kd ka kb | .kxor _ kd ka kb | .kandn _ kd ka kb | .voteK _ kd ka kb | .voteKf _ kd ka kb =>
      [.k kd.toNat, .k ka.toNat, .k kb.toNat]
  | .knot _ kd ka | .kmov _ kd ka | .kshl _ kd ka _ | .kshr _ kd ka _ | .voteF _ kd ka => [.k kd.toNat, .k ka.toNat]
  | .kpopc _ ka d | .kffs _ ka d => [.k ka.toNat, .s d.toNat]
  | .kfroms _ k a | .ktos _ k a => .k k.toNat :: pairS a
  | .spawn d a b => .s d.toNat :: .s b.toNat :: pairS a
  | .tnext _ d a => .s a.toNat :: sRegs d.toNat 8
  | .hpush _ d a => .s d.toNat :: sRegs a.toNat 4
  | .chunk _ d a => sRegs d.toNat 4 ++ pairS a
  | .valst _ d a sv => [.s d.toNat, .s a.toNat, .s sv.toNat]
  | .vaddF32Short _ d a b | .vmulF32Short _ d a b | .vaddI32Short _ d a b => vRegs [d.toNat, a.toNat, b.toNat]
  | .vmovShort _ d a => vRegs [d.toNat, a.toNat]
  | .vadd _ p | .vsub _ p | .vmul _ p => usesV4 p (p.vd.toNat :: p.abRs)
  | .vfma _ p | .vdot4 _ p => usesV4 p (p.vd.toNat :: p.abc)
  | .vmin _ p | .vmax _ p | .vmulh _ p | .vand _ p | .vor _ p | .vxor _ p | .vshl _ p | .vshr _ p | .vsra _ p | .vperm _ p | .vrand _ p =>
      usesV4 p (p.vd.toNat :: p.ab)
  | .vcmp _ p => .k (p.vd.toNat % 16) :: usesV4 p p.ab
  | .vsel _ p => .k (p.vc.toNat % 16) :: usesV4 p (p.vd.toNat :: p.ab)
  | .vrcp _ p | .vsqrt _ p | .vrsqrt _ p | .vlog2 _ p | .vexp2 _ p | .vcvtLegacy _ p | .vred _ p | .vscan _ p | .vclz _ p | .vpopc _ p
  | .vbrev _ p => usesV4 p [p.vd.toNat, p.va.toNat]
  | .vcvt _ p | .vrnd _ p => usesV4 p ([p.vd.toNat, p.va.toNat] ++ (if p.fnx then [p.vb.toNat] else []))
  | .vpack _ p => usesV4 p (p.vd.toNat :: runFrom p.va.toNat (packCount p.ty))
  | .vunpack _ p => usesV4 p (p.va.toNat :: runFrom p.vd.toNat (packCount p.ty / 2))
  | .vredmaxi _ p => usesV4 p (p.ab ++ runFrom p.vd.toNat 2)
  | .vtopk _ p => usesV4 p (p.ab ++ runFrom p.vd.toNat (2 * (p.vc.toNat % 16) + 1))
  | .vaddVs _ p | .vsubVs _ p | .vmulVs _ p | .vfmaVs _ p | .vminVs _ p | .vmaxVs _ p | .vandVs _ p | .vorVs _ p | .vxorVs _ p
  | .vshlVs _ p | .vshrVs _ p | .vsraVs _ p | .vbcast _ p | .vrot _ p | .vshup _ p | .vshdn _ p => usesVS p
  | .vrcpVs _ p | .vsqrtVs _ p | .vrsqrtVs _ p | .vlog2Vs _ p | .vexp2Vs _ p => [.k p.km.toNat, .v p.va.toNat, .v p.vd.toNat]
  | .vsplat _ p => [.k p.km.toNat, .s p.sb.toNat, .v p.vd.toNat]
  | .ld _ p | .st _ p => usesM p (regsOf p.width)
  | .ldp _ p | .stp _ p | .lds16 _ p => usesMSpad p (regsOf p.width)
  | .sld _ p | .sst _ p => pairS p.sbase ++ sRegs p.vt.toNat (regsOf p.width)
  | .atom _ p => (if p.aSp then usesMSpad else usesM) p (regsOf p.width * (if p.aop = 9 then 2 else 1))
  | .hinc _ p => usesM p 1
  | .ldv _ p | .casv _ p => usesM p (regsOf p.width + 2)
  | .ldt p | .stt p => usesT p
  | .cpy p => usesDone p.cm p.ct ++ (if p.fl.getLsbD 0 then .k (p.fl.toNat / 2) :: vRegs [p.aa.toNat, p.aa.toNat + 1, p.ab.toNat, p.ab.toNat + 1, p.ac.toNat]
      else pairS p.aa ++ pairS p.ab ++ [.s p.ac.toNat, .k (p.fl.toNat / 2)])
  | .cpyt p => usesT p ++ pairS p.ta ++ sRegs p.td.toNat p.nd.toNat ++ usesDone p.cm p.ct
  | .prefL1 _ a _ | .prefL2 _ a _ | .cwb _ a _ | .cinv _ a _ => pairS a
  | .mmq p => .k p.km.toNat :: vRegs (p.tb.toNat :: runFrom p.ta.toNat (if p.btype = 11 then 16 else 8))
  | .mmqSp p => .k p.km.toNat :: vRegs (p.tb.toNat :: runFrom p.ta.toNat 5)
  | .bload p => usesT p ++ [.s p.ta.toNat] ++ usesDone p.cm p.ct
  | .accrd p | .accwr p => .k p.km.toNat :: vRegs (runFrom p.ta.toNat p.td.toNat)
  | .mwalk _ p => pairS p.aa ++ usesDone p.cm p.ct
  | .mparam _ p => pairS p.aa
  | .gbind p => usesBramble p.aa p.ab p.ac p.cm p.ct p.fl 2
  | .gmask p => usesBramble p.aa p.ab p.ac p.cm p.ct p.fl 2
  | .gmaskDelta p => usesBramble p.aa p.ab p.ac p.cm p.ct p.fl 2
  | .gfork _ p => usesBramble p.aa p.ab p.ac p.cm p.ct p.fl 2
  | .gstep _ p | .groll _ p | .gcommit _ p => usesBramble p.aa p.ab p.ac p.cm p.ct p.fl 1
  | .gfree _ p => usesBramble p.aa p.ab p.ac p.cm p.ct p.fl 0
  | .ecall a _ => sRegs a.toNat 8
  | .rte => sRegs 240 16
  | .ckpt vb sb sg vm =>
      vRegs ((List.range 16).filterMap (fun i => if vm.getLsbD i then some (vb.toNat + i) else none)) ++
      (List.range 8).flatMap (fun i => if sg.getLsbD i then sRegs (4 * sb.toNat + 4 * i) 4 else [])
  | .will _ p => .k (p.fl.toNat / 2) :: (if p.fl.getLsbD 0 then vRegs [p.aa.toNat, p.aa.toNat + 1] else [])
  | .claim _ p => .k (p.fl.toNat / 2) :: vRegs (p.aa.toNat :: (p.aa.toNat + 1) :: runFrom p.ab.toNat p.ac.toNat)
  | .eprobe _ p => .s p.ac.toNat :: (sRegs p.aa.toNat 8 ++ pairS p.ab)
  | _ => []

/-- The class counter that an instruction adds to (R259, R268, R292). -/
def Instr.cls : Instr → Option Cls
  | .ld .. | .sld .. | .ldp .. | .lds16 .. | .ldt .. | .ldv .. | .casv .. | .valset .. | .valst .. | .chunk .. | .claim .. | .eprobe .. => some .LD
  | .atom _ p => some (if p.aRet then .LD else .ST)
  | .st .. | .sst .. | .stp .. | .stt .. | .hinc .. | .cwb .. | .cinv .. => some .ST
  | .cpy .. | .cpyt .. | .bload .. | .gbind .. | .gmask .. | .gmaskDelta .. | .gstep .. | .gfork .. | .groll .. | .gcommit .. | .gfree .. => some .CP
  | .mmq .. | .mmqSp .. | .accz .. | .accrd .. | .accwr .. | .mwalk .. => some .MM
  | _ => none

/-- What waits while a heap operation of the wave is outstanding (R207). -/
def Instr.heapHeld : Instr → Bool
  | .hpush .. | .hadmit .. | .hadmitMulti .. | .ldp .. | .stp .. | .lds16 .. | .ldt .. | .stt .. | .valset .. | .valst .. | .cpy .. | .cpyt ..
  | .bload .. | .mwalk .. | .binit .. | .bfree .. | .sarr .. | .swait .. => true
  | .atom _ p => p.aSp
  | .sget _ _ n => n == 0x0A
  | .sput _ n _ => n == 0x0A
  | _ => false

/-- An `hadmit` of the wave is outstanding: an operation of the A pipe that lands a register. -/
def State.heapBusy (s : State) (uid : Nat) : Bool :=
  s.ops.any (fun o => o.uid == uid && o.pipeA && o.cls.isNone && (match o.kind with | .regs _ => true | _ => false))

def State.allQuarters (s : State) : List Quarter := s.quarters ++ s.passes.flatMap Prod.snd

/-- Tiles of its core that an operation other than an `mmq` writes, as a pending write until it completes (R155, R292). -/
def Op.writesTile (o : Op) (tile : Nat) : Bool :=
  match o.kind with
  | .accz t n => t ≤ tile && tile < t + n
  | .accwr t .. => t == tile
  | .walk w => w.accBase ≤ tile && tile < w.accBase + w.accN
  | _ => false

/-- A register of the wave has a pending write: its own, or one that an estate brought along (R97, R155). That of an accumulator tile by a
quarter lands when the quarter is applied. DEDUCED (log 65). -/
def State.regPending (s : State) (w : Wave) (r : Reg) : Bool :=
  s.ops.any (fun o => o.uid == w.uid && !o.dropped && o.pending.contains r) ||
  (match r with
   | .v n => (match s.vloc w n with | .row key => s.ops.any (fun o => o.rows.contains key || o.moved.any (fun d => d.row == key)) | .back _ => false)
   | .a n => s.allQuarters.any (fun q => q.uid == w.uid && q.tile == n) || s.ops.any (fun o => o.uid == w.uid && o.writesTile n)
   | _ => false)

/-- The target registers of the `callp` at an address, read again when the wave's entry of the mask stack still has lanes (R198). -/
def State.callpUses (s : State) (w : Wave) (cp : DWord) : List Reg :=
  match w.maskStack, s.codeWord w cp.toNat with
  | b :: _, .word x => if b.exec = 0 then [] else vRegs [(fB x).toNat, (fB x).toNat + 1]
  | _, _ => []

/-- The run of a tile form, which its record gives. -/
def State.tileUses (s : State) (w : Wave) (p : TF) : List Reg :=
  match (s.readLayout w (w.recordAt p.tb) (some p.nd.toNat) false).2 with
  | .ok r => vRegs (runFrom p.ta.toNat (tileRegs r))
  | _ => []

/-- Accumulator tiles of the wave, n from a(t) on. -/
def Wave.tileRun (w : Wave) (t n : Nat) : List Reg := (runFrom (w.accBase + t) n).map .a

/-- The tiles of the active quarters of an `mmq` (R299). -/
def Wave.quarterTiles (w : Wave) (p : TF) : List Reg :=
  (distinct ((lanesOf (w.active p.km.toNat)).map (· / 8))).map (fun q => .a (w.accBase + p.tc.toNat + q))

/-- The tiles that a walk names, which its card gives (R293). -/
def State.cardTiles (s : State) (w : Wave) (p : A2) : List Reg :=
  match s.readRecord w (w.recordAt p.aa) 128 128 noDeny with
  | .ok _ card => w.tileRun (bitsOf (leNat card) 300 296) (bitsOf (leNat card) 306 301)
  | _ => []

/-- Registers that an instruction reads or writes because of where the wave stands: the run of a tile form, the `spawn` destination of the inline run
that a `ret` ends (R199), the targets of the `callp` that a `ret` or `rte` goes on with (R198, R388), and accumulator tiles. -/
def State.frameUses (s : State) (w : Wave) : Instr → List Reg
  | .ret =>
    match w.callStack with
    | e :: _ => (match e.save with
        | some f => [.s f.sd]
        | none => if e.ra.getLsbD 0 then s.callpUses w (e.ra &&& ~~~(3 : DWord)) else [])
    | [] => []
  | .rte => if w.pair 240 &&& 3 = 1 then s.callpUses w (w.pair 240 - 1) else []
  | .ldt p | .stt p => s.tileUses w p
  | .mmq p | .mmqSp p => w.quarterTiles p
  | .accz p => w.tileRun p.ta.toNat p.tb.toNat
  | .accrd p | .accwr p => w.tileRun p.tb.toNat 1
  | .mwalk _ p => s.cardTiles w p
  | _ => []

/-- The quarters that an instruction brings into the batch-forming queue of 128 entries fit (R80, R159). -/
def State.queueFits (s : State) (w : Wave) (i : Instr) : Bool :=
  let fits (km : K4) : Bool :=
    decide ((s.quarters.filter (fun q => q.cc == w.cc)).length + (distinct ((lanesOf (w.active km.toNat)).map (· / 8))).length ≤ 128)
  match i with
  | .mmq p => fits p.km
  | .mmqSp p => fits p.km
  | _ => true

/-- The class counter that an instruction adds to as the wave stands: an `mmq` with no active quarter adds to none (R299). -/
def Wave.countsIn (w : Wave) (i : Instr) : Option Cls :=
  match i with
  | .mmq p => if w.active p.km.toNat = 0 then none else some .MM
  | .mmqSp p => if w.active p.km.toNat = 0 then none else some .MM
  | _ => Instr.cls i

/-- The scoreboard, the class counter, the heap and the engine queue let an instruction issue (R155, R156, R159, R207). -/
def State.clears (s : State) (w : Wave) (i : Instr) : Bool :=
  (Instr.uses i).all (fun r => !s.regPending w r) && (s.frameUses w i).all (fun r => !s.regPending w r) &&
  (match w.countsIn i with | some c => s.classCount w.uid c < 63 | none => true) &&
  !(Instr.heapHeld i && s.heapBusy w.uid) && s.queueFits w i

/-! ### Fetch and decode -/

/-- What comes of reading the wave's next instruction. -/
inductive Fetched where
  | run (i : Instr)
  | trap (t : Trap)
  | wait (page : Nat)
  /-- An engine owns a line (R321). -/
  | held
deriving DecidableEq, Repr

/-- The code words from an address on, at most n: those read, and what stopped the reading. -/
def State.codeWords (s : State) (w : Wave) : Nat → Nat → List Word × Option (Nat × Code)
  | 0, _ => ([], none)
  | n + 1, a =>
    match s.codeWord w a with
    | .word x => let (r, e) := s.codeWords w n (a + 4); (x :: r, e)
    | c => ([], some (a, c))

/-- The wave's next instruction by the checks of R129, orders 1 to 6. DEDUCED (log 20). DEDUCED (log 54). -/
def State.fetchNext (s : State) (w : Wave) : Fetched :=
  let pc := w.pc.toNat
  let room := 3 - pc % 12 / 4
  match s.codeWord w pc with
  | .miss p => .wait p
  | .held => .held
  | .fail f => .trap (fetchTrap f w.pc w.pc w.pc)
  | .word x =>
    let n := min (opWords (opOf x)) room
    match s.codeWords w (n - 1) (pc + 4) with
    | (_, some (_, .miss p)) => .wait p
    | (_, some (_, .held)) => .held
    | (_, some (a, .fail f)) => .trap (fetchTrap f w.pc w.pc (BitVec.ofNat 64 (max pc (s.pageStart w.codeView a))))
    | (ws, _) =>
      let next := if n < room then [match s.codeWord w (pc + 4 * n) with | .word y => y | _ => 0x01000000#32] else []
      match decodeWords w.desc.permits w.grp (x :: ws ++ next) with
      | .ok i _ => .run i
      | .illegalOpcode => .trap illegalOpcode
      | .illegalEncoding => .trap illegalEncoding

/-! ### The choice (R159, R160) -/

/-- READY or SEALED, of the active context, which is not being saved, and not at a group boundary at which a switch or fine pre-emption
stops it (R376, R382, R383). -/
def State.runnable (s : State) (w : Wave) : Bool :=
  w.life == .ready && w.cx == (s.part w.part).active && !s.saving w.part && !(((s.part w.part).switching.isSome || w.chosen) && w.grp == [])

/-- A wave is eligible (R159): its next instruction has been fetched and may issue. One whose fetch fails comes to issue as well,
and meets that. DEDUCED (log 19). -/
def State.eligible (s : State) (w : Wave) : Bool :=
  s.runnable w && (match s.fetchNext w with | .run i => s.clears w i | .trap _ => true | .wait _ | .held => false)

/-- An eligible wave that a scheduler may choose: no access of an instruction that has been issued waits (R263, R321). DEDUCED (log 66). -/
def State.mayGo (s : State) (w : Wave) : Bool := s.eligible w && !w.stall

/-- The page that holds up the fetch of a wave (R145). -/
def State.fetchWaits (s : State) (w : Wave) : Option Nat :=
  if s.runnable w && !w.stall then (match s.fetchNext w with | .wait p => some p | _ => none) else none

/-- The wave is SEALED for R144: its flag is set, or it is in a handler (R368). -/
def Wave.sealed (w : Wave) : Bool := w.sealFlag || w.inTrap

/-- The rules of R160 in turn, for waves of a scheduler that last issued from slot `last` - 1: does a go before b? A group that
has begun goes on first. Waves placed at one time are taken round. DESIGN CHOICE (log 70). -/
def Wave.before (last : Nat) (a b : Wave) : Bool :=
  let key (w : Wave) : List Nat :=
    [if w.grp = [] then 1 else 0, if w.overdueAt = 0 then 1 else 0, w.overdueAt, if w.sealed then 0 else 1, 7 - w.prio, w.placed,
     (w.slot + 128 - last) % 128]
  decide (key a < key b)

def bestWave (last : Nat) : List Wave → Option Wave
  | [] => none
  | w :: r => match bestWave last r with | none => some w | some x => some (if x.before last w then x else w)

/-- The scheduler of a wave (R154). -/
def Wave.sched (w : Wave) : Nat := 4 * w.core + w.slot % 4

/-- The wave that a scheduler issues from. -/
def State.choose (s : State) (sched : Nat) : Option Wave :=
  bestWave (kvGet 0 s.lastSlots sched) (s.waves.filter (fun w => w.sched == sched && s.mayGo w))

/-- Without a turn on the agenda: the next scheduler, in round-robin order, that has an eligible wave, or one to park. -/
def State.nextSched (s : State) : Option Nat :=
  let ready := (s.waves.filter (fun w => s.mayGo w || (s.fetchWaits w).isSome)).map Wave.sched
  (sortBy (fun x => (x + 768 - (s.lastSched + 1) % 768) % 768) ready).head?

/-- What a scheduler's turn comes to: the device after a wait or a trap, or an instruction to be executed. -/
inductive Issued where
  | done (s : State)
  | run (i : Instr) (s : State)

/-- Waves of a scheduler whose fetch waits for a page park (R145). -/
def State.parkFetching (s : State) (sched : Nat) : State :=
  (s.waves.filter (fun w => w.sched == sched)).foldl (fun s w => match s.fetchWaits w with | some p => s.parkPages w [p] | none => s) s

/-- The caches take the rest of the packet at a wave's pc (R115). -/
def State.fetchPacket (s : State) (w : Wave) : State :=
  (List.range (3 - w.pc.toNat % 12 / 4)).foldl (fun s i => s.codeFetch w (w.pc.toNat + 4 * i)) s

/-- A scheduler issues one instruction of the wave that it chooses. A wave that issues is no longer overdue (R160). -/
def State.issueFrom (s : State) (sched : Nat) : Issued :=
  let s := s.parkFetching sched
  match s.choose sched with
  | none => .done s
  | some w =>
    let w := { w with overdueAt := 0 }
    let s := { s with lastSched := sched, lastSlots := kvPut 0 s.lastSlots sched (w.slot + 1), cur := some w.uid }.putWave w
    let s := s.fetchPacket w
    match s.fetchNext w with
    | .run i => .run i s
    | .trap t => .done (s.takeTrap { w with refused := [] } t)
    | .wait p => .done (s.parkPages w [p])
    | .held => .done s

/-- An instruction that was replayed has been executed: pages refused to the wave may be asked for again (R247). -/
def State.replayed (s : State) (x : Host.Outcome State Fault Refusal) : Host.Outcome State Fault Refusal :=
  match s.issuing with
  | none => x
  | some w =>
    if w.refused = [] then x
    else match x with
      | .next t => .next (t.modWave w.uid (fun y => { y with refused := [] }))
      | y => y

/-- Waves that are no longer eligible are not overdue (R160). -/
def State.calm (s : State) : State :=
  { s with waves := s.waves.map (fun (w : Wave) => if w.overdueAt ≠ 0 ∧ !s.eligible w then { w with overdueAt := 0 } else w) }

end Sys2Proof.Machine
end

