-- ==== Sys2Proof/Machine/Control.lean ====
section
/-! DEFINITION. Branches, calls (R193 to R200), the mask stack (R201) and the mask operations (R202, R203). -/

namespace Sys2Proof.Machine

/-- A control instruction of n words changes the wave by f. -/
def State.control (s : State) (n : Nat) (c : Bool) (f : Wave → Wave) : Host.Outcome State Fault Refusal :=
  s.onWave fun w => s.putWave ((f w).advance n c .C)

/-! ### Branches (R193 to R195) -/

def execB (c : Bool) (off : BitVec 20) (s : State) : Host.Outcome State Fault Refusal :=
  s.control 1 c fun w => w.jump (packetAt w.pc off.toInt)

/-- The condition of `bc` (R119). -/
def branchCond (scc : Word) (cond : Nat) : Bool :=
  let bit := match cond / 2 with | 0 => 0 | 1 => 1 | 2 => 2 | _ => 3
  scc.getLsbD bit == (cond % 2 == 0)

def execBc (c : Bool) (cond : BitVec 4) (off : BitVec 20) (s : State) : Host.Outcome State Fault Refusal :=
  s.control 1 c fun w => if branchCond w.scc cond.toNat then w.jump (packetAt w.pc off.toInt) else w

/-- `bu` (R194): the record's LANES are those whose condition is true. -/
def execBu (c : Bool) (ka : K4) (off : BitVec 20) (s : State) : Host.Outcome State Fault Refusal :=
  s.onWave fun w =>
    let m := w.rk ka.toNat &&& w.exec
    if m = 0 then s.putWave (w.advance 1 c .C)
    else if m = w.exec then s.putWave ((w.jump (packetAt w.pc off.toInt)).advance 1 c .C)
    else s.takeTrap w { cause := 0x03, lanes := m }

def execLoop (c : Bool) (a : R8) (imm : BitVec 24) (s : State) : Host.Outcome State Fault Refusal :=
  s.control 2 c fun w =>
    let v := w.rs a.toNat - 1
    let w' := w.setS a.toNat v
    if v = 0 then w' else w'.jump (packetAt w.pc imm.toInt)

/-! ### Calls (R196 to R200) -/

/-- The wave enters a function: SPILLCALLS counts a budget above its work window (R24). -/
def State.enterCall (s : State) (w : Wave) (target : DWord) (budget : Nat) (entry : CallEntry) : State :=
  { s with spillCalls := if w.foot.wwin < budget then s.spillCalls + 1 else s.spillCalls }.putWave
    (({ w with callStack := entry :: w.callStack }.jump target).advance 1 false .C)

/-- `call` (R197). -/
def execCall (off : BitVec 20) (s : State) : Host.Outcome State Fault Refusal :=
  s.onWave fun w =>
    let target := packetAt w.pc off.toInt
    match s.header w target 0 w.pc with
    | .miss p => s.parkPages w [p]
    | .held => s.stall w
    | .trap t => (s.codeFetch w target.toNat).takeTrap w t
    | .ok budget =>
      if 64 ≤ w.callStack.length then s.takeTrap w depthTrap
      else (s.codeFetch w target.toNat).enterCall w target budget { ra := w.pc + 4, save := none }

/-- Lane l's target of a `callp` (R198). -/
def callTarget (lo hi : VReg) (l : Nat) : DWord := pairOf (laneOf lo l) (laneOf hi l)

/-- Step of R198 for the `callp` of va at `cp`, with rem the lanes still to be called. `orig` is the wave as the
instruction under way found it, in which it parks. -/
def State.callpStep (s : State) (orig w : Wave) (va : Nat) (cp : DWord) (rem : LaneMask) (first : Bool) : State :=
  let pc := if first then cp else cp + 1
  match s.spillTrap w [va, va + 1] [] with
  | some t => s.takeTrap w { t with pc := some pc }
  | none =>
    let s := s.spillRead w [va, va + 1]
    let lo := s.readV w va; let hi := s.readV w (va + 1)
    let t := callTarget lo hi ((lowestLane rem).getD 0)
    let sub := maskWhere (fun l => rem.getLsbD l && callTarget lo hi l == t)
    if t.toNat % 12 ≠ 0 then s.takeTrap w { cause := 0x08, pc := some pc }
    else
      match s.header w t (if first then 2 else 0) pc with
      | .miss p => s.parkPages orig [p]
      | .held => s.stall orig
      | .trap tr => (s.codeFetch w t.toNat).takeTrap w tr
      | .ok budget =>
        if 64 ≤ w.callStack.length then s.takeTrap w { depthTrap with pc := some pc }
        else
          let stack := if first then { exec := w.exec, fmt := w.fmt } :: { exec := w.exec, fmt := w.fmt } :: w.maskStack else w.maskStack
          match stack with
          | b :: a :: rest =>
            let w' := { w with maskStack := { b with exec := rem &&& ~~~sub } :: a :: rest, exec := sub,
                               fmt := (w.fmt &&& 0xFFFF0000) ||| (a.fmt &&& 0xFFFF) }
            (s.codeFetch w t.toNat).enterCall w' t budget { ra := cp + 1, save := none }
          | _ => s.takeTrap w { cause := 0x05, pc := some pc }

/-- Continue() of R198 for the `callp` at cp: `w` is the wave that comes back, `orig` the one that would park. -/
def State.continueCallp (s : State) (orig w : Wave) (cp : DWord) : State :=
  match w.maskStack with
  | b :: a :: rest =>
    if b.exec = 0 then
      s.putWave { w with maskStack := rest, exec := a.exec, fmt := restoreFmt w.fmt a.fmt, pc := cp + 4, grp := [], xfer := none }
    else
      match s.codeWord w cp.toNat with
      | .miss p => s.parkPages orig [p]
      | .held => s.stall orig
      | .fail f => (s.codeFetch w cp.toNat).takeTrap w (fetchTrap f (cp + 1) cp cp)
      | .word x => s.callpStep orig w (fB x).toNat cp b.exec false
  | _ => s.takeTrap w { cause := 0x05, pc := some (cp + 1) }

/-- `callp` (R198). -/
def execCallp (a : R8) (s : State) : Host.Outcome State Fault Refusal :=
  s.onWave fun w =>
    if w.exec = 0 then s.putWave (w.advance 1 false .C) else s.callpStep w w a.toNat w.pc w.exec true

/-- An address of a call-stack entry with its kind cleared. -/
def CallEntry.addr (e : CallEntry) : DWord := e.ra &&& ~~~(3 : DWord)

/-- The end of an inline frame (R71): the saved registers come back, and the run's mask-stack entry e is gone. -/
def Wave.unframe (w : Wave) (f : InlineSave) (e : MaskEntry) (rest : List MaskEntry) : Wave :=
  { w with args := f.args, icount := f.icount, ibase := f.ibase, ctaglo := f.ctaglo, ctaghi := f.ctaghi, sdepth := f.sdepth,
           inld := f.inld, maskStack := rest, exec := e.exec, fmt := restoreFmt w.fmt e.fmt }

/-- A child's PARENT counter falls once its effects are released at device scope (R73), as an operation of its own: what the core
can write back goes at once, the rest before the decrement. -/
def State.parentDown (s : State) (w : Wave) (parent : Nat) : State :=
  if parent = 0 then s
  else (if s.flushHeld w.core then s else s.eagerRelease w.core false).issueOp w none false (.parent parent) .none []

/-- `ret` (R199). DEDUCED (log 26). -/
def execRet (s : State) : Host.Outcome State Fault Refusal :=
  s.onWave fun w =>
    match w.callStack with
    | [] => s.beginRetire w false
    | e :: calls =>
      match e.save with
      | some f =>
        match w.maskStack with
        | m :: rest =>
          (s.putWave ((({ w with callStack := calls }.unframe f m rest).setS f.sd 1 |>.jump e.addr).advance 1 false .C)).parentDown w f.parent
        | [] => s.takeTrap w { cause := 0x05 }
      | none =>
        if e.ra.getLsbD 0 then s.continueCallp w { w with callStack := calls } e.addr
        else s.putWave (({ w with callStack := calls }.jump e.addr).advance 1 false .C)

/-- `stub` (R200): the call that reached it is undone, and LINK carries the identifier and the subset. -/
def execStub (ident : BitVec 20) (s : State) : Host.Outcome State Fault Refusal :=
  s.onWave fun w =>
    let link (w' : Wave) (resume : DWord) : State :=
      s.takeTrap w' { cause := 0x0D, pc := some resume, lanes := w.exec, arg := ident.truncate 32 }
    match w.callStack with
    | [] => s.takeTrap w depthTrap
    | e :: calls =>
      match e.save with
      | some f =>
        match w.maskStack with
        | m :: rest => link ({ w with callStack := calls }.unframe f m rest) (e.addr - 4)
        | [] => s.takeTrap w { cause := 0x05 }
      | none =>
        if e.ra.getLsbD 0 then
          match w.maskStack with
          | m :: rest => link { w with callStack := calls, maskStack := { m with exec := m.exec ||| w.exec } :: rest } e.ra
          | [] => s.takeTrap w { cause := 0x05 }
        else link { w with callStack := calls } (e.addr - 4)

/-! ### The mask stack (R201) -/

def execMpush (c : Bool) (ka : K4) (s : State) : Host.Outcome State Fault Refusal :=
  s.onWave fun w =>
    if 32 ≤ w.maskStack.length then s.takeTrap w { cause := 0x04 }
    else
      s.putWave ({ w with maskStack := { exec := w.exec, fmt := w.fmt } :: w.maskStack, exec := w.exec &&& w.rk ka.toNat }.advance 1 c .C)

def execMelse (c : Bool) (ka : K4) (s : State) : Host.Outcome State Fault Refusal :=
  s.onWave fun w =>
    match w.maskStack with
    | [] => s.takeTrap w { cause := 0x05 }
    | e :: _ => s.putWave ({ w with exec := e.exec &&& ~~~ w.rk ka.toNat, fmt := restoreFmt w.fmt e.fmt }.advance 1 c .C)

def execMpop (c : Bool) (s : State) : Host.Outcome State Fault Refusal :=
  s.onWave fun w =>
    match w.maskStack with
    | [] => s.takeTrap w { cause := 0x05 }
    | e :: rest => s.putWave ({ w with exec := e.exec, fmt := restoreFmt w.fmt e.fmt, maskStack := rest }.advance 1 c .C)

/-! ### Mask operations (R202) and votes (R203) -/

def execKand (c : Bool) (kd ka kb : K4) (s : State) : Host.Outcome State Fault Refusal :=
  s.control 1 c fun w => w.setK kd.toNat (w.rk ka.toNat &&& w.rk kb.toNat)
def execKor (c : Bool) (kd ka kb : K4) (s : State) : Host.Outcome State Fault Refusal :=
  s.control 1 c fun w => w.setK kd.toNat (w.rk ka.toNat ||| w.rk kb.toNat)
def execKxor (c : Bool) (kd ka kb : K4) (s : State) : Host.Outcome State Fault Refusal :=
  s.control 1 c fun w => w.setK kd.toNat (w.rk ka.toNat ^^^ w.rk kb.toNat)
def execKandn (c : Bool) (kd ka kb : K4) (s : State) : Host.Outcome State Fault Refusal :=
  s.control 1 c fun w => w.setK kd.toNat (w.rk ka.toNat &&& ~~~ w.rk kb.toNat)
def execKnot (c : Bool) (kd ka : K4) (s : State) : Host.Outcome State Fault Refusal :=
  s.control 1 c fun w => w.setK kd.toNat (~~~ w.rk ka.toNat)
def execKmov (c : Bool) (kd ka : K4) (s : State) : Host.Outcome State Fault Refusal :=
  s.control 1 c fun w => w.setK kd.toNat (w.rk ka.toNat)
def execKshl (c : Bool) (kd ka : K4) (n : Byte) (s : State) : Host.Outcome State Fault Refusal :=
  s.control 1 c fun w => w.setK kd.toNat (if n.toNat < 64 then w.rk ka.toNat <<< n.toNat else 0)
def execKshr (c : Bool) (kd ka : K4) (n : Byte) (s : State) : Host.Outcome State Fault Refusal :=
  s.control 1 c fun w => w.setK kd.toNat (if n.toNat < 64 then w.rk ka.toNat >>> n.toNat else 0)
def execKpopc (c : Bool) (ka : K4) (d : R8) (s : State) : Host.Outcome State Fault Refusal :=
  s.control 1 c fun w => w.setS d.toNat (BitVec.ofNat 32 (popCount (w.rk ka.toNat)))
def execKffs (c : Bool) (ka : K4) (d : R8) (s : State) : Host.Outcome State Fault Refusal :=
  s.control 1 c fun w => w.setS d.toNat (match lowestLane (w.rk ka.toNat) with | some l => BitVec.ofNat 32 l | none => 0xFFFFFFFF)
def execKfroms (c : Bool) (kd : K4) (a : R8) (s : State) : Host.Outcome State Fault Refusal :=
  s.control 1 c fun w => w.setK kd.toNat (w.pair a.toNat)
def execKtos (c : Bool) (ka : K4) (d : R8) (s : State) : Host.Outcome State Fault Refusal :=
  s.control 1 c fun w => w.setPair d.toNat (w.rk ka.toNat)

/-- The lanes of a vote and those that its condition holds in: A and c of R203. -/
def Wave.voteLanes (w : Wave) (ka kb : K4) : LaneMask × LaneMask :=
  (w.exec &&& w.rk kb.toNat, w.rk ka.toNat &&& (w.exec &&& w.rk kb.toNat))

/-- ANY, ALL and UNI of a vote. -/
def Wave.voteFlags (w : Wave) (v : LaneMask × LaneMask) : Wave :=
  { w with scc := setBit32 (setBit32 (setBit32 w.scc 1 (v.2 != 0)) 2 (v.1 != 0 && v.2 == v.1)) 3 (v.2 == 0 || v.2 == v.1) }

def execVoteK (c : Bool) (kd ka kb : K4) (s : State) : Host.Outcome State Fault Refusal :=
  s.control 1 c fun w => w.setK kd.toNat (w.voteLanes ka kb).2
def execVoteF (c : Bool) (ka kb : K4) (s : State) : Host.Outcome State Fault Refusal :=
  s.control 1 c fun w => w.voteFlags (w.voteLanes ka kb)
def execVoteKf (c : Bool) (kd ka kb : K4) (s : State) : Host.Outcome State Fault Refusal :=
  s.control 1 c fun w => (w.voteFlags (w.voteLanes ka kb)).setK kd.toNat (w.voteLanes ka kb).2

end Sys2Proof.Machine
end

