-- ==== Sys2Proof/Machine/Work.lean ====
section
/-! DEFINITION. Work creation: `spawn` (R69 to R73, R204), tile feeds and `tnext` (R49, R53, R205), the admission heap
with `hpush` and `hadmit` (R76 to R79, R206 to R208). -/

namespace Sys2Proof.Machine

/-! ### spawn (R70, R71, R204) -/

/-- A code lands in a scalar register as a pending write; the wave goes on. -/
def State.spawnCode (s : State) (w : Wave) (d : R8) (code : Nat) : State :=
  ((s.issueOp w none false (.regs [.s d.toNat (BitVec.ofNat 32 code)]) .none []).modWave w.uid (fun x => x.seal s.dtime)).advanceWave w.uid 1 false .C

/-- An inline run is permitted (R71). -/
def Wave.inlines (w : Wave) (k : JobCard) : Bool :=
  decide (0 < w.inld) && decide (k.spad ≤ w.foot.spad) && decide (k.acc ≤ w.foot.acc) && decide (k.sema ≤ w.foot.sema) &&
  decide (w.maskStack.length + 1 + k.mstk ≤ 32) && decide (w.callStack.length < 64)

/-- The wave as the inline child starts (R71), its frame apart. -/
def Wave.inlineChild (w : Wave) (k : JobCard) : Wave :=
  { w with maskStack := { exec := w.exec, fmt := w.fmt } :: w.maskStack, exec := maskWhere (fun l => decide (l < k.lanes)),
           args := k.args, icount := BitVec.ofNat 64 k.lanes, ibase := 0, ctaglo := loWord k.tag, ctaghi := hiWord k.tag,
           sdepth := w.sdepth + 1, inld := w.inld - 1 }

/-- The frame of an inline run: its kind in bits 1:0 of the return address, and what it saved. -/
def Wave.inlineFrame (w : Wave) (k : JobCard) (d : R8) : CallEntry :=
  { ra := (w.pc + 4) ||| 2,
    save := some { args := w.args, icount := w.icount, ibase := w.ibase, ctaglo := w.ctaglo, ctaghi := w.ctaghi, sdepth := w.sdepth,
                   inld := w.inld, parent := k.parent, sd := d.toNat } }

/-- A card that has been read takes the first outcome that applies (R70). -/
def State.spawnCard (s : State) (w : Wave) (d : R8) (target : Nat) (raw : List Byte) : State :=
  match parseCard raw with
  | none => s.spawnCode w d 4
  | some k =>
    if w.sdepth = 15 then s.spawnCode w d 3
    else if s.hasRoom (192 * w.cx + targetCore w.core target) then
      if s.releaseStalls w.core 2 then s.stall w
      else (((s.releaseNow w.core 2).postCard w.poster target k false)).spawnCode w d 0
    else if w.inlines k then
      match s.header w (BitVec.ofNat 64 k.entry) 1 w.pc with
      | .miss p => s.parkPages w [p]
      | .held => s.stall w
      | .trap t => (s.codeFetch w k.entry).takeTrap w t
      | .ok budget => (s.codeFetch w k.entry).enterCall ((w.inlineChild k).seal s.dtime) (BitVec.ofNat 64 k.entry) budget (w.inlineFrame k d)
    else s.spawnCode w d 2

/-- `spawn` (R204). -/
def execSpawn (d a b : R8) (s : State) : Host.Outcome State Fault Refusal :=
  s.onWave fun w =>
    match s.readRecord w (w.pair a.toNat).toNat 64 64 noDeny with
    | .trap t => s.takeTrap w t
    | .wait pages => s.parkPages w pages
    | .stall => s.stall w
    | .ok s raw => s.spawnCard w d ((w.rs b.toNat).toNat % 16) raw

/-! ### Tile records and feeds (R49, R53, R205) -/

/-- A tile record's fields (R49). -/
structure TileRec where
  expert : Nat
  rows : Nat
  nokey : Bool
  /-- Bits 31:24. -/
  top : Nat
  rowStart : Nat
  keyBase : Nat
deriving DecidableEq, Repr

def parseTile (raw : List Byte) : Option TileRec :=
  let v := leNat raw
  if bitsOf v 127 104 == 0 && bitsOf v 31 25 == 0 && bitsOf v 23 22 == 0 && decide (1 ≤ bitsOf v 21 16 ∧ bitsOf v 21 16 ≤ 32) then
    some { expert := bitsOf v 15 0, rows := bitsOf v 21 16, nokey := bitOf v 24, top := bitsOf v 31 24, rowStart := bitsOf v 63 32,
           keyBase := bitsOf v 103 64 }
  else none

/-- What reading a record gives: a good one, a bad one, or a wait for a page or an engine. -/
inductive TileRead where
  | ok (s : State) (r : TileRec)
  | bad (s : State)
  | wait (page : Option Nat)

def State.readTile (s : State) (v : View) (addr : Nat) : TileRead :=
  match s.readVa v addr 16 with
  | .miss p => .wait p
  | .fail _ => .bad (s.walkCheck v addr)
  | .ok (s', raw) =>
    if s.poisonVa v addr 16 then .bad (s'.checkVa v addr 16)
    else match parseTile raw with | some r => .ok s' r | none => .bad s'

def State.feed? (s : State) (part slot : Nat) : Option Feed := s.feeds.find? (fun f => f.part == part && f.slot == slot)
def State.putFeed (s : State) (f : Feed) : State :=
  { s with feeds := s.feeds.map (fun x => if x.part = f.part ∧ x.slot = f.slot then f else x) }

/-- What a `tnext` gets: status and registers, a wait for a page or an engine, or nothing yet. -/
inductive FeedTake where
  | status (s : State) (words : List Word) (taken : Bool)
  | wait (sp : Space) (page : Option Nat)
  | empty

/-- The registers of a record (R205). -/
def TileRec.words (r : TileRec) (index : Nat) : List Word :=
  [0, BitVec.ofNat 32 r.expert, BitVec.ofNat 32 r.rowStart, BitVec.ofNat 32 r.rows, BitVec.ofNat 32 r.top,
   BitVec.ofNat 32 (r.keyBase % 2 ^ 32), BitVec.ofNat 32 (r.keyBase / 2 ^ 32), BitVec.ofNat 32 index]

/-- A record is taken from a feed slot. -/
def State.takeFeed (s : State) (part slot : Nat) : FeedTake :=
  match s.feed? part slot with
  | none => .status s (2 :: List.replicate 7 0) false
  | some f =>
    if f.bad then .status s (3 :: List.replicate 7 0) false
    else if f.next < f.limit then
      match s.readTile (cpView f.space part) (f.list + 16 * f.next) with
      | .wait p => .wait f.space p
      | .bad s => .status ((s.putFeed { f with bad := true }).queueError f.fn f.queue 7) (3 :: List.replicate 7 0) false
      | .ok s r =>
        let f' := { f with next := f.next + 1 }
        let s := s.putFeed f'
        .status (if Feed.finished f' then s.launchCheck f.launch else s) (r.words f.next) true
    else if f.final then .status s (1 :: List.replicate 7 0) false
    else .empty

/-- A `tnext` ends: its registers are written, and a record taken seals and acquires at device scope (R205). -/
def State.tnextDone (s : State) (w : Wave) (d : Nat) (words : List Word) (taken : Bool) : State :=
  let s := if taken then s.invalidate w.core 4 else s
  s.putWave ((if taken then w.seal s.dtime else w).setRun d words)

/-- Waves parked at a feed slot are served in the order in which they parked, as far as there is something to take; a page or an
engine that holds the next record up is met again at the next poll, answer or completion. -/
def State.serveFeed (s : State) (part slot : Nat) : List Wave → State
  | [] => s
  | w :: r =>
    match w.life with
    | .parked (.feed _ d) =>
      match s.takeFeed part slot with
      | .status s words taken => ((s.tnextDone w d words taken).modWave w.uid Wave.woken).serveFeed part slot r
      | .wait sp p => s.requestPages sp p.toList
      | .empty => s
    | _ => s.serveFeed part slot r

/-- The waves parked at a feed slot, in the order in which they parked. -/
def State.feedWaiters (s : State) (part slot : Nat) : List Wave :=
  sortBy (fun w => w.ticket) (s.waves.filter (fun w => w.part == part && (match w.life with | .parked (.feed k _) => k == slot | _ => false)))

/-- Every feed serves its waves. -/
def State.serveFeeds (s : State) : State := s.feeds.foldl (fun s f => s.serveFeed f.part f.slot (s.feedWaiters f.part f.slot)) s

/-- `tnext` (R205): it parks behind the waves that wait at its slot, and where its record is not there yet, or not readable yet. -/
def execTnext (c : Bool) (d a : R8) (s : State) : Host.Outcome State Fault Refusal :=
  s.onWave fun w =>
    let slot := (w.rs a.toNat).toNat % 16
    let waits (s : State) : State := s.park w (.feed slot d.toNat) 1 c .C
    if s.feedWaiters w.part slot != [] then waits s
    else
      match s.takeFeed w.part slot with
      | .status s words taken => (s.tnextDone w d.toNat words taken).advanceWave w.uid 1 c .C
      | .wait sp p => waits (s.requestPages sp p.toList)
      | .empty => waits s

/-! ### The admission heap (R76 to R79, R206 to R208) -/

def HeapEntry.key (e : HeapEntry) : Nat := e.deadline * 2 ^ 24 + e.reqid

/-- The word that an admitted entry gives, OVERBUDGET in bit 24. -/
def HeapEntry.word (e : HeapEntry) (excess : Bool) : Word := BitVec.ofNat 32 (e.swf * 2 ^ 25 + (if excess then 2 ^ 24 else 0) + e.reqid)

/-- The admission of R78 from n entries that cost `sum`: the words, the sum, and what is left of the heap. -/
def admitFrom (limit budget : Nat) : Nat → Nat → List HeapEntry → List Word × Nat × List HeapEntry
  | _, sum, [] => ([], sum, [])
  | n, sum, e :: r =>
    if n < limit then
      if sum + e.cost ≤ budget then
        let (ws, t, rest) := admitFrom limit budget (n + 1) (sum + e.cost) r
        (e.word false :: ws, t, rest)
      else if n = 0 then ([e.word true], e.cost, r)
      else ([], sum, e :: r)
    else ([], sum, e :: r)

/-- `hpush` (R206): the hub inserts the entry, and the code lands. -/
def execHpush (c : Bool) (d a : R8) (s : State) : Host.Outcome State Fault Refusal :=
  s.onWave fun w =>
    let r (i : Nat) : Nat := (w.rs (a.toNat + i)).toNat
    let e : HeapEntry := { deadline := r 1 % 256 * 2 ^ 32 + r 0, reqid := r 2 % 2 ^ 24, cost := r 3 % 2 ^ 16, swf := r 3 / 2 ^ 16 % 128 }
    let p := s.part w.part
    let full := decide (65536 ≤ p.heap.length)
    let s := if full then s else s.putPart w.part { p with heap := insertBy HeapEntry.key e p.heap }
    (s.issueOp w none true (.regs [.s d.toNat (if full then 1 else 0)]) .none []).advanceWave w.uid 2 c .A

/-- The output area of an admission is checked (R207): n bytes at scratchpad offset a. DEDUCED (log 38). -/
def State.admitTrap (s : State) (w : Wave) (a n : Nat) : Option Trap :=
  if a % 4 ≠ 0 then some { cause := 0x08, addr := BitVec.ofNat 64 a }
  else if w.foot.spad * 1024 < a + n then some { cause := 0x0A, addr := BitVec.ofNat 64 a }
  else
    ((wordsTouched (w.spadKey a) n).find? (fun x => kvGet false s.tags x)).map (fun x =>
      { cause := 0x0B, addr := BitVec.ofNat 64 (max a (8 * x - w.spadKey 0)) })

/-- Words put into the wave's scratchpad from offset a. -/
def State.putWords (s : State) (w : Wave) (a : Nat) (ws : List Word) : State := s.spadPut (w.spadKey a) (bytesFrom ws)

/-- A heap operation has been applied: its count lands, and the wave seals and goes on. -/
def State.admitDone (s : State) (w : Wave) (c : Bool) (d : R8) (n : Nat) : State :=
  ((s.issueOp w none true (.regs [.s d.toNat (BitVec.ofNat 32 n)]) .none []).modWave w.uid (fun x => x.seal s.dtime)).advanceWave w.uid 2 c .A

/-- `hadmit` (R207). -/
def execHadmit (c : Bool) (d a b : R8) (s : State) : Host.Outcome State Fault Refusal :=
  s.onWave fun w =>
    let off := (w.rs a.toNat).toNat; let limit := (w.rs b.toNat).toNat
    match s.admitTrap w off (4 * limit) with
    | some t => s.takeTrap w t
    | none =>
      let p := s.part w.part
      let (ws, sum, rest) := admitFrom limit w.tbudget.toNat 0 0 p.heap
      let s := ((s.putPart w.part { p with heap := rest }).putWords w off ws).modWave w.uid
        (fun (x : Wave) => { x with tbudget := BitVec.ofNat 32 (w.tbudget.toNat - sum) })
      s.admitDone w c d ws.length

/-- The groups of `hadmit.multi`, one after another (R208): the device, what is left of the heap, and the total. -/
def State.admitGroups (s : State) (w : Wave) (off : Nat) (budget : Nat → Nat) : List Nat → List HeapEntry → State × List HeapEntry × Nat
  | [], heap => (s, heap, 0)
  | g :: r, heap =>
    let (ws, sum, rest) := admitFrom 64 (budget g) 0 0 heap
    let s := s.putWords w (off + 64 + 256 * g) ws
    let s := s.putWords w (off + 4 * g) [BitVec.ofNat 32 (budget g - sum)]
    let s := s.putWords w (off + 32 + 4 * g) [BitVec.ofNat 32 ws.length]
    let (s, h, n) := s.admitGroups w off budget r rest
    (s, h, ws.length + n)

/-- `hadmit.multi` (R208). -/
def execHadmitMulti (c : Bool) (d a b : R8) (s : State) : Host.Outcome State Fault Refusal :=
  s.onWave fun w =>
    let off := (w.rs a.toNat).toNat; let groups := min (w.rs b.toNat).toNat 8
    match s.admitTrap w off (4 * (16 + 64 * groups)) with
    | some t => s.takeTrap w t
    | none =>
      match s.spadPoisonTrap 4 ((List.range groups).map (fun g => (0, off + 4 * g, w.spadKey (off + 4 * g)))) with
      | some t => s.takeTrap w { t with lanes := 0 }
      | none =>
        let budget (g : Nat) : Nat := leNat (s.spadBytes (w.spadKey (off + 4 * g)) 4)
        let p := s.part w.part
        let (s', rest, n) := s.admitGroups w off budget (List.range groups) p.heap
        (s'.putPart w.part { p with heap := rest }).admitDone w c d n

end Sys2Proof.Machine
end

