-- ==== Sys2Proof/Machine/Finish.lean ====
section
/-! DEFINITION. What follows when an operation in flight has completed (R156, R268, R292): its completion target, the waits
that end, and the steps that become possible. -/

namespace Sys2Proof.Machine

/-- The status word of a token (R268). -/
def tokenWord (o : Outcome) : Word :=
  BitVec.ofNat 32 (o.cause + (if o.side then 2 ^ 8 else 0) + (if o.poison then 2 ^ 16 else 0))

/-- A completion target is written (R268): a token, or a semaphore; one that stopped early also sets bit 31. A dropped
completion writes nothing. -/
def State.report (s : State) (o : Op) (status result : Word) (stopped : Bool) (bytes : Nat) : State :=
  match o.dropped, s.wave? o.uid with
  | false, some w =>
    let add (n d : Nat) : State :=
      s.semAdd w.core w.cx (w.semKey n) (fun v => if stopped then (v + BitVec.ofNat 32 d) ||| 0x80000000 else v + BitVec.ofNat 32 d)
    match o.done with
    | .none => s
    | .token t => s.modWave o.uid (fun w => (w.setS t status).setS (t + 1) result)
    | .semOne n => add n 1
    | .semBytes n => add n bytes
  | _, _ => s

/-- Batches complete in order (R292): those at the head whose operations have all completed. -/
def doneBatches (live : Nat → Bool) : List (Nat × List Nat) → List (Nat × List Nat)
  | [] => []
  | b :: r => if b.2.any live then b :: r else doneBatches live r

/-- The waits of a wave that the completion of one of its operations ends: `waitc` (R280) and `mwait` (R303). -/
def State.settle (s : State) (uid : Nat) : State :=
  s.modWave uid (fun w =>
    let w := { w with batches := doneBatches (fun id => s.ops.any (fun o => o.id == id)) w.batches }
    match w.life with
    | .parked (.counters ld st cp mm) => if s.countersOk uid ld st cp mm then w.woken else w
    | .parked (.batch n) => if w.batches.any (fun b => b.1 == n) then w else w.woken
    | _ => w)

/-- Matrix work of a core that may now go on. DESIGN CHOICE (log 34). -/
def State.stirMatrix (s : State) (cc : Nat) : State :=
  let s := s.unstall
  let s := if s.quarters.any (fun q => q.cc == cc) then s.dueOnce .matrixPassDepart { core := cc } else s
  (s.ops.filter (fun o => 192 * o.cx + o.core == cc && (match o.kind with
    | .bload .. | .walk _ | .accz .. | .accrd .. | .accwr .. => true
    | _ => false))).foldl (fun s o => s.dueOnce o.kind.event { op := o.id, core := cc }) s

/-- What a core keeps of lines that a copy or Bramble operation of a wave owned (R321): its own bytes stored since. -/
def State.disown (s : State) (o : Op) : State :=
  if o.packet.isSome then s
  else
    o.owned.foldl (fun (s : State) line =>
      let s := match s.l1Find o.core line with
        | some x => if x.dirty = 0 then s.l1Drop o.core line else s.l1Put { x with filled := false }
        | none => s
      s.rdcDrop (coreDie o.core) line) s

/-- An operation has done its work: `left` is what is left of it, or it is gone, and captured writes of it have landed. What waited for
it is looked at again. -/
def State.endOp (s : State) (o : Op) (left : Option OpKind) : State :=
  let s := s.disown o
  let held := left.isNone && s.blocks.any (fun b => b.pend.any (fun d => d.op == o.id))
  let s := match left with
    | some k => s.modOp o.id (fun o => { o with kind := k, owned := [], pins := [], spads := [] })
    | none => { s.dropOp o.id with blocks := s.blocks.map (fun (b : Block) => { b with pend := b.pend.filter (fun d => d.op != o.id) }) }
  let s : State := { s with ports := s.ports.map (fun (p : Port) =>
                              { p with outstanding := p.outstanding.filter (· != o.id), lost := p.lost.filter (fun e => e.1 != o.id) }),
                            funcs := s.funcs.map (fun (f : Func) => { f with busyOps := f.busyOps.filter (· != o.id) }) }
  let s := (s.settle o.uid).stirWaiting
  let s := match s.wave? o.uid with
    | none => s
    | some w =>
      let s := if w.life = Life.exiting then s.dueOnce .waveRetire { uid := w.uid } else s
      if w.chosen then s.dueOnce .waveTakeOff { uid := w.uid } else s
  let s := if (s.part o.part).switching.isSome then s.dueOnce .contextHaltDone { part := o.part } else s
  let s := if (s.func o.space.fn).busy then s.dueOnce .dptinvBusyClear { fn := o.space.fn } else s
  let s := (s.stirMatrix (192 * o.cx + o.core)).serveFeeds
  let s := if held || o.owned != [] then s.stirEstates o.part else s
  let s := if o.moved = [] then s
    else (s.waves.filter (fun w => w.chosen)).foldl (fun s w => s.dueOnce .waveTakeOff { uid := w.uid }) s
  if o.rows = [] ∧ o.moved = [] ∧ o.spads = [] ∧ !o.kind.walks then s else s.dueOnce .placementPass { part := o.part }

/-- An operation has completed. -/
def State.finishOp (s : State) (o : Op) : State := s.endOp o none

/-- An operation completes: its register writes land and its completion target is written. Those of a wave that leaves its core are held
back until the wave has left, which drops them, or stays (R376). -/
def State.complete (s : State) (o : Op) (ws : List RegWrite) (status result : Word) (stopped : Bool) (bytes : Nat) : State :=
  if s.ownerLeaves o then s.endOp o (some (.report ws status result stopped bytes))
  else ((ws.foldl (fun s x => s.landOp o x) s).report o status result stopped bytes).finishOp o

/-- The register writes of an operation land, and it is complete. -/
def State.landAll (s : State) (o : Op) (ws : List RegWrite) : State := s.complete o ws 0 0 false 0

/-- The completion of a copy, a load of a B slot or a walk. -/
def State.completeWith (s : State) (o : Op) (x : Outcome) : State :=
  s.complete o [] (tokenWord x) (BitVec.ofNat 32 x.bytes) (x.cause != 0) x.bytes

/-- A port that went down has lost requests of the operation: it ends 50 µs after that (R405). -/
def State.portLost (s : State) (id : Nat) : Bool := s.ports.any (fun p => p.lost.any (fun e => e.1 == id))

/-- An operation waits: for a page (R255), with a Page Request going out, or for an engine that owns a line (R321). It is looked at
again when the page is there, or when an operation has completed. -/
def State.waitPage (s : State) (o : Op) (page : Option Nat) : State :=
  match page with
  | some p => (s.requestPages o.space [p]).modOp o.id (fun o => { o with waits := [p] })
  | none => s.hold o.kind.event { op := o.id, core := 192 * o.cx + o.core }

end Sys2Proof.Machine
end

