-- ==== Sys2Proof/Machine/Grammar.lean ====
section
/-! DEFINITION. Bramble (R343 to R363): contexts, images, stacks of shared segments, and the Bramble operations, which
run whole when they complete. -/

namespace Sys2Proof.Machine

/-! ### Accesses -/

/-- What a part of an operation gives: a value, a wait for a page (R344) or an engine (R321), a fault, a malformed image or an over-deep stack
(`bad`), or an empty pool (`empty`). The last three leave no effect beyond what the checks on the way found (R249, R250): their state is the one reached. -/
inductive GOut (α : Type) where
  | ok (a : α) (s : State)
  | wait (page : Option Nat)
  | fault (s : State) (cause : Nat)
  | bad (s : State)
  | empty (s : State)

def GOut.andThen {α β : Type} (x : GOut α) (f : α → State → GOut β) : GOut β :=
  match x with
  | .ok a s => f a s
  | .wait p => .wait p
  | .fault s c => .fault s c
  | .bad s => .bad s
  | .empty s => .empty s

/-- A failure leaves nothing of what was done on the way to s' (R344) but what it found: lines read with errors and lines that failed their
checks (R249, R250), and a peer's answers. A line that some core has rewritten whole was not read. -/
def State.keepChecks (s s' : State) : State :=
  let rewritten (l : Nat) : Bool := s.l1.any (fun x => x.line == l && x.dirty == BitVec.allOnes 128)
  let met := (s.ecc.map Prod.fst).filter (fun l => kvGet .good s'.ecc l == .good && !rewritten l) ++
    (s'.poison.map Prod.fst).filter (fun l => !s.poisoned l)
  { met.foldl State.checkLine s with draws := s'.draws }

/-- n bytes inside a page; a poisoned line ends the operation. -/
def State.gPage (s : State) (e : View) (va n : Nat) : GOut (List Byte) :=
  match s.readVa e va n with
  | .ok (s', bs) => if s.poisonVa e va n then .fault (s'.checkVa e va n) 0x0C else .ok bs s'
  | .miss p => .wait p
  | .fail perm => .fault (s.walkCheck e va) (if perm then 0x0A else 0x09)

/-- The little-endian number of n bytes, over a page boundary if need be. -/
def State.gRead (s : State) (e : View) (va n : Nat) : GOut Nat :=
  let m := min n (4096 - va % 4096)
  (s.gPage e va m).andThen fun a s =>
    if m = n then .ok (leNat a) s else (s.gPage e (va + m) (n - m)).andThen fun b s => .ok (leNat (a ++ b)) s

def State.gPut (s : State) (e : View) (va : Nat) (bs : List Byte) : GOut Unit :=
  match s.writeVa e va bs with
  | .ok s => .ok () s
  | .miss p => .wait p
  | .fail perm => .fault (s.walkCheck e va) (if perm then 0x0A else 0x09)

/-- n little-endian bytes of a number written. -/
def State.gWrite (s : State) (e : View) (va n v : Nat) : GOut Unit :=
  let m := min n (4096 - va % 4096)
  (s.gPut e va (toBytes m v)).andThen fun _ s => if m = n then .ok () s else s.gPut e (va + m) (toBytes (n - m) (v / 2 ^ (8 * m)))

/-! ### Contexts (R350) and images (R345) -/

structure GCtx where
  addr : Nat
  pool : Nat
  hist : Nat
  image : Nat
  stk : Nat
  depth : Nat
  state : Nat
  steps : Nat
  commit : Nat
  error : Bool
  rejected : Bool
  active : Bool
deriving DecidableEq, Repr

def parseCtx (addr v : Nat) : GCtx :=
  { addr := addr, pool := bitsOf v 488 432, hist := bitsOf v 424 368, image := bitsOf v 360 304, stk := bitsOf v 296 240,
    depth := bitsOf v 234 224, state := bitsOf v 223 208, steps := bitsOf v 207 168, commit := bitsOf v 167 128,
    error := bitOf v 2, rejected := bitOf v 1, active := bitOf v 0 }

def GCtx.word (c : GCtx) : Nat :=
  (if c.active then 1 else 0) + (if c.rejected then 2 else 0) + (if c.error then 4 else 0) + c.commit % 2 ^ 40 * 2 ^ 128 +
  c.steps % 2 ^ 40 * 2 ^ 168 + c.state * 2 ^ 208 + c.depth * 2 ^ 224 + c.stk * 2 ^ 240 + c.image % 2 ^ 57 * 2 ^ 304 + c.hist * 2 ^ 368 +
  c.pool * 2 ^ 432

/-- A context without a position, its POOL and HIST kept. -/
def GCtx.clear (c : GCtx) : GCtx :=
  { c with image := 0, stk := 0, depth := 0, state := 0, steps := 0, commit := 0, error := false, rejected := false, active := false }

def GCtx.bound (c : GCtx) : Bool := c.active && !c.error

def State.gCtx (s : State) (e : View) (addr : Nat) : GOut GCtx := (s.gRead e addr 64).andThen fun v s => .ok (parseCtx addr v) s
def State.putCtx (s : State) (e : View) (c : GCtx) : GOut Unit := s.gWrite e c.addr 64 c.word

structure GHead where
  image : Nat
  trans : Nat
  states : Nat
  eos : Nat
  vocab : Nat
  nsym : Nat
  nstate : Nat
  hashLog : Nat
  /-- Everything else that R357 checks of the header alone. -/
  good : Bool
deriving DecidableEq, Repr

def parseHead (image v : Nat) : GHead :=
  let vocab := bitsOf v 147 128; let nstate := bitsOf v 101 85; let hl := bitsOf v 84 80
  { image := image, trans := bitsOf v 255 224, states := bitsOf v 223 192, eos := bitsOf v 179 160, vocab := vocab,
    nsym := bitsOf v 114 102, nstate := nstate, hashLog := hl,
    good := bitsOf v 31 0 == 0xB7A13E03 && bitsOf v 71 64 == 1 && bitsOf v 1023 256 == 0 && bitsOf v 191 180 == 0 &&
      bitsOf v 159 148 == 0 && bitsOf v 127 115 == 0 && bitsOf v 79 72 == 0 && bitsOf v 63 32 == 0 &&
      decide (1 ≤ vocab ∧ vocab ≤ 524288) && decide (bitsOf v 114 102 ≤ 4096) && decide (1 ≤ nstate ∧ nstate ≤ 65536) &&
      decide (4 ≤ hl ∧ hl ≤ 24) && bitsOf v 255 224 % 16 == 0 && bitsOf v 223 192 % 32 == 0 }

def State.gHead (s : State) (e : View) (image : Nat) : GOut GHead := (s.gRead e image 128).andThen fun v s => .ok (parseHead image v) s

/-! ### States, runs, dependent entries, transitions (R346 to R349) -/

structure GStateEntry where
  accept : Bool
  depn : Nat
  depOff : Nat
  nrun : Nat
  maskOff : Nat
deriving DecidableEq, Repr

def State.gState (s : State) (e : View) (h : GHead) (st : Nat) : GOut GStateEntry :=
  (s.gRead e (h.image + h.states + 32 * st) 32).andThen fun v s =>
    if bitsOf v 255 209 != 0 || bitsOf v 159 148 != 0 || bitsOf v 95 0 != 0 || bitsOf v 191 160 % 4 != 0 || bitsOf v 127 96 % 4 != 0 then .bad s
    else .ok { accept := bitOf v 208, depn := bitsOf v 207 192, depOff := bitsOf v 191 160, nrun := bitsOf v 147 128, maskOff := bitsOf v 127 96 } s

/-- A run of the mask: first token, length, value. -/
abbrev Run := Nat × Nat × Bool

/-- What reading n runs from a token on gives: those read, and where and why the reading stopped. -/
inductive RunRead where
  | ok (runs : List Run) (s : State)
  | stop (runs : List Run) (s : State) (pos : Nat) (cause : Nat) (bad : Bool)
  | wait (page : Option Nat)

def RunRead.cons (r : Run) : RunRead → RunRead
  | .ok l s => .ok (r :: l) s
  | .stop l s p c b => .stop (r :: l) s p c b
  | .wait p => .wait p

def State.gRuns (s : State) (e : View) (vocab addr : Nat) : Nat → Nat → RunRead
  | 0, _ => .ok [] s
  | n + 1, pos =>
    match s.gRead e addr 4 with
    | .wait p => .wait p
    | .fault s c => .stop [] s pos c false
    | .bad s | .empty s => .stop [] s pos 0x11 true
    | .ok v s =>
      let len := bitsOf v 19 0 + 1
      if bitsOf v 30 20 != 0 || decide (vocab < pos + len) then .stop [] s pos 0x11 true
      else RunRead.cons (pos, len, bitOf v 31) (s.gRuns e vocab (addr + 4) n (pos + len))

/-- The stack-dependent entries: symbol and token. -/
def State.gDeps (s : State) (e : View) (nsym addr : Nat) : Nat → GOut (List (Nat × Nat))
  | 0 => .ok [] s
  | n + 1 =>
    (s.gRead e addr 4).andThen fun v s =>
      if nsym ≤ bitsOf v 31 20 then .bad s
      else (s.gDeps e nsym (addr + 4) n).andThen fun r s => .ok ((bitsOf v 31 20, bitsOf v 19 0) :: r) s

/-- The top symbol of a stack that is not empty (R352). -/
def State.gTop (s : State) (e : View) (c : GCtx) : GOut Nat :=
  (s.gRead e (c.stk + 2 * ((c.depth - 1) % 16)) 2).andThen fun v s => .ok (v % 4096) s

/-- The hash of R348. -/
def gHash (h : GHead) (st t : Nat) : Nat := (((st * 2 ^ 20) ^^^ t) % 2 ^ 32 * 0x9E3779B1) % 2 ^ 32 / 2 ^ (32 - h.hashLog)

/-- The transition of a state on a token: next state, action, symbol; none for a miss. Malformed after 64 buckets. -/
def State.gLookup (s : State) (e : View) (h : GHead) (st t : Nat) : Nat → Nat → GOut (Option (Nat × Nat × Nat))
  | 0, _ => .bad s
  | n + 1, i =>
    (s.gRead e (h.image + h.trans + 16 * ((gHash h st t + i) % 2 ^ h.hashLog)) 16).andThen fun v s =>
      if bitsOf v 127 113 != 0 || bitsOf v 45 0 != 0 then .bad s
      else if !bitOf v 112 then .ok none s
      else if h.nstate ≤ bitsOf v 75 60 ∨ bitsOf v 59 58 = 3 ∨ h.nsym ≤ bitsOf v 57 46 then .bad s
      else if bitsOf v 111 92 = t ∧ bitsOf v 91 76 = st then .ok (some (bitsOf v 75 60, bitsOf v 59 58, bitsOf v 57 46)) s
      else s.gLookup e h st t n (i + 1)

def inRuns (t : Nat) (runs : List Run) : Bool := runs.any (fun r => r.2.2 && decide (r.1 ≤ t) && decide (t < r.1 + r.2.1))

/-- Allowed (R349). What of the image a `gstep` meets on the way, the spec leaves open: here the state entry, for every token; all runs of
the state for a token below VOCAB, those beyond the token too; and the dependent list when the runs do not allow the token and the stack is
not empty. DESIGN CHOICE (log 94). -/
def State.gAllowed (s : State) (e : View) (h : GHead) (c : GCtx) (t : Nat) : GOut Bool :=
  (s.gState e h c.state).andThen fun st s =>
    if h.vocab ≤ t then .ok false s
    else
      match s.gRuns e h.vocab (h.image + st.maskOff) st.nrun 0 with
      | .wait p => .wait p
      | .stop _ s _ _ true => .bad s
      | .stop _ s _ cause false => .fault s cause
      | .ok runs s =>
        if inRuns t runs then .ok true s
        else if c.depth = 0 then .ok (t == h.eos && st.accept) s
        else
          (s.gDeps e h.nsym (h.image + st.depOff) st.depn).andThen fun deps s =>
            if deps = [] then .ok false s
            else (s.gTop e c).andThen fun y s => .ok (deps.contains (y, t)) s

/-! ### Segments (R352, R353) -/

/-- Take(): the head of the pool. -/
def State.gTake (s : State) (e : View) (pool : Nat) : GOut Nat :=
  (s.gRead e pool 12).andThen fun v s =>
    let g := bitsOf v 56 0
    if bitsOf v 95 64 = 0 ∨ g = 0 then .empty s
    else
      (s.gRead e (g + 32) 8).andThen fun next s =>
        (s.gWrite e pool 12 (next % 2 ^ 57 + (bitsOf v 95 64 - 1) * 2 ^ 64)).andThen fun _ s => .ok g s

/-- Give(). -/
def State.gGive (s : State) (e : View) (pool g : Nat) : GOut Unit :=
  (s.gRead e pool 12).andThen fun v s =>
    (s.gWrite e (g + 32) 8 (bitsOf v 56 0)).andThen fun _ s => s.gWrite e pool 12 (g + (bitsOf v 95 64 + 1) % 2 ^ 32 * 2 ^ 64)

def State.gAddRef (s : State) (e : View) (g : Nat) : GOut Unit :=
  if g = 0 then .ok () s else (s.gRead e (g + 40) 4).andThen fun r s => s.gWrite e (g + 40) 4 ((r + 1) % 2 ^ 32)

/-- Release(): the number of segments given back. A chain is no longer than memory has segments: the fuel. -/
def State.gRelease (s : State) (e : View) (pool : Nat) : Nat → Nat → GOut Nat
  | 0, _ => .ok 0 s
  | fuel + 1, g =>
    if g = 0 then .ok 0 s
    else
      (s.gRead e (g + 32) 12).andThen fun v s =>
        let r := (bitsOf v 95 64 + 2 ^ 32 - 1) % 2 ^ 32
        (s.gWrite e (g + 40) 4 r).andThen fun _ s =>
          if r ≠ 0 then .ok 0 s
          else
            (s.gRelease e pool fuel (bitsOf v 56 0)).andThen fun n s => (s.gGive e pool g).andThen fun _ s => .ok (n + 1) s

def segmentFuel : Nat := 2 ^ 51

def State.gReleaseAll (s : State) (e : View) (pool : Nat) : List Nat → GOut Nat
  | [] => .ok 0 s
  | g :: r => (s.gRelease e pool segmentFuel g).andThen fun n s => (s.gReleaseAll e pool r).andThen fun m s => .ok (n + m) s

/-- Push(). -/
def State.gPush (s : State) (e : View) (c : GCtx) (x : Nat) : GOut GCtx :=
  let k := c.depth % 16
  if k = 0 then
    (s.gTake e c.pool).andThen fun g s =>
      (s.gWrite e g 2 x).andThen fun _ s =>
        (s.gWrite e (g + 32) 12 (c.stk + 2 ^ 64)).andThen fun _ s => .ok { c with stk := g, depth := c.depth + 1 } s
  else
    (s.gRead e c.stk 44).andThen fun top s =>
      if bitsOf top 351 320 = 1 then (s.gWrite e (c.stk + 2 * k) 2 x).andThen fun _ s => .ok { c with depth := c.depth + 1 } s
      else
        (s.gTake e c.pool).andThen fun g s =>
          (s.gWrite e g (2 * k + 2) (top % 2 ^ (16 * k) + x * 2 ^ (16 * k))).andThen fun _ s =>
            let next := bitsOf top 312 256
            (s.gWrite e (g + 32) 12 (next + 2 ^ 64)).andThen fun _ s =>
              (s.gAddRef e next).andThen fun _ s =>
                (s.gRelease e c.pool segmentFuel c.stk).andThen fun _ s => .ok { c with stk := g, depth := c.depth + 1 } s

/-- Pop(). -/
def State.gPop (s : State) (e : View) (c : GCtx) : GOut GCtx :=
  let d := c.depth - 1
  if d % 16 ≠ 0 then .ok { c with depth := d } s
  else
    (s.gRead e (c.stk + 32) 8).andThen fun next s =>
      (s.gAddRef e (next % 2 ^ 57)).andThen fun _ s =>
        (s.gRelease e c.pool segmentFuel c.stk).andThen fun _ s => .ok { c with stk := next % 2 ^ 57, depth := d } s

/-- Hist(i): state, depth, segment. -/
def State.gHist (s : State) (e : View) (c : GCtx) (i : Nat) : GOut (Nat × Nat × Nat) :=
  (s.gRead e (c.hist + 16 * (i % 64)) 16).andThen fun v s => .ok (bitsOf v 15 0, bitsOf v 42 32, bitsOf v 120 64) s

/-- Segments of the history entries listed. -/
def State.gHistSegs (s : State) (e : View) (c : GCtx) : List Nat → GOut (List Nat)
  | [] => .ok [] s
  | i :: r => (s.gHist e c i).andThen fun x s => (s.gHistSegs e c r).andThen fun l s => .ok (x.2.2 :: l) s

/-! ### The operations (R357 to R362) -/

/-- How an operation on a readable context ends: the context that the status word shows, CAUSE with flags, the result value. -/
structure GEnd where
  ctx : GCtx
  bits : Nat
  result : Nat
deriving DecidableEq, Repr

def causeGrammar : Nat := 0x11
def flagREJ : Nat := 2 ^ 9
def flagBUSY : Nat := 2 ^ 12
def flagHF : Nat := 2 ^ 13
def flagPE : Nat := 2 ^ 14

/-- The status word (R356). -/
def GEnd.status (x : GEnd) : Word :=
  BitVec.ofNat 32 (x.bits + (if x.ctx.active then 2 ^ 8 else 0) + (if x.ctx.error then 2 ^ 10 else 0) + x.ctx.state * 2 ^ 16)

def State.gbindRun (s : State) (e : View) (c : GCtx) (image start : Nat) : GOut GEnd :=
  if c.active then .ok { ctx := c, bits := causeGrammar + flagBUSY, result := 0 } s
  else
    let finish (good : Bool) (s : State) : GOut GEnd :=
      let c' := { c.clear with image := image, state := if good then start else 0, active := good, error := !good }
      (s.putCtx e c').andThen fun _ s => .ok { ctx := c', bits := if good then 0 else causeGrammar, result := 0 } s
    if image % 128 ≠ 0 then finish false s
    else (s.gHead e image).andThen fun h s => finish (h.good && decide (start < h.nstate)) s

/-- A push finds the pool empty, before anything is written (R358). It needs Take() for a new segment, and for a full copy of the top, to
which the history entry and the context refer once AddRef is done (R353): REF is then 1 only for a top segment whose REF was 0. A top
that cannot be read is no such segment. DEDUCED (log 95). -/
def State.gRoom (s : State) (e : View) (c : GCtx) : GOut Unit :=
  (s.gRead e c.pool 12).andThen fun v s =>
    if bitsOf v 95 64 ≠ 0 ∧ bitsOf v 56 0 ≠ 0 then .ok () s
    else if c.depth % 16 = 0 then .empty s
    else
      match s.gRead e (c.stk + 40) 4 with
      | .ok 0 s => .ok () s
      | _ => .empty s

/-- An allowed token's transition, EOSTOK's being to stay (R358). -/
def State.gStepTo (s : State) (e : View) (h : GHead) (c : GCtx) (t : Nat) : GOut (Nat × Nat × Nat) :=
  if t = h.eos then .ok (c.state, 0, 0) s
  else (s.gLookup e h c.state t 64 0).andThen fun x s => match x with | some y => .ok y s | none => .bad s

/-- The step itself: the position before it goes into the history, the stack and the state change. -/
def State.gApply (s : State) (e : View) (c : GCtx) (n act y : Nat) : GOut GEnd :=
  (s.gWrite e (c.hist + 16 * (c.steps % 64)) 16 (c.state + c.depth * 2 ^ 32 + c.stk * 2 ^ 64)).andThen fun _ s =>
    (s.gAddRef e c.stk).andThen fun _ s =>
      (if act = 1 then s.gPush e c y else if act = 2 then s.gPop e c else .ok c s).andThen fun c' s =>
        let c' := { c' with state := n, steps := c.steps + 1, rejected := false }
        (s.putCtx e c').andThen fun _ s => .ok { ctx := c', bits := 0, result := c'.depth } s

def State.gstepRun (s : State) (e : View) (c : GCtx) (t : Nat) : GOut GEnd :=
  if !c.bound then .ok { ctx := c, bits := causeGrammar, result := c.depth } s
  else if 64 ≤ c.steps - c.commit then .ok { ctx := c, bits := causeGrammar + flagHF, result := c.depth } s
  else
    (s.gHead e c.image).andThen fun h s =>
      (s.gAllowed e h c t).andThen fun ok s =>
        if !ok then
          let c' := { c with rejected := true }
          (s.putCtx e c').andThen fun _ s => .ok { ctx := c', bits := flagREJ, result := c.depth } s
        else
          (s.gStepTo e h c t).andThen fun x s =>
            let (n, act, y) := x
            if act = 2 then
              if c.depth = 0 then .bad s
              else (s.gTop e c).andThen fun top s => if top = y then s.gApply e c n act y else .bad s
            else if act = 1 then
              if 1024 ≤ c.depth then .bad s else (s.gRoom e c).andThen fun _ s => s.gApply e c n act y
            else s.gApply e c n act y

def State.gforkRun (s : State) (e : View) (c d : GCtx) : GOut GEnd :=
  let none_ : GEnd := { ctx := d, bits := causeGrammar + (if d.active then flagBUSY else 0), result := d.depth }
  if !c.bound || d.active || c.pool != d.pool then .ok none_ s
  else
    let d' := { d with image := c.image, state := c.state, depth := c.depth, stk := c.stk, steps := c.steps, commit := c.steps,
                       active := true, error := false, rejected := false }
    (s.gAddRef e c.stk).andThen fun _ s => (s.putCtx e d').andThen fun _ s => .ok { ctx := d', bits := 0, result := d'.depth } s

/-- `groll` (R361): the history entries that it needs are all read before the first Release, so that of several faults theirs comes first.
DESIGN CHOICE (log 96). -/
def State.grollRun (s : State) (e : View) (c : GCtx) (n : Nat) : GOut GEnd :=
  if !c.active || decide (c.steps - c.commit < n) then .ok { ctx := c, bits := causeGrammar, result := c.steps - c.commit } s
  else
    let finish (c' : GCtx) (s : State) : GOut GEnd :=
      (s.putCtx e c').andThen fun _ s => .ok { ctx := c', bits := 0, result := c'.steps - c'.commit } s
    let c1 := { c with rejected := false, error := false }
    if n = 0 then finish c1 s
    else
      (s.gHistSegs e c ((List.range (n - 1)).map (fun i => c.steps - n + 1 + i))).andThen fun segs s =>
        (s.gHist e c (c.steps - n)).andThen fun x s =>
          (s.gReleaseAll e c.pool (segs ++ [c.stk])).andThen fun _ s =>
            finish { c1 with state := x.1, depth := x.2.1, stk := x.2.2, steps := c.steps - n } s

/-- `gcommit` (R361), its history entries read before the first Release as those of `groll` are. DESIGN CHOICE (log 96). -/
def State.gcommitRun (s : State) (e : View) (c : GCtx) (n : Nat) : GOut GEnd :=
  if !c.bound || decide (c.steps - c.commit < n) then .ok { ctx := c, bits := causeGrammar, result := c.steps - c.commit } s
  else
    (s.gHistSegs e c ((List.range n).map (fun i => c.commit + i))).andThen fun segs s =>
      (s.gReleaseAll e c.pool segs).andThen fun _ s =>
        let c' := { c with commit := c.commit + n }
        (s.putCtx e c').andThen fun _ s => .ok { ctx := c', bits := 0, result := c'.steps - c'.commit } s

def State.gfreeRun (s : State) (e : View) (c : GCtx) : GOut GEnd :=
  if !c.active then .ok { ctx := c, bits := causeGrammar, result := 0 } s
  else
    (s.gHistSegs e c ((List.range (c.steps - c.commit)).map (fun i => c.commit + i))).andThen fun segs s =>
      (s.gReleaseAll e c.pool (c.stk :: segs)).andThen fun n s =>
        (s.putCtx e c.clear).andThen fun _ s => .ok { ctx := c.clear, bits := 0, result := n } s

/-! ### Masks (R359) -/

/-- The bytes of line i of a mask. -/
def maskLine (h : GHead) (allowed : Nat → Bool) (i : Nat) : List Byte :=
  (List.range 128).map (fun j => BitVec.ofBoolListLE ((List.range 8).map (fun b =>
    decide (1024 * i + 8 * j + b < h.vocab) && allowed (1024 * i + 8 * j + b))))

/-- Tokens that line i allows. -/
def maskCount (h : GHead) (allowed : Nat → Bool) (i : Nat) : Nat :=
  ((List.range 1024).filter (fun j => decide (1024 * i + j < h.vocab) && allowed (1024 * i + j))).length

/-- What the image says of a mask: the tokens allowed, and where and why it stops short (line, cause, malformed). -/
structure MaskImage where
  allowed : Nat → Bool
  stop : Option (Nat × Nat × Bool)

/-- The image's part of a mask. -/
inductive MaskRead where
  | ok (m : MaskImage) (s : State)
  | wait (page : Option Nat)

/-- A fault or malformation of a part that decides line 0: of the state entry and the dependent list (R359), and of the stack's top segment,
for which the rule names no line. DESIGN CHOICE (log 97). -/
def maskStop (s : State) (cause : Nat) (bad : Bool) : MaskRead := .ok { allowed := fun _ => false, stop := some (0, cause, bad) } s

def State.gMask (s : State) (e : View) (h : GHead) (c : GCtx) : MaskRead :=
  match s.gState e h c.state with
  | .wait p => .wait p
  | .fault s k => maskStop s k false
  | .bad s | .empty s => maskStop s causeGrammar true
  | .ok st s =>
    match s.gDeps e h.nsym (h.image + st.depOff) st.depn with
    | .wait p => .wait p
    | .fault s k => maskStop s k false
    | .bad s | .empty s => maskStop s causeGrammar true
    | .ok deps s =>
      match if c.depth = 0 ∨ deps = [] then .ok 0 s else s.gTop e c with
      | .wait p => .wait p
      | .fault s k => maskStop s k false
      | .bad s | .empty s => maskStop s causeGrammar true
      | .ok y s =>
        let allowed (runs : List Run) (t : Nat) : Bool :=
          inRuns t runs || (c.depth != 0 && deps.contains (y, t)) || (t == h.eos && st.accept && c.depth == 0)
        match s.gRuns e h.vocab (h.image + st.maskOff) st.nrun 0 with
        | .wait p => .wait p
        | .ok runs s => .ok { allowed := allowed runs, stop := none } s
        | .stop runs s pos k bad => .ok { allowed := allowed runs, stop := some (pos / 1024, k, bad) } s

/-- The first of n lines from an address that cannot be written, or for `gmask.delta` read: its line and cause. One that an earlier
operation owns is waited for (R321). -/
inductive MaskDst where
  | ok (s : State) (n : Nat) (stop : Option Nat)
  | wait (page : Option Nat)

def State.gMaskDst (s : State) (e : View) (addr : Nat) (delta : Bool) : Nat → Nat → MaskDst
  | 0, i => .ok s i none
  | n + 1, i =>
    let va := (addr + 128 * i) % 2 ^ 64
    match s.page e va true with
    | .miss p => .wait p
    | .fail perm => .ok (s.walkCheck e va) i (some (if perm then 0x0A else 0x09))
    | .ok p =>
      if !isPeerPa p.pa && s.runHeld e.op p.pa 128 then .wait none
      else if delta && s.poisonVa e va 128 then .ok (s.checkVa e va 128) i (some 0x0C)
      else s.gMaskDst e addr delta n (i + 1)

/-- The lines of a mask written in ascending order; `gmask.delta` rewrites those that differ, whose numbers it collects. -/
def State.gMaskLines (s : State) (e : View) (addr : Nat) (delta : Bool) (line : Nat → List Byte) : List Nat → State × List Nat
  | [] => (s, [])
  | i :: r =>
    let va := (addr + 128 * i) % 2 ^ 64
    let (s, same) := if delta then (match s.readVa e va 128 with | .ok (s', bs) => (s', bs == line i) | _ => (s, false)) else (s, false)
    let s1 := if same then s else match s.writeVa e va (line i) with | .ok s' => s' | _ => s
    let (s2, l) := s1.gMaskLines e addr delta line r
    (s2, if same then l else i :: l)

/-- A whole `gmask` or `gmask.delta` on a BOUND context. DEDUCED (log 37). Of a failure of the image and one of the mask at the same line, the
image's is reported: the line is not written, so that the mask's is not met. DESIGN CHOICE (log 97). -/
def State.gmaskRun (s : State) (e : View) (c : GCtx) (addr : Nat) (delta : Bool) : GOut GEnd :=
  if !c.bound then .ok { ctx := c, bits := causeGrammar, result := 0 } s
  else
    (s.gHead e c.image).andThen fun h s =>
      match s.gMask e h c with
      | .wait p => .wait p
      | .ok m s =>
        let lines := (h.vocab + 1023) / 1024
        let upTo := match m.stop with | some (i, _) => min i lines | none => lines
        match s.gMaskDst e addr delta upTo 0 with
        | .wait p => .wait p
        | .ok s n bad =>
          let (s, done) := s.gMaskLines e addr delta (maskLine h m.allowed) (List.range n)
          let stop : Option (Nat × Bool) := match bad with | some k => some (k, false) | none => m.stop.map Prod.snd
          let result := if delta then done.length else ((List.range n).map (maskCount h m.allowed)).foldl (· + ·) 0
          let map_ : GOut Unit := if delta then s.gWrite e ((addr + 128 * lines) % 2 ^ 64) 64 ((done.map (fun i => 2 ^ i)).foldl (· + ·) 0) else .ok () s
          let finish (s : State) (k : Nat) (broken : Bool) : GOut GEnd :=
            if broken then
              let c' := { c with error := true }
              match s.putCtx e c' with
              | .ok _ s => .ok { ctx := c', bits := k, result := result } s
              | .wait p => .wait p
              | .fault s' _ | .bad s' | .empty s' => .ok { ctx := c, bits := k, result := result } (s.keepChecks s')
            else .ok { ctx := c, bits := k, result := result } s
          match map_ with
          | .wait p => .wait p
          | .ok _ s => finish s ((stop.map Prod.fst).getD 0) ((stop.map Prod.snd).getD false)
          | .fault s' k => finish (s.keepChecks s') (((stop.map Prod.fst).getD k)) ((stop.map Prod.snd).getD false)
          | .bad s' | .empty s' => finish (s.keepChecks s') 0 false

/-! ### One operation -/

/-- What running one operation gives: its status word and result value, or a page to wait for. -/
inductive GRun where
  | done (s : State) (status result : Word)
  | wait (page : Option Nat)

/-- The status and result of an operation whose record cannot be read: the fields that show the context are free. -/
def State.gUnread (s : State) (fn : BrambleFn) (cause : Nat) : GRun :=
  let free := Config.freeWord s.draws
  let result := match fn with
    | .gstep | .gfork | .groll | .gcommit => Config.freeWord (s.draws + 1)
    | _ => 0
  .done { s with draws := s.draws + 2 } ((free &&& 0xFFFF0500) ||| BitVec.ofNat 32 cause) result

/-- The result value of an operation that has no effect on the context that the status shows. -/
def BrambleFn.idle (fn : BrambleFn) (c : GCtx) : Nat :=
  match fn with
  | .gstep | .gfork => c.depth
  | .groll | .gcommit => c.steps - c.commit
  | _ => 0

/-- An operation's end: a fault leaves no effect (R344) but what its reads found, a malformed image or an over-deep stack sets ERROR
(R354), an empty pool reports PE. `shown` is the context of the status word, `own` the one that would break. -/
def State.gSettle (s : State) (e : View) (fn : BrambleFn) (own shown : GCtx) (x : GOut GEnd) : GRun :=
  let idle (c : GCtx) (bits : Nat) (s : State) : GRun := .done s (GEnd.status { ctx := c, bits := bits, result := 0 }) (BitVec.ofNat 32 (fn.idle c))
  match x with
  | .ok r s' => .done s' r.status (BitVec.ofNat 32 r.result)
  | .wait p => .wait p
  | .fault s' k => idle shown k (s.keepChecks s')
  | .empty s' => idle shown (causeGrammar + flagPE) (s.keepChecks s')
  | .bad s' =>
    match (s.keepChecks s').putCtx e { own with error := true } with
    | .ok _ s' => idle { own with error := true } causeGrammar s'
    | .wait p => .wait p
    | .fault s2 k => idle own k ((s.keepChecks s').keepChecks s2)
    | .bad s2 | .empty s2 => idle own causeGrammar ((s.keepChecks s').keepChecks s2)

/-- A `gfork` whose source cannot be read shows the destination as it stands (R356, R360). -/
def State.gForkUnread (s : State) (e : View) (j : BrambleJob) (cause : Nat) : GRun :=
  match s.gCtx e j.arg with
  | .wait p => .wait p
  | .ok d s => s.gSettle e j.fn d d (.fault s cause)
  | .fault s' _ | .bad s' | .empty s' => (s.keepChecks s').gUnread j.fn cause

/-- One operation on a context runs whole. Its record's HIST is the one read at issue where a peer answered it. -/
def State.runBramble (s : State) (e : View) (j : BrambleJob) : GRun :=
  match s.gCtx e j.ctx with
  | .wait p => .wait p
  | .fault s' k => if j.fn = .gfork then (s.keepChecks s').gForkUnread e j k else (s.keepChecks s').gUnread j.fn k
  | .bad s' | .empty s' => (s.keepChecks s').gUnread j.fn causeGrammar
  | .ok c0 s1 =>
    let c := { c0 with hist := j.hist.getD c0.hist }
    match j.fn with
    | .gbind => s.gSettle e j.fn c c (s1.gbindRun e c j.arg (j.imm.toNat % 2 ^ 16))
    | .gstep => s.gSettle e j.fn c c (s1.gstepRun e c j.arg)
    | .gmask => s.gSettle e j.fn c c (s1.gmaskRun e c j.arg false)
    | .gmaskDelta => s.gSettle e j.fn c c (s1.gmaskRun e c j.arg true)
    | .groll => s.gSettle e j.fn c c (s1.grollRun e c j.arg)
    | .gcommit => s.gSettle e j.fn c c (s1.gcommitRun e c j.arg)
    | .gfree => s.gSettle e j.fn c c (s1.gfreeRun e c)
    | .gfork =>
      match s1.gCtx e j.arg with
      | .wait p => .wait p
      | .fault s' k => (s.keepChecks s').gUnread j.fn k
      | .bad s' | .empty s' => (s.keepChecks s').gUnread j.fn causeGrammar
      | .ok d s2 => s.gSettle e j.fn c d (s2.gforkRun e c d)

/-! ### Issue (R355, R356) -/

/-- Operand values of one lane, or of the wave. -/
structure GOperands where
  lane : Nat
  ctx : Nat
  arg : Nat
deriving DecidableEq, Repr

/-- The second operand of a form: a pair, one register, or none. -/
inductive GSecond where
  | pair | one | none
deriving DecidableEq, Repr

/-- The operands of an instruction: one of the wave, or one for each lane of exec AND km. -/
def State.gOperands (s : State) (w : Wave) (p : A2) (sec : GSecond) (imm : Int) : List GOperands :=
  let off (x : Nat) : Nat := (((x : Int) + imm) % 2 ^ 64).toNat
  if p.fl.getLsbD 0 then
    let rd := s.readV w
    let lo := rd p.aa.toNat; let hi := rd (p.aa.toNat + 1); let b := rd p.ab.toNat; let b1 := rd (p.ab.toNat + 1)
    (lanesOf (w.active (p.fl.toNat / 2))).map (fun l =>
      { lane := l, ctx := (pairOf (laneOf lo l) (laneOf hi l)).toNat,
        arg := match sec with | .pair => off (pairOf (laneOf b l) (laneOf b1 l)).toNat | .one => (laneOf b l).toNat | .none => 0 })
  else
    [{ lane := 0, ctx := (w.pair p.aa.toNat).toNat,
       arg := match sec with | .pair => off (w.pair p.ab.toNat).toNat | .one => (w.rs p.ab.toNat).toNat | .none => 0 }]

/-- The vector registers that an instruction reads. -/
def A2.gSources (p : A2) (sec : GSecond) : List Nat :=
  if p.fl.getLsbD 0 then
    [p.aa.toNat, p.aa.toNat + 1] ++ (match sec with | .pair => [p.ab.toNat, p.ab.toNat + 1] | .one => [p.ab.toNat] | .none => [])
  else []

/-- ALIGNMENT of the operands that are not multiples of n: a `.v` form names the lanes. -/
def gAlign (v : Bool) (bad : List (Nat × Nat)) : Option Trap :=
  (trapOf 0x08 0 bad).map (fun t => if v then t else t.whole)

/-- The operand checks at issue (R356, R358, R361), in an order that the spec leaves open: the contexts' alignment over all lanes, the
second operand's alignment, then GRAMMAR. DESIGN CHOICE (log 98). `align` is the multiple of the second operand, `limit` bounds it. -/
def gChecks (v : Bool) (ops : List GOperands) (align : Nat) (limit : Nat) : Option Trap :=
  match gAlign v ((ops.filter (fun o => o.ctx % 64 != 0)).map (fun o => (o.lane, o.ctx))) with
  | some t => some t
  | none =>
    match gAlign v ((ops.filter (fun o => o.arg % align != 0)).map (fun o => (o.lane, o.arg))) with
    | some t => some t
    | none => if ops.any (fun o => decide (limit ≤ o.arg)) then some { cause := 0x11 } else none

/-- The lines of n bytes, at most 4 KiB, at a virtual address that an operation may write. -/
def State.gLines (s : State) (e : View) (va n : Nat) : List Nat :=
  let one (va n : Nat) : List Nat :=
    match s.page e va true with
    | .ok p => if isPeerPa p.pa then [] else linesOf p.pa n
    | _ => []
  let m := min n (4096 - va % 4096)
  one va m ++ (if m = n then [] else one (va + m) (n - m))

/-- The number that n bytes at their home hold, without an access. -/
def State.peek (s : State) (e : View) (va n : Nat) : Nat :=
  match s.page e va false with
  | .ok p => if isPeerPa p.pa then 0 else leNat ((List.range n).map (fun i => (s.homeData ((p.pa + i) / 128)).getD ((p.pa + i) % 128) 0))
  | _ => 0

/-- The context record at an address as it stands at its home. -/
def State.peekCtx (s : State) (e : View) (addr : Nat) : GCtx := parseCtx addr (s.peek e addr 64)

/-- The Bramble jobs in flight, each with how it reaches memory. -/
def State.gJobs (s : State) : List (View × BrambleJob) :=
  s.ops.flatMap (fun o => match o.kind with | .bramble _ jobs .. => jobs.map (fun j => (o.view, j)) | _ => [])

/-- Two addresses name one record: at its home, or by the same address of the same space where a translation is awaited. -/
def State.gSame (s : State) (e : View) (a : Nat) (f : View) (b : Nat) : Bool :=
  match s.page e a false, s.page f b false with
  | .ok p, .ok q => p.pa == q.pa
  | _, _ => a == b && e.sp == f.sp

/-- The images that a context may be bound to when an operation on it runs: the record's, and those of binds and forks in flight, a
fork's source being one such context in its turn; there are at most as many forks in a row as jobs. -/
def State.gImagesIn (s : State) (jobs : List (View × BrambleJob)) : Nat → View → Nat → List Nat
  | 0, e, ctx => [(s.peekCtx e ctx).image]
  | n + 1, e, ctx =>
    (s.peekCtx e ctx).image :: jobs.flatMap (fun k =>
      if k.2.fn = .gbind ∧ s.gSame k.1 k.2.ctx e ctx then [k.2.arg]
      else if k.2.fn = .gfork ∧ s.gSame k.1 k.2.arg e ctx then s.gImagesIn jobs n k.1 k.2.ctx
      else [])
def State.gImages (s : State) (e : View) (ctx : Nat) : List Nat := s.gImagesIn s.gJobs s.gJobs.length e ctx

/-- What n bytes hold is known when an operation issues: they lie in no peer window, and no other engine may still write them. -/
def State.gKnown (s : State) (e : View) (va n : Nat) : Bool :=
  match s.page e va false with
  | .ok p => !isPeerPa p.pa && (linesOf p.pa n).all (fun l => !s.ops.any (fun o => o.owned.contains l && o.kind.event != .brambleComplete))
  | _ => false

/-- The lines of the mask that an operation may write: as many as VOCAB of its image takes, or, where the context or the image is not known
at issue, as the largest VOCAB does (R345). DEDUCED (log 99). -/
def State.gMaskSize (s : State) (e : View) (j : BrambleJob) : Nat :=
  let images := s.gImages e j.ctx
  let known := s.gKnown e j.ctx 64 && images.all (fun im => s.gKnown e im 32)
  (images.foldl (fun n im => max n ((bitsOf (s.peek e im 32) 147 128 + 1023) / 1024)) (if known then 0 else 512)) +
    (if j.fn = .gmaskDelta then 1 else 0)

/-- The lines that an operation owns from issue to completion (R355): the record and its history block, `gfork`'s
destination, and the mask with its change map. -/
def State.gOwned (s : State) (e : View) (j : BrambleJob) : List Nat :=
  s.gLines e j.ctx 64 ++ s.gLines e (j.hist.getD (s.peekCtx e j.ctx).hist) 1024 ++
  (match j.fn with
   | .gfork => s.gLines e j.arg 64
   | .gmask | .gmaskDelta => (List.range (s.gMaskSize e j)).flatMap (fun i => s.gLines e (j.arg + 128 * i) 128)
   | _ => [])

/-- Jobs as they issue: of a record in a peer window, the peer answers HIST now, so that the operation owns its history block (R355).
DESIGN CHOICE (log 103). -/
def State.gAsk (s : State) (e : View) : List BrambleJob → State × List BrambleJob
  | [] => (s, [])
  | j :: r =>
    match s.page e j.ctx false with
    | .ok p =>
      if isPeerPa p.pa then
        let (s', js) := { s with draws := s.draws + 1 }.gAsk e r
        (s', { j with hist := some (parseCtx j.ctx (leNat (s.peerBytes p.pa 64))).hist } :: js)
      else
        let (s', js) := s.gAsk e r
        (s', j :: js)
    | _ =>
      let (s', js) := s.gAsk e r
      (s', j :: js)

/-- Engines that had lines of contexts have done with them: the Bramble operations in flight own what these contexts now name (R355). -/
def State.bramblesOwn (s : State) : State :=
  { s with ops := s.ops.map (fun o => match o.kind with
    | .bramble _ jobs .. => { o with owned := distinct (o.owned ++ jobs.flatMap (s.gOwned o.view)) }
    | _ => o) }

/-- The peer ports that a job uses: of its record, its operand and its image (R404). -/
def State.gPorts (s : State) (e : View) (j : BrambleJob) : List Nat :=
  let vas := [j.ctx] ++ (if j.fn = .gfork ∨ j.fn = .gmask ∨ j.fn = .gmaskDelta ∨ j.fn = .gbind then [j.arg] else []) ++ s.gImages e j.ctx
  s.spotPorts e.sp.fn (vas.filterMap (fun va => match s.page e va false with | .ok p => some (.mem p, 1) | _ => none))

/-- A Bramble instruction of n words issues. -/
def State.brambleIssue (s : State) (w : Wave) (p : A2) (fn : BrambleFn) (sec : GSecond) (imm : Int) (align limit n : Nat) (c : Bool) : State :=
  let v := p.fl.getLsbD 0
  match if p.cm = 0 then some Completion.none else w.completion p.cm p.ct with
  | none => s.takeTrap w illegalEncoding
  | some done =>
    match s.spillTrap w (A2.gSources p sec) (if v then [p.ac.toNat] else []) with
    | some t => s.takeTrap w t
    | none =>
      let ops := s.gOperands w p sec (if fn = .gbind then 0 else 128 * imm)
      match gChecks v ops align limit with
      | some t => s.takeTrap w t
      | none =>
        let jobs : List BrambleJob := ops.map (fun o => { fn := fn, lane := o.lane, ctx := o.ctx, arg := o.arg, imm := imm })
        if s.flushHeld w.core then s.stall w
        else
        let e := s.engineView w
        let id := s.nextOp
        let (s, jobs) := ((s.spillRead w (A2.gSources p sec)).engineIssue w.core).gAsk e jobs
        let owned := distinct (jobs.flatMap (s.gOwned e))
        let s := (s.issueOp w (some .CP) true (.bramble (if v then some p.ac.toNat else none) jobs false []) done owned).onPorts
          (distinct (jobs.flatMap (s.gPorts e))) id
        let s := if fn = .gmask then s else s.modWave w.uid (fun x => x.seal s.dtime)
        s.advanceWave w.uid n c .A

/-- The fields of a three-word form without its immediate. -/
def a3fields (p : A3) : A2 :=
  { aa := p.aa, ab := p.ab, ac := p.ac, cm := p.cm, ct := p.ct, scope := p.scope, order := p.order, fl := p.fl }

def noLimit : Nat := 2 ^ 64

def execGbind (p : A3) (s : State) : Host.Outcome State Fault Refusal :=
  s.onWave fun w => s.brambleIssue w (a3fields p) .gbind .pair p.imm.toNat 128 noLimit 3 false
def execGmask (p : A3) (s : State) : Host.Outcome State Fault Refusal :=
  s.onWave fun w => s.brambleIssue w (a3fields p) .gmask .pair p.imm.toInt 128 noLimit 3 false
def execGmaskDelta (p : A3) (s : State) : Host.Outcome State Fault Refusal :=
  s.onWave fun w => s.brambleIssue w (a3fields p) .gmaskDelta .pair p.imm.toInt 128 noLimit 3 false
def execGstep (c : Bool) (p : A2) (s : State) : Host.Outcome State Fault Refusal :=
  s.onWave fun w => s.brambleIssue w p .gstep .one 0 1 524288 2 c
def execGfork (c : Bool) (p : A2) (s : State) : Host.Outcome State Fault Refusal :=
  s.onWave fun w => s.brambleIssue w p .gfork .pair 0 64 noLimit 2 c
def execGroll (c : Bool) (p : A2) (s : State) : Host.Outcome State Fault Refusal :=
  s.onWave fun w => s.brambleIssue w p .groll .one 0 1 65 2 c
def execGcommit (c : Bool) (p : A2) (s : State) : Host.Outcome State Fault Refusal :=
  s.onWave fun w => s.brambleIssue w p .gcommit .one 0 1 65 2 c
def execGfree (c : Bool) (p : A2) (s : State) : Host.Outcome State Fault Refusal :=
  s.onWave fun w => s.brambleIssue w p .gfree .none 0 1 noLimit 2 c

/-! ### Completion -/

/-- The record lines that an operation's jobs act on, by home address: two operations on one of them keep their order. -/
def State.gRecords (s : State) (o : Op) : List Nat :=
  match o.kind with
  | .bramble _ jobs .. =>
    let e : View := o.view
    let pa (va : Nat) : List Nat := match s.page e va false with | .ok p => [p.pa / 64] | _ => []
    jobs.flatMap (fun j => pa j.ctx ++ (if j.fn = .gfork then pa j.arg else []))
  | _ => []

/-- An operation issued before `o` acts on one of its contexts. -/
def State.gBehind (s : State) (o : Op) : Bool :=
  let mine := s.gRecords o
  s.ops.any (fun x => x.id < o.id && (s.gRecords x).any mine.contains)

/-- What the issuing core and its die hold of lines that a job has written is dropped when the operation completes (R321, R355). -/
def State.gWrote (before after : State) (o : Op) : List Nat :=
  let held := (before.l1.filter (fun x => x.core == o.core)).map (·.line) ++ (before.rdc.filter (fun x => x.die == coreDie o.core)).map (·.line)
  distinct (held.filter (fun l => before.version l != after.version l))

/-- Every Bramble operation in flight is looked at again. -/
def State.stirBramble (s : State) : State :=
  (s.ops.filter (fun o => match o.kind with | .bramble .. => true | _ => false)).foldl
    (fun s o => s.dueOnce .brambleComplete { op := o.id, core := 192 * o.cx + o.core }) s

/-- The status words of a `.v` form, by lane (R356). -/
def statusWrite (v : Nat) (words : List (Nat × Word)) : RegWrite :=
  .v v (maskOf (words.map Prod.fst)) (allLanes.map (fun l => ((words.find? (fun e => e.1 == l)).map Prod.snd).getD 0))

/-- BRAMBLE_COMPLETE: the next job of an operation runs whole; the last one completes the operation. A GRAMMAR_BIND packet
then completes. -/
def execBrambleComplete (s : State) : Host.Outcome State Fault Refusal :=
  .next (match s.op? s.input.op with
    | none => s
    | some o =>
      match o.kind with
      | .bramble vec jobs stopped words =>
        if o.waits ≠ [] ∨ s.portLost o.id ∨ s.gBehind o then s
        else
          match jobs with
          | [] => (s.complete o [] 0 0 stopped 1).stirBramble
          | j :: rest =>
            match s.runBramble o.view j with
            | .wait p => s.waitPage o p
            | .done s1 status result =>
              let o := { o with owned := distinct (o.owned ++ s.gWrote s1 o) }
              let s := s1
              let failed := stopped || status &&& 0xFF != 0
              match vec with
              | some v =>
                let words := words ++ [(j.lane, status)]
                let o' := { o with kind := .bramble vec rest failed words }
                if rest = [] then (s.complete o' [statusWrite v words] 0 0 failed 1).stirBramble
                else (s.modOp o.id (fun _ => o')).dueOnce .brambleComplete { op := o.id, core := 192 * o.cx + o.core }
              | none =>
                let s := s.complete o [] status result failed 1
                let s := match o.packet with
                  | some (f, q, i) => s.workDone f q i
                  | none => s
                s.stirBramble
      | _ => s)

end Sys2Proof.Machine
end

