-- ==== Sys2Proof/Machine/System.lean ====
section
/-! DEFINITION. `trap`, `ecall`, `sleep`, `rte`, `ckpt` (R385 to R389) and `exit` (R398), with the events that end what
they begin, the watchdog (R373) and the overdue mark (R160). -/

namespace Sys2Proof.Machine

/-- `trap` (R385): the record's pc is the address after it. -/
def execTrap (a : R8) (code : BitVec 10) (s : State) : Host.Outcome State Fault Refusal :=
  s.onWave fun w => s.takeTrap w { cause := 0x14, pc := some (w.pc + 4), arg := w.rs a.toNat, detail := code.toNat }

/-! ### ecall (R386) -/

def execEcall (a : R8) (code : BitVec 10) (s : State) : Host.Outcome State Fault Refusal :=
  s.onWave fun w => (s.park w (.ecall code.toNat a.toNat) 1 false .Y).due .ecallDone { uid := w.uid }

/-- The indices of R408's table. -/
def lifeValid (i : Nat) : Bool :=
  i < 3 || (0x10 ≤ i && i < 0x30) || (0x40 ≤ i && i < 0x52) || (0x60 ≤ i && i < 0x63) || (0x1000 ≤ i && i < 0x1400)

/-- LIFEDATA and LIFEREAD: a counter, all ones for an index outside the table (R408). -/
def State.lifeRead (s : State) (i : Nat) : DWord := if lifeValid i then kvGet 0 s.life i else BitVec.allOnes 64

/-- The bytes that the running firmware's version is read from. -/
def State.firmwareBody (s : State) : List Byte := (s.running.map (·.body)).getD []

/-- Status and results of a firmware service; results that a service does not define are 0. DESIGN CHOICE (log 61). -/
def State.service (s : State) (w : Wave) (svc a : Nat) : List Word :=
  match svc with
  | 0 => [0, (Config.firmwareVersion s.firmwareBody).1, (Config.firmwareVersion s.firmwareBody).2]
  | 1 =>
    let clusters := (List.range 24).filter (fun c => (s.part w.part).clusters.testBit c)
    [0, BitVec.ofNat 32 w.part, BitVec.ofNat 32 (clusters.headD 0), BitVec.ofNat 32 clusters.length, BitVec.ofNat 32 (s.part w.part).active]
  | 2 =>
    let i := (w.rs (a + 1)).toNat
    if lifeValid i then [0, 0, loWord (s.lifeRead i), hiWord (s.lifeRead i)] else [2]
  | _ => [1]

/-- ECALL_DONE: the firmware writes s[sa] to s[sa+7] and wakes the wave. -/
def execEcallDone (s : State) : Host.Outcome State Fault Refusal :=
  .next (match s.wave? s.input.uid with
    | none => s
    | some w =>
      match w.life with
      | .parked (.ecall svc a) =>
        let ws := s.service w svc a
        s.putWave (w.setRun a (ws ++ List.replicate (8 - ws.length) 0)).woken
      | _ => s)

/-! ### sleep (R387) -/

def execSleep (a : R8) (sem : Bool) (s : State) : Host.Outcome State Fault Refusal :=
  s.onWave fun w =>
    if w.rs a.toNat = 0 then s.putWave (w.advance 1 false .Y)
    else s.park w (.sleep (s.dtime + (w.rs a.toNat).zeroExtend 64) sem) 1 false .Y

/-- SLEEP_EXPIRE: dtime has reached the end of the sleep. -/
def execSleepExpire (s : State) : Host.Outcome State Fault Refusal :=
  .next (match s.wave? s.input.uid with
    | none => s
    | some w =>
      match w.life with
      | .parked (.sleep t _) => if t.toNat ≤ s.dtime.toNat then s.putWave w.woken else s
      | _ => s)

/-! ### rte (R388) -/

/-- The wave as it leaves its handler: the hidden save and the seal flag come back (R368, R388). A sealed stretch that began in the handler of
a wave not sealed before (R373) is over with them. DESIGN CHOICE (log 100). -/
def Wave.leaveHandler (w : Wave) : Wave :=
  { w.setRun 240 w.hidden with exec := w.pair 242, inTrap := false, hidden := [], sealFlag := w.hiddenSeal, hiddenSeal := false }

/-- RETURNING FROM A TRAP (R388): to TPC and TEXEC, with the pending transfer that s251 to s253 describe. -/
def execRte (s : State) : Host.Outcome State Fault Refusal :=
  s.onWave fun w =>
    if w.inTrap then
      let t := w.pair 240
      let w' := w.leaveHandler
      if t &&& 3 = 1 then s.continueCallp w w' (t - 1)
      else if t &&& 3 = 0 then
        s.putWave { w' with pc := t, grp := [], xfer := if (w.rs 251).getLsbD 0 then some (w.pair 252) else none }
      else s.takeTrap w' { cause := 0x08 }
    else s.takeTrap w { cause := 0x17 }

/-! ### ckpt (R371, R389) -/

/-- The scalar registers that SB and SG name. -/
def ckptS (sb : BitVec 6) (sg : Byte) : List Nat :=
  (List.range 8).flatMap (fun i => if sg.getLsbD i then (List.range 4).map (fun j => 4 * sb.toNat + 4 * i + j) else [])
/-- The vector registers that vb and VM name. -/
def ckptV (vb : R8) (vm : Half) : List Nat := (List.range 16).filterMap (fun i => if vm.getLsbD i then some (vb.toNat + i) else none)

/-- `ckpt`: the checkpoint is complete, the seal flag clear, and the wave's claims become consumption. -/
def execCkpt (vb : R8) (sb : BitVec 6) (sg : Byte) (vm : Half) (s : State) : Host.Outcome State Fault Refusal :=
  s.onWave fun w =>
    if w.inTrap then s.takeTrap w { cause := 0x17 }
    else
      match s.spillTrap w (ckptV vb vm) [] with
      | some t => s.takeTrap w t
      | none =>
        let c := s.checkpoint w (w.pc + 8) (ckptS sb sg) (ckptV vb vm)
        (((s.spillRead w (ckptV vb vm)).saveCheckpoint w c).putWave
          { w.advance 2 false .Y with ckpt := some c, sealFlag := false }).consumeClaims w.uid

/-! ### exit, the watchdog, the overdue mark -/

/-- `exit` (R398). -/
def execExit (s : State) : Host.Outcome State Fault Refusal :=
  s.onWave fun w => s.beginRetire w false

/-- The wave as it goes on after the instruction in which it is parked. -/
def Wave.afterPark (w : Wave) : Wave := match w.life with | .parked _ => w.woken | _ => w

/-- A sealed stretch of the wave has lasted 1,000,000 ticks (R373): it runs until `ckpt` or retirement, and not while the context is
saved. -/
def State.overstayed (s : State) (w : Wave) : Bool :=
  w.sealFlag && decide (w.sealSince.toNat + 1000000 ≤ s.dtime.toNat) && w.cx == (s.part w.part).active && !s.saving w.part &&
  !w.halted && w.life != .preempted

/-- WATCHDOG_EXPIRE (R373): a sealed stretch of 1,000,000 ticks halts the wave; the pc is that of the next instruction. -/
def execWatchdogExpire (s : State) : Host.Outcome State Fault Refusal :=
  .next (match s.wave? s.input.uid with
    | none => s
    | some w =>
      if s.overstayed w then
        s.takeTrap w.afterPark { cause := 0x15 }
      else s)

/-- WAVE_OVERDUE (R160): the wave takes the next place in the order of becoming overdue. -/
def execWaveOverdue (s : State) : Host.Outcome State Fault Refusal :=
  .next (match s.wave? s.input.uid with
    | none => s
    | some w =>
      if s.eligible w ∧ w.overdueAt = 0 then { s with nextOp := s.nextOp + 1 }.putWave { w with overdueAt := s.nextOp } else s)

end Sys2Proof.Machine
end

