-- ==== Sys2Proof/Machine/Retire.lean ====
section
/-! DEFINITION. Retirement (R390 to R393): what a wave waits for, and the steps by which it retires; halting the waves of a
queue or a partition without bequest (R54, R380, R400). -/

namespace Sys2Proof.Machine

/-- The halt of a partition's context is looked at again while it is under way. -/
def State.stirHalt (s : State) (part : Nat) : State :=
  if (s.part part).switching.isSome then s.dueOnce .contextHaltDone { part := part } else s

/-- A key lies in a wave's scratchpad allocation. -/
def Wave.ownsSpad (w : Wave) (key : Nat) : Bool := decide (w.spadKey 0 ≤ key ∧ key < w.spadKey 0 + 1024 * w.foot.spad)

/-- What a retiring wave still waits for (R391). DEDUCED (log 42). -/
def State.retireWaits (s : State) (w : Wave) : Bool :=
  if w.halted then s.ops.any (fun o => o.uid == w.uid && (o.cls == some .LD || o.cls == some .ST))
  else s.ops.any (fun o => o.uid == w.uid && (o.pipeA || o.cls == some .ST)) || s.formingWaits w.uid

/-- The live tags of the wave's scratchpad go, and the waiters on those words wake with status 1 (R332, R392). -/
def State.freeSpad (s : State) (w : Wave) : State :=
  if w.life = .preempted then s
  else
    ((s.tags.filter (fun e => w.ownsSpad (8 * e.1))).map Prod.fst).foldl (fun s x => (s.setLive (8 * x) false).wakeWord (8 * x) 1) s

/-- PARENT counters that end with the wave (R73): its own as a child, and those of the inline runs that it ends. -/
def Wave.parents (w : Wave) : List Nat :=
  (if w.child then [w.parent] else []) ++ w.callStack.filterMap (fun e => e.save.map (·.parent))

/-- The matrix work of a halted wave that no memory sees is gone with it. Its walks go on: what they write stands (R391). -/
def State.dropMatrix (s : State) (uid : Nat) : State :=
  let gone (o : Op) : Bool := o.uid == uid && (match o.kind with | .mmq | .accz .. | .accrd .. | .accwr .. => true | _ => false)
  let ids := (s.ops.filter gone).map (·.id)
  { s with ops := s.ops.filter (fun o => !gone o),
           quarters := s.quarters.filter (fun q => !ids.contains q.opId),
           passes := (s.passes.map (fun p => (p.1, p.2.filter (fun q => !ids.contains q.opId)))).filter (fun p => p.2 != []),
           blocks := s.blocks.map (fun (b : Block) => { b with pend := b.pend.filter (fun d => !ids.contains d.op) }) }

/-- A TDI that leaves RUN waits for the last of its waves (R400). -/
def State.stirLeaving (s : State) : State :=
  if s.waiting.any (fun t => match t with | .ev .tdiLeaveRun _ => true | _ => false) then s.stirWaiting else s

/-- A wave retires, as one action at its core (R392). -/
def State.retireNow (s : State) (w : Wave) : State :=
  let onCore := w.life != .preempted && w.cx == (s.part w.part).active
  let s := ((s.retireBlock w w.halted).consumeClaims w.uid).leaveCohort (if onCore then some w.core else none) w.uid
  let s := s.freeSpad w
  let s := w.parents.foldl (fun s p => s.parentDown w p) s
  let s := if w.halted then s.dropMatrix w.uid else s
  let s := { s with waves := s.waves.filter (fun x => x.uid != w.uid),
                    ops := s.ops.map (fun (o : Op) => if o.uid = w.uid then { o with dropped := true } else o),
                    blocks := s.blocks.filter (fun b => !(b.dom == 4096 && b.uid == w.uid)) }
  (((((s.endTransfer w.uid).stirEstates w.part).stirMatrix w.cc).launchCheck w.launch).stirHalt w.part).stirLeaving

/-- The wave's retirement waits for a context switch: the estate transfer units start nothing new for it (R106), and once the halt is
complete the wave is saved as it stands. DEDUCED (log 43). -/
def State.retireHeld (s : State) (w : Wave) : Bool :=
  s.saving w.part || ((s.part w.part).switching.isSome && !w.halted && s.blocks.any (fun b => b.loc == .forming && b.uid == w.uid))

/-- WAVE_RETIRE (R391, R392). -/
def execWaveRetire (s : State) : Host.Outcome State Fault Refusal :=
  .next (match s.wave? s.input.uid with
    | none => s
    | some w =>
      if w.life = .exiting ∧ w.cx = (s.part w.part).active ∧ !s.retireHeld w ∧ !s.retireWaits w then
        if (s.cohortOf w.uid).isSome ∧ s.releaseStalls w.core 2 then s.hold .waveRetire { uid := w.uid } else s.retireNow w
      else s)

/-- A wave is halted without a record: a RESET (R54), or a TDI that leaves RUN (R400). One that is PREEMPTED or whose
context is saved retires where it stands (R390). -/
def State.haltQuietly (s : State) (w : Wave) : State :=
  if w.life = .preempted ∨ w.cx ≠ (s.part w.part).active then s.retireNow { w with halted := true }
  else s.beginRetire w true

def State.haltAll (s : State) : List Nat → State
  | [] => s
  | u :: r => (match s.wave? u with | some w => s.haltQuietly w | none => s).haltAll r

/-! ### Fine pre-emption (R376) -/

/-- The parameter copy as the area holds it (R296, R378): header, entries, and the flag that one is held. -/
def paramBytes (p : ParamCopy) : List Byte :=
  toBytes 16 (p.clen + p.nrows * 2 ^ 32 + p.rowbase * 2 ^ 64) ++ p.rows.flatMap (fun e => toBytes 16 (e.1.toNat + e.2 * 2 ^ 64))

/-- The raw words of one accumulator tile, row after row (R285, R378). -/
def State.tileBytes (s : State) (cc tile : Nat) : List Byte :=
  (List.range 1024).flatMap (fun i => toBytes 4 (kvGet 0 s.tiles ((cc * 256 + tile) * 1024 + i)).toNat)

/-- The scratchpad, the semaphores, the tiles and the parameter copy go to the checkpoint area (R376, R378). DESIGN CHOICE (log 44). -/
def State.saveArea (s : State) (w : Wave) : State :=
  let s := s.areaPut w 0x4000 ((List.range w.foot.sema).flatMap (fun i => toBytes 4 (s.sem (w.semKey i)).toNat))
  let s := match w.params with
    | some p => (s.areaPut w 0x5000 (paramBytes p)).areaPut w 0x5410 (toBytes 8 1)
    | none => s.areaPut w 0x5410 (toBytes 8 0)
  let s := (List.range w.foot.acc).foldl (fun s i => s.areaPut w (0x8000 + 4096 * i) (s.tileBytes w.cc (w.accBase + i))) s
  let s := s.areaPut w 0x28000 (s.spadBytes (w.spadKey 0) (1024 * w.foot.spad))
  let bad := (s.spadPoison.filter (fun e => w.ownsSpad (8 * e.1))).map (fun e => (s.ckptArea w + 0x28000 + (8 * e.1 - w.spadKey 0)) / 128)
  let s := (distinct bad).foldl State.setPoison s
  s.areaPut w 0x68000 (List.replicate (16 * w.foot.spad) 0)

/-- The estate window of a wave that leaves its core, as a LIVE block (R105). -/
def State.liveBlock (s : State) (w : Wave) : State :=
  if w.foot.ewin = 0 then s
  else
    { s with nextBlock := s.nextBlock + 1, draws := s.draws + 1, blocks := s.blocks ++
      [{ id := s.nextBlock, part := w.part, cx := w.cx, dom := 4096, group := 0, e := 8 * w.foot.ewin, present := BitVec.allOnes 64,
         loc := .live, held := .live, route := .resident, since := 0, btime := s.dtime, core := w.core, rfblk := w.ebase, slot := 0,
         waveIdx := s.waveIndex w, uid := w.uid, inDir := true, data := [], pend := [], dirIdx := s.dirPlace w.part 4096 0,
         taker := none }] }

/-- A chosen wave stays: it has sealed, entered its handler, or ended since it was chosen, or a word of its scratchpad has become live
(R332). -/
def State.keepsCore (s : State) (w : Wave) : Bool :=
  w.sealed || (match w.life with | .ready | .parked _ => false | _ => true) || s.tags.any (fun e => w.ownsSpad (8 * e.1))

/-- What is left of an operation has no effect but in its wave: register writes, a completion, takes that only they would show. -/
def OpKind.landsOnly : OpKind → Bool
  | .regs _ | .report .. | .claim .. => true
  | _ => false

/-- Operations that must complete before a wave leaves its core (R376): its own but for decrements of PARENT (R73) and what only
lands in it, and those whose writes its estate window awaits (R105). -/
def State.offWaits (s : State) (w : Wave) : List Op :=
  let window := (List.range (8 * w.foot.ewin)).map (fun j => rowKey w.cc (w.ebase + j / 8) (j % 8))
  s.ops.filter (fun o => (o.uid == w.uid && (match o.kind with | .parent _ => false | k => !k.landsOnly)) || o.moved.any (fun d => window.contains d.row))

/-- The landings of a wave are dropped (R376), but for what has captured them (R88, R97). -/
def State.dropLandings (s : State) (uid : Nat) : State :=
  (s.ops.filter (fun o => o.uid == uid && o.kind.landsOnly)).foldl (fun s o =>
    let o := { o with dropped := true }
    let ws := match o.kind with | .regs ws | .report ws .. => ws | _ => []
    (ws.foldl (fun s x => s.landOp o x) s).finishOp o) s

/-- The wave leaves its core (R376): PREEMPTED, in the order of being taken off. -/
def State.takeOff (s : State) (w : Wave) : State :=
  let s := s.dropLandings w.uid
  let s := ((s.liveBlock w).saveArea w).releaseNow w.core 2
  let w' := { w with life := .preempted, chosen := false, grp := [], xfer := none, ticket := s.nextOp, batches := [], openOps := [],
                     stall := false }
  (({ s with nextOp := s.nextOp + 1 }.putWave w').stirEstates w.part).stirHalt w.part

/-- The wave is not chosen any more (R332): what was held back for its leaving lands. -/
def State.unchoose (s : State) (w : Wave) : State :=
  let s := s.putWave { w with chosen := false }
  ((s.ops.filter (fun o => o.uid == w.uid && o.kind.landsOnly)).foldl (fun s o => s.dueOnce o.kind.event { op := o.id, core := w.cc }) s).dueOnce
    .placementPass { part := w.part }

/-- WAVE_TAKE_OFF (R376): from a group boundary on, register writes and completions in flight are held back; once every
operation of the wave has completed otherwise, it leaves its core, and they are dropped. -/
def execWaveTakeOff (s : State) : Host.Outcome State Fault Refusal :=
  .next (match s.wave? s.input.uid with
    | none => s
    | some w =>
      if !w.chosen then s
      else if s.keepsCore w then s.unchoose w
      else if w.life = .ready ∧ w.grp ≠ [] then s
      else if s.offWaits w ≠ [] then s
      else if s.releaseStalls w.core 2 then s.hold .waveTakeOff { uid := w.uid }
      else s.takeOff w)

end Sys2Proof.Machine
end

