-- ==== Sys2Proof/Machine/Place.lean ====
section
/-! DEFINITION. Placement (R59 to R68, R72, R375, R377): what is free on a core, the fit of a footprint, affinity holds,
eviction, the choice for fine pre-emption, the birth of waves and of children, and the restart of PREEMPTED waves. A pass
takes one action and comes due again after it. -/

namespace Sys2Proof.Machine

/-! ### What is free on a core (R62, R64) -/

/-- Runs in use: first unit and length. -/
abbrev Runs := List (Nat × Nat)

def freeAt (used : Runs) (n st : Nat) : Bool := used.all (fun r => r.2 == 0 || decide (st + n ≤ r.1) || decide (r.1 + r.2 ≤ st))

/-- The first units of every free run of n units. -/
def runStarts (total n : Nat) (used : Runs) : List Nat :=
  if n = 0 then [0] else if total < n then [] else (List.range (total + 1 - n)).filter (freeAt used n)

/-- What is taken on a core. -/
structure Room where
  core : Nat
  slots : List Nat
  /-- Slots of the resident waves. -/
  busy : List Nat
  blocks : Runs
  spad : Runs
  tiles : Runs
  sems : Runs
deriving DecidableEq, Repr

/-- What is taken on a core in a context, when the waves `gone` have left it (each one's estate window stays as a LIVE
block, and its slot is kept) and the runs of the blocks `freed` are free. A scratchpad allocation that an operation in flight
owns a line of stays taken (R392), and so do the tiles of a walk whose wave has been halted (R391). -/
def State.room (s : State) (cx c : Nat) (gone freed : List Nat) : Room :=
  let ws := s.waves.filter (fun w => w.core == c && w.cx == cx)
  let res := ws.filter (fun w => w.life != .preempted)
  let held := res.filter (fun w => !gone.contains w.uid)
  let rows := (s.ops.flatMap (fun o => o.rows ++ o.moved.map (·.row))).filter (fun k => k / 6144 == 192 * cx + c)
  let owned := (s.ops.filter (fun o => !gone.contains o.uid)).flatMap (fun o => o.spads.filter (fun e => e.2.1 / 524288 == 192 * cx + c))
  let walks := (s.ops.filter (fun o => !gone.contains o.uid && o.core == c && o.cx == cx)).filterMap (fun o =>
    match o.kind with | .walk j => some (j.accBase, j.accN) | _ => none)
  { core := c, slots := ws.map (·.slot), busy := res.map (·.slot),
    blocks := res.map (fun w => (w.ebase, w.foot.ewin)) ++ held.map (fun w => (w.wbase, w.foot.wwin)) ++
      (s.blocks.filter (fun b => b.hasRun && b.core == c && b.cx == cx && !freed.contains b.id)).map (fun b => (b.rfblk, b.runLen)) ++
      rows.map (fun k => (k % 6144 / 8, 1)),
    spad := held.map (fun w => (w.spadBase, w.foot.spad)) ++ owned.map (fun e => (e.2.1 % 524288 / 1024, e.2.2 / 1024)), 
    tiles := held.map (fun w => (w.accBase, w.foot.acc)) ++ walks,
    sems := held.map (fun w => (w.semBase, w.foot.sema)) }

/-- The slot rule of R61: the scheduler with the fewest resident waves, then the lowest slot. -/
def Room.slot (r : Room) : Option Nat :=
  let load (k : Nat) : Nat := (r.busy.filter (fun x => x % 4 == k % 4)).length
  (sortBy (fun k => load k * 128 + k) ((List.range 128).filter (fun k => !r.slots.contains k))).head?

/-- Where a footprint fits on a core (R62): the estate window takes the lowest free run that leaves one for the work window, which
takes the lowest of those (R413), and so do the scratchpad, the tiles and the semaphores. `fixed` is the run of the estate block
that the wave is born holding, and `own` the slot that a restarting wave has kept there. DESIGN CHOICE (log 16). DEDUCED (log 58). -/
def siteIn (r : Room) (f : Footprint) (fixed own : Option Nat) : Option Site :=
  let work (blocks : Runs) : Option Nat := (runStarts 768 f.wwin blocks).head?
  let windows : Option (Nat × Nat) :=
    match fixed with
    | some b => (work r.blocks).map (fun w => (b, w))
    | none => (runStarts 768 f.ewin r.blocks).findSome? (fun e => (work ((e, f.ewin) :: r.blocks)).map (fun w => (e, w)))
  match (match own with | some k => some k | none => r.slot), windows with
  | some slot, some (e, w) =>
    match (runStarts 512 f.spad r.spad).head?, (runStarts 256 f.acc r.tiles).head?, (runStarts 64 f.sema r.sems).head? with
    | some p, some a, some m => some { core := r.core, slot := slot, ebase := e, wbase := w, spadBase := p, accBase := a, semBase := m }
    | _, _, _ => none
  | _, _ => none

/-! ### The waves to be made -/

/-- A wave of a launch before it is placed. -/
structure Spec where
  index : Nat
  exec : LaneMask
  keys : List (Option Nat)
  regs : List Word
deriving DecidableEq, Repr

inductive SpecAt where
  | ok (s : State) (x : Spec)
  | wait (page : Option Nat)
  | bad (s : State)

/-- Wave g of a LAUNCH (R12, R85). -/
def Launch.itemSpec (l : Launch) (g : Nat) : Spec :=
  { index := g, exec := maskWhere (fun k => decide (64 * g + k < l.items)), regs := [],
    keys := if l.ein.isSome then allLanes.map (fun k => some ((64 * g + k + l.keyoff) % 2 ^ 40)) else [] }

/-- Wave g of a TILELAUNCH (R52), from its one or two records. -/
def Launch.tileSpec (l : Launch) (g : Nat) (a : TileRec) (b : Option TileRec) : Spec :=
  let row (k : Nat) : Option TileRec := (if k < 32 then some a else b).filter (fun r => k % 32 < r.rows)
  let words (r : TileRec) : List Word :=
    [BitVec.ofNat 32 r.expert, BitVec.ofNat 32 r.rowStart, BitVec.ofNat 32 r.rows, BitVec.ofNat 32 r.top]
  { index := g, exec := maskWhere (fun k => (row k).isSome),
    regs := words a ++ (match b with | some r => words r | none => []),
    keys := if l.ein.isSome then
      allLanes.map (fun k => (row k).bind (fun r => if r.nokey then none else some ((r.keyBase + k % 32) % 2 ^ 40))) else [] }

/-- Wave g of a launch: of a TILELAUNCH, built only when both its records are good (R49). -/
def State.specAt (s : State) (l : Launch) (g : Nat) : SpecAt :=
  match l.tile with
  | none => .ok s (l.itemSpec g)
  | some (list, c) =>
    match s.readTile (cpView l.space l.part) (list + 32 * g) with
    | .wait p => .wait p
    | .bad s => .bad s
    | .ok s a =>
      if 2 * g + 1 < c then
        match s.readTile (cpView l.space l.part) (list + 32 * g + 16) with
        | .wait p => .wait p
        | .bad s => .bad s
        | .ok s b => .ok s (l.tileSpec g a (some b))
      else .ok s (l.tileSpec g a none)

def Spec.key (x : Spec) (lane : Nat) : Option Nat := x.keys.getD lane none
/-- The keys of the active lanes. -/
def Spec.activeKeys (x : Spec) : List Nat := (lanesOf x.exec).filterMap x.key

/-! ### Affinity (R65) and births in place (R94) -/

/-- The RESIDENT block that holds a key of a launch's estate-in domain. -/
def State.keyBlock (s : State) (l : Launch) (key : Nat) : Option Block :=
  (l.ein.filter (fun d => (s.domain l.part d).state == .open)).bind (fun d =>
    (s.groupBlock l.part d (key / 64)).filter (fun b => b.loc == .resident && b.cx == l.cx && b.present.getLsbD (key % 64)))

/-- The block that makes a core the affinity core of a wave. -/
def State.affinity (s : State) (l : Launch) (x : Spec) : Option Block :=
  match ((lowestLane x.exec).bind x.key).bind (s.keyBlock l) with
  | some b => some b
  | none => (sortBy id x.activeKeys).findSome? (s.keyBlock l)

/-- The block with which a wave can be born in place on the core that holds it (R94): one source group, slot of each active
lane l, every present slot taken, the run as long as the window, the map in order, and the domain without KEEP. No take that the group's
home received before waits for it (R93). -/
def State.inPlace (s : State) (l : Launch) (x : Spec) : Option Block :=
  let lanes := lanesOf x.exec
  match x.key (lanes.headD 0), l.ein.filter (fun d => (s.domain l.part d).state == .open) with
  | some k0, some d =>
    (s.groupBlock l.part d (k0 / 64)).filter (fun b => b.loc == .resident && b.cx == l.cx &&
      lanes.all (fun k => x.key k == some (k0 / 64 * 64 + k)) && (b.present &&& ~~~x.exec) == 0 && b.runLen == l.desc.ewin &&
      (l.desc.inhmap.take l.desc.ninh).zipIdx.all (fun e => e.1 == e.2) && !(s.domain b.part b.dom).keep &&
      !s.groupBusy b.part b.dom b.group && !s.takeBefore b.part b.dom b.group s.nextOp && s.claimedBy b.id 0 == 0)
  | _, _ => none

/-! ### Birth (R143, R320) -/

def kvClear {α : Type} (lo n : Nat) (m : KV α) : KV α := m.filter (fun e => !(decide (lo ≤ e.1) && decide (e.1 < lo + n)))

/-- What a wave is granted reads zero (R143): work window, scratchpad, tiles, semaphores, and its estate window unless a
block in place fills it. -/
def State.clearSite (s : State) (w : Wave) (window : Bool) : State :=
  let rf := kvClear (rowKey w.cc w.wbase 0) (8 * w.foot.wwin) s.rf
  { s with rf := if window then kvClear (rowKey w.cc w.ebase 0) (8 * w.foot.ewin) rf else rf,
           scratch := kvClear (w.spadKey 0) (1024 * w.foot.spad) s.scratch,
           tags := kvClear (w.spadKey 0 / 8) (128 * w.foot.spad) s.tags,
           spadPoison := kvClear (w.spadKey 0 / 8) (128 * w.foot.spad) s.spadPoison,
           sems := kvClear (w.semKey 0) w.foot.sema s.sems,
           tiles := kvClear ((w.cc * 256 + w.accBase) * 1024) (1024 * w.foot.acc) s.tiles }

/-- A new wave stands on its core; its acquire is at the scope given. -/
def State.addWave (s : State) (w : Wave) (window : Bool) (scope : Nat) : State :=
  let s := s.clearSite w window
  ({ s with waves := s.waves ++ [{ w with ticket := s.nextOp }], nextUid := s.nextUid + 1, nextOp := s.nextOp + 1 }).invalidate w.core scope

/-- A heir born in place (R94, R95, R97): the run becomes its window, lanes and registers that receive nothing are cleared,
writes still outstanding go with it, and the block is gone. -/
def State.adoptBlock (s : State) (w : Wave) (b : Block) : State :=
  let n := min w.desc.ninh b.e
  let row (j : Nat) : Nat := b.rowOf j
  let rf := (List.range (8 * w.foot.ewin)).foldl (fun m j =>
    kvPut zeroV m (row j) (if j < n then mergeV zeroV b.present (laneOf (kvGet zeroV s.rf (row j))) else zeroV)) s.rf
  let landings (o : Op) : List Landing := (b.pend.filter (fun d => d.row < n && d.op == o.id)).map (fun d =>
    { d with row := row d.row, slots := d.slots.map (fun k => k.filter (fun x => b.present.getLsbD x)) })
  let s := { s with rf := rf, ops := s.ops.map (fun (o : Op) => { o with moved := o.moved ++ landings o }) }
  (s.putWave (w.setK 1 b.present)).freeBlock b.id

/-- A wave of a launch is placed (R62, R94, R143). -/
def State.placeSpec (s : State) (l : Launch) (x : Spec) (at_ : Site) : State :=
  let foot : Footprint := { ewin := l.desc.ewin, wwin := l.desc.wwin, spad := l.desc.spad, acc := l.desc.acc, sema := l.desc.sema }
  let o : Origin := { part := l.part, cx := l.cx, fn := l.fn, queue := l.queue, launch := l.id, index := x.index, space := l.space, prio := l.prio }
  let w := ({ Wave.born s.nextUid o at_ l.desc foot s.dtime.toNat with
    exec := x.exec, args := l.args, icount := BitVec.ofNat 64 l.items, ibase := BitVec.ofNat 64 (64 * x.index), keys := x.keys } : Wave).setRun 0 x.regs
  match (s.inPlace l x).filter (fun b => b.core == at_.core && b.rfblk == at_.ebase) with
  | some b => (((s.addWave w false 5).adoptBlock w b).stirEstates l.part).dueOnce .waveBirthDone { uid := w.uid }
  | none =>
    let w := { w with takes := distinct (x.activeKeys.map (· / 64)) }
    (s.addWave w true 5).dueOnce (if w.takes = [] then .waveBirthDone else .estateTake) { uid := w.uid }

/-- The card at the head of a core's task queue. -/
def State.headCard (s : State) (cc : Nat) : Option Card := (s.cards.find? (fun e => e.1 == cc)).map Prod.snd

def dropHead (cc : Nat) : List (Nat × Card) → List (Nat × Card)
  | [] => []
  | e :: r => if e.1 = cc then r else e :: dropHead cc r

def Card.foot (c : Card) : Footprint := { ewin := 0, wwin := c.wwin, spad := c.spad, acc := c.acc, sema := c.sema }

/-- A pass places on a core: it is not the one that fine pre-emption clears for a wave (R375). -/
def State.openCore (s : State) (part c : Nat) : Bool := !(s.part part).making.any (fun m => m.core == c)
def State.openCores (s : State) (part : Nat) : List Nat := (s.partCores part).filter (s.openCore part)

/-- Where the head card of a task queue fits. -/
def State.cardSite (s : State) (cc : Nat) : Option (Card × Site) :=
  ((s.headCard cc).filter (fun c => s.openCore c.part (cc % 192))).bind (fun c =>
    (siteIn (s.room (cc / 192) (cc % 192) [] []) c.foot none none).map (fun st => (c, st)))

/-- A card becomes a child on its core (R72). -/
def State.bornCard (s : State) (cc : Nat) (c : Card) (at_ : Site) : State :=
  let o : Origin := { part := c.part, cx := c.cx, fn := c.fn, queue := c.queue, launch := c.launch, index := 0, space := c.space, prio := c.prio }
  let w := { Wave.born s.nextUid o at_ c.desc c.foot s.dtime.toNat with
    child := true, pc := c.entry, exec := maskWhere (fun k => decide (k < c.lanes)), args := c.args, icount := BitVec.ofNat 64 c.lanes,
    ctaglo := loWord c.tag, ctaghi := hiWord c.tag, sdepth := c.depth, parent := c.parent }
  let s := { s with cards := dropHead cc s.cards }
  let s := (s.addWave w true (if c.devScope then 4 else 2)).dueOnce .waveBirthDone { uid := w.uid }
  if s.cards.any (fun e => e.1 == cc) then s.dueOnce .taskCardBirth { core := cc } else s

/-! ### Choosing a core, evicting, pre-empting (R60, R61, R63, R375) -/

/-- What placement knows of a wave that it tries to place. -/
structure Want where
  part : Nat
  cx : Nat
  prio : Nat
  foot : Footprint
  /-- Cores that may take it. -/
  cores : List Nat
  /-- Preferred before the other cores: a cluster, or the core that a restarting wave left. -/
  cluster : Option Nat
  home : Option Nat
  /-- The slot kept on `home`. -/
  slot : Option Nat
  /-- A block with which it fits in place: block id, core and run. -/
  block : Option (Nat × Nat × Nat)
deriving DecidableEq, Repr

/-- Where a wave would fit on a core, when the waves `gone` have left it and the runs of the blocks `freed` are free. -/
def State.wantSite (s : State) (x : Want) (gone freed : List Nat) (c : Nat) : Option Site :=
  siteIn (s.room x.cx c gone freed) x.foot ((x.block.filter (fun b => b.2.1 == c && !freed.contains b.1)).map (fun b => b.2.2))
    (if x.home = some c then x.slot else none)

/-- A site for it on an open core. -/
def State.wantOpen (s : State) (x : Want) (c : Nat) : Option Site := if s.openCore x.part c then s.wantSite x [] [] c else none

/-- The choice of R61 among the cores that fit: the preferred core or cluster, else the lowest cluster; in it the core with the
fewest resident waves, then the lowest. -/
def State.chooseSite (s : State) (x : Want) (sites : List Site) : Option Site :=
  let load (c : Nat) : Nat := (s.waves.filter (fun w => w.core == c && w.cx == x.cx && w.life != .preempted)).length
  let rank (t : Site) : Nat :=
    let cl := coreCluster t.core
    let first := if x.home = some t.core ∨ (x.home = none ∧ x.cluster = some cl) then 0 else 1 + cl
    (first * 1024 + load t.core) * 256 + t.core
  (sortBy rank sites).head?

/-- A block that is on its way to the Orchard: its run comes free. -/
def Block.leaving (b : Block) : Bool := b.loc == .moving && b.hasRun && (match b.route with | .orchard _ => true | _ => false)

/-- Blocks that waves under affinity hold wait for (R63). -/
def State.awaited (s : State) (part : Nat) : List Nat :=
  (s.launches.filter (fun l => l.part == part)).flatMap (fun l => l.holds.map (fun h => h.2.1))

/-- What eviction can choose on a core, oldest BTIME first (R101): RESIDENT blocks, and LIVE ones whose wave is not restarting. -/
def State.evictable (s : State) (x : Want) (c : Nat) (keep : List Nat) : List Nat :=
  (sortBy (fun b => b.btime.toNat) (s.blocks.filter (fun b => b.core == c && b.cx == x.cx && !keep.contains b.id &&
    (b.loc == .resident || (b.loc == .live && s.waves.any (fun w => w.uid == b.uid && w.life == .preempted)))))).map (·.id)

/-- The shortest leading part of a list, up to `limit` long, with which something fits. -/
def shortest (ok : List Nat → Bool) (limit : Nat) (l : List Nat) : Option (List Nat) :=
  ((List.range (min limit l.length + 1)).map (fun n => l.take n)).find? ok

/-- The core that needs the fewest, then the lowest core, with its plan. -/
def fewest (plans : List (Nat × List Nat)) : Option (Nat × List Nat) := (sortBy (fun e => e.2.length * 256 + e.1) plans).head?

/-- The Orchard slots that are free. -/
def State.orchardFree (s : State) (part : Nat) : Nat :=
  let n := (s.part part).orchSlots.toNat
  n - ((distinct (s.orchardUsed part)).filter (· < n)).length

/-- The runs on a core that are coming free. -/
def State.leavingOn (s : State) (x : Want) (c : Nat) : List Nat :=
  (s.blocks.filter (fun b => b.leaving && b.core == c && b.cx == x.cx)).map (·.id)

def State.evictPlan (s : State) (x : Want) : Option (List Nat) :=
  let keep := s.awaited x.part
  (fewest (x.cores.filterMap (fun c =>
    (shortest (fun ids => (s.wantSite x [] (s.leavingOn x c ++ ids) c).isSome) (s.orchardFree x.part) (s.evictable x c keep)).map
      (fun p => (c, p))))).map Prod.snd

/-- A wave that R375 lets go for one of higher priority, directory entries apart. -/
def State.canLeave (s : State) (w : Wave) : Bool :=
  (match w.life with | .ready | .parked _ => true | _ => false) && !w.sealFlag && !w.inTrap && !w.chosen &&
  !s.tags.any (fun e => w.ownsSpad (8 * e.1))

/-- Directory entries free for LIVE blocks. DESIGN CHOICE (log 41). -/
def State.dirRoom (s : State) (part : Nat) : Nat := (s.part part).dirSize.toNat - s.dirUsed part

/-- Of waves in the order in which they would be chosen, those that find a directory entry for their LIVE block (R105, R375). -/
def withEntries : Nat → List Wave → List Wave
  | _, [] => []
  | room, w :: r =>
    if w.foot.ewin = 0 then w :: withEntries room r
    else match room with
      | 0 => withEntries 0 r
      | n + 1 => w :: withEntries n r

/-- The waves that would leave a core for w, and that core (R375): of two placed in one tick the later has the higher number. -/
def State.preemptPlan (s : State) (x : Want) : Option (Nat × List Nat) :=
  fewest (x.cores.filterMap (fun c =>
    let ws := s.waves.filter (fun w => w.core == c && w.cx == x.cx && w.part == x.part)
    let can := withEntries (s.dirRoom x.part) ((sortBy (fun w => w.prio * 2 ^ 64 + (2 ^ 64 - 1 - w.placed))
      (ws.filter (fun w => w.prio < x.prio && s.canLeave w)).reverse))
    let ok (us : List Nat) : Bool := (s.wantSite x us (s.leavingOn x c) c).isSome
    (shortest ok can.length (can.map (·.uid))).map (fun p => (c, p))))

/-- The outcome of R60 for a wave. -/
inductive Choice where
  | place (at_ : Site)
  | evict (ids : List Nat)
  | preempt (core : Nat) (uids : List Nat)
  | blocked

def State.chooseFor (s : State) (x : Want) : Choice :=
  match s.chooseSite x (x.cores.filterMap (s.wantSite x [] [])) with
  | some t => .place t
  | none =>
    match s.evictPlan x with
    | some ids => .evict ids
    | none => match s.preemptPlan x with | some (c, us) => .preempt c us | none => .blocked

/-- Waves are chosen for fine pre-emption (R375): each issues no further group. -/
def State.chooseWaves (s : State) (us : List Nat) : State :=
  us.foldl (fun s u => (s.modWave u (fun w => { w with chosen := true })).dueOnce .waveTakeOff { uid := u }) s

/-! ### Restart (R105, R377) -/

/-- The LIVE block of a wave. -/
def State.liveOf (s : State) (uid : Nat) : Option Block := s.blocks.find? (fun b => b.dom == 4096 && b.uid == uid)

/-- Device memory copied by the hardware, poison with it. -/
def State.copyPa (s : State) (src dst n : Nat) : State :=
  let at_ (a : Nat) : Spot := .mem { pa := a, w := true, x := false, nol1 := false, pin := false }
  let (s, bs) := s.readSpot 0 (at_ src) n
  s.writeSpot 0 (at_ dst) bs

/-- The parts of a wave's checkpoint area that it uses: offset and length (R378). -/
def Wave.areaParts (w : Wave) : List (Nat × Nat) :=
  [(0, 0x1400), (0x2000, 256 * ((w.ckpt.map (·.vregs.length)).getD 0)), (0x4000, 4 * w.foot.sema), (0x5000, 0x418), (0x8000, 4096 * w.foot.acc), (0x28000, 1024 * w.foot.spad), (0x68000, 16 * w.foot.spad)]

/-- What a wave leaves at its old WaveIndex goes to the new one: its written backing-store registers and its checkpoint area. -/
def State.moveAreas (s : State) (old new : Wave) : State :=
  let back (s : State) (w : Wave) (n : Nat) : Nat := (s.part w.part).bstore.toNat + 65536 * s.waveIndex w + 256 * n
  let s := old.backed.foldl (fun s n => s.copyPa (back s old n) (back s new n) 256) s
  if s.areaThere old && s.areaThere new then new.areaParts.foldl (fun s e => s.copyPa (s.ckptArea old + e.1) (s.ckptArea new + e.1) e.2) s else s

/-- A restarting wave is placed (R377): it then is restored. For rule 4 of R160 it keeps the time of its first placement.
DESIGN CHOICE (log 70). -/
def State.restartAt (s : State) (w : Wave) (at_ : Site) : State :=
  let w' : Wave := { w with core := at_.core, slot := at_.slot, ebase := at_.ebase, wbase := at_.wbase, spadBase := at_.spadBase,
                            accBase := at_.accBase, semBase := at_.semBase, life := .restoring, blocked := none }
  let adopt := (s.liveOf w.uid).any (fun b => b.loc == .live && b.core == at_.core && b.rfblk == at_.ebase)
  let s := if at_.core = w.core ∧ at_.slot = w.slot then s else s.moveAreas w w'
  ((s.clearSite w' (!adopt)).putWave w').dueOnce .waveRestartDone { uid := w.uid }

/-- The lines of the wave's checkpoint area that it uses. -/
def State.areaLines (s : State) (w : Wave) : List Nat := w.areaParts.flatMap (fun p => linesOf (s.ckptArea w + p.1) p.2)

/-- The line of the wave's checkpoint area whose data cannot be used, if one is (R250, R370). -/
def State.areaPoison (s : State) (w : Wave) : Option Nat := (s.areaLines w).find? s.lineBad

/-- A parameter copy as `paramBytes` lays it out. -/
def paramsFrom (bs : List Byte) : ParamCopy :=
  let h := leNat (bs.take 16)
  { clen := bitsOf h 31 0, nrows := bitsOf h 63 32, rowbase := bitsOf h 95 64,
    rows := (List.range (min 64 (bitsOf h 63 32))).map (fun i =>
      let e := leNat ((bs.drop (16 + 16 * i)).take 16)
      (BitVec.ofNat 64 e, bitsOf e 95 64)) }

/-- The scratchpad, its tags clear, the semaphores, the tiles and the parameter copy come back from the checkpoint area. -/
def State.restoreArea (s : State) (w : Wave) : State :=
  let a := s.ckptArea w
  let words (s : State) (off n : Nat) : State × List Word :=
    let (s, b) := s.homeLoad (a + off) (4 * n)
    (s, wordsFrom n b)
  let (s, sem) := words s 0x4000 w.foot.sema
  let s := sem.zipIdx.foldl (fun s e => s.putSem (w.semKey e.2) e.1) s
  let (s, t) := words s 0x8000 (1024 * w.foot.acc)
  let s := { s with tiles := t.zipIdx.foldl (fun (m : KV Word) (e : Word × Nat) => kvPut 0 m ((w.cc * 256 + w.accBase) * 1024 + e.2) e.1) s.tiles }
  let (s, held) := words s 0x5410 2
  let (s, p) := s.homeLoad (a + 0x5000) 0x410
  let s := s.modWave w.uid (fun w => { w with params := if (held.headD 0).getLsbD 0 then some (paramsFrom p) else none })
  let (s, b) := s.homeLoad (a + 0x28000) (1024 * w.foot.spad)
  s.spadPut (w.spadKey 0) b

/-- The LIVE block fills the estate window, adopted in place or transferred, and is gone. -/
def State.restoreLive (s : State) (w : Wave) : State :=
  match s.liveOf w.uid with
  | none => s
  | some b =>
    let s := s.checkBlock b
    let s :=
      if b.place = .live ∧ b.core = w.core ∧ b.rfblk = w.ebase then s
      else (List.range b.e).foldl (fun (s : State) j => { s with rf := kvPut zeroV s.rf (rowKey w.cc (w.ebase + j / 8) (j % 8)) (s.blockReg b j) }) s
    (s.freeBlock b.id).stirEstates b.part

/-- The wave as its checkpoint has it (R371, R374): registers that it does not name read zero. -/
def Wave.restored (w : Wave) (c : Checkpoint) : Wave :=
  let w := { w with exec := c.exec, k := c.k, fmt := c.fmt, scc := c.scc, maskStack := c.maskStack, callStack := c.callStack,
                    tbudget := c.tbudget, inld := c.inld, args := c.args, icount := c.icount, ibase := c.ibase, ctaglo := c.ctaglo,
                    ctaghi := c.ctaghi, sdepth := c.sdepth, s := [], pc := c.head, grp := [], xfer := none, life := .ready }
  c.sregs.foldl (fun w e => w.setS e.1 e.2) w

/-- WAVE_RESTART_DONE (R377). A poisoned line of the checkpoint area halts the wave (R370). -/
def execWaveRestartDone (s : State) : Host.Outcome State Fault Refusal :=
  .next (match s.wave? s.input.uid with
    | none => s
    | some w =>
      match w.life, w.ckpt with
      | .restoring, some c =>
        if (s.liveOf w.uid).any (fun b => b.loc == .moving) then s
        else if (s.liveOf w.uid).any s.blockHeld || s.runHeld none (s.ckptArea w) 524288 then s.hold .waveRestartDone { uid := w.uid }
        else
          match s.areaPoison w with
          | some line => (s.checkLine line).haltWave { w with pc := c.head, grp := [], xfer := none } { cause := 0x0C, fsub := 1, addr := BitVec.ofNat 64 (128 * line) }
          | none =>
            let (s, c) := if s.areaThere w then s.loadCheckpoint w else (s, c)
            let s := (s.restoreArea w).restoreLive w
            let s := s.modWave w.uid (fun w => w.restored c)
            let s := c.vregs.foldl (fun s e => s.writeV w.uid e.1 (BitVec.allOnes 64) e.2) s
            (s.invalidate w.core 2).stirHalt w.part
      | _, _ => s)

/-! ### The pass (R59, R60) -/

/-- What a pass considers. -/
inductive PassItem where
  | restart (uid : Nat)
  | held (launch index block : Nat)
  | next (launch : Nat)
deriving DecidableEq, Repr

/-- Candidates in rank order (R59). -/
def State.candidates (s : State) (part : Nat) : List Launch :=
  sortBy (fun l => ((((7 - l.prio) * 2 ^ 64 + l.start.toNat) * 2 ^ 8 + l.fn) * 2 ^ 8 + l.queue) * 2 ^ 64 + l.id)
    (s.launches.filter (fun l => l.part == part && l.cx == (s.part part).active && !l.created))

/-- The next wave of a candidate: the lowest index not yet placed and not under hold. -/
def Launch.nextIndex (l : Launch) : Option Nat :=
  (sortBy (fun (g : Nat) => g) (l.released ++ (if l.nextWave < l.limit then [l.nextWave] else []))).head?

def State.passItems (s : State) (part : Nat) : List PassItem :=
  let back := sortBy (fun w => (7 - w.prio) * 2 ^ 64 + w.ticket)
    (s.waves.filter (fun w => w.part == part && w.cx == (s.part part).active && w.life == .preempted))
  back.map (fun w => PassItem.restart w.uid) ++
  (s.candidates part).flatMap (fun l => (sortBy (fun h => h.1) l.holds).map (fun h => PassItem.held l.id h.1 h.2.1) ++
    (if l.nextIndex.isSome then [PassItem.next l.id] else []))

/-- A wave of a launch as placement wants it. -/
def State.wantSpec (s : State) (l : Launch) (x : Spec) (cores : List Nat) : Want :=
  { part := l.part, cx := l.cx, prio := l.prio,
    foot := { ewin := l.desc.ewin, wwin := l.desc.wwin, spad := l.desc.spad, acc := l.desc.acc, sema := l.desc.sema },
    cores := cores, cluster := match l.prevCluster with | some c => some c | none => cores.head?.map coreCluster,
    home := none, slot := none, block := (s.inPlace l x).map (fun b => (b.id, b.core, b.rfblk)) }

/-- A restarting wave: its own core first, and no other when it has tiles (R67, R298, R377). -/
def State.wantWave (s : State) (w : Wave) : Want :=
  { part := w.part, cx := w.cx, prio := w.prio, foot := w.foot,
    cores := (s.openCores w.part).filter (fun c => if 0 < w.foot.acc then c == w.core else coreCluster c == coreCluster w.core),
    cluster := none, home := some w.core, slot := some w.slot,
    block := ((s.liveOf w.uid).filter (fun b => b.loc == .live)).map (fun b => (b.id, b.core, b.rfblk)) }

/-- What an item comes to: an action, after which the pass comes due again or ends, or nothing. -/
inductive PassStep where
  | act (s : State) (again : Bool)
  | on (s : State)

/-- A launch's wave has been placed: it is next no more. -/
def Launch.took (l : Launch) (index core : Nat) : Launch :=
  { l with nextWave := if index = l.nextWave then l.nextWave + 1 else l.nextWave, holds := l.holds.filter (fun h => h.1 != index),
           released := l.released.filter (· != index), prevCluster := some (coreCluster core), blocked := l.blocked.filter (fun b => b.1 != index) }

/-- A bad record: no wave is created from this index on (R49). -/
def Launch.stop (l : Launch) (index : Nat) : Launch :=
  let n := min index (l.stopAt.getD index)
  { l with stopAt := some n, holds := l.holds.filter (fun h => h.1 < n), released := l.released.filter (· < n),
           blocked := l.blocked.filter (fun b => b.1 < n) }

/-- The wave has come up in a placement pass (R65). -/
def Launch.saw (l : Launch) (index : Nat) : Launch := { l with seen := max l.seen (index + 1) }

/-- What is noted of a wave that has been blocked as next wave (R60). -/
def Launch.mark (l : Launch) (index : Nat) : Option (DWord × Bool) := (l.blocked.find? (fun b => b.1 == index)).map Prod.snd

/-- The time at which a block that begins now stops the pass, and whether it does so at once (R60, R66). -/
def State.blockMark (s : State) (part : Nat) : DWord × Bool :=
  (s.dtime + (s.part part).bflim.zeroExtend 64, (s.part part).bflim == 0)

/-- The wave is the one for which fine pre-emption makes room. -/
def State.awaitsRoom (s : State) (part : Nat) (who : Making) : Bool :=
  (s.part part).making.any (fun m => m.restart == who.restart && m.id == who.id && m.index == who.index)

/-- A choice is carried out; `place` places the wave, `mark` notes that it is blocked, and `since` is an earlier note. A wave for
which room is being made waits for it, and room is made for one wave at a time (R375). -/
def State.passChoice (s : State) (x : Want) (who : Making) (place : Site → State) (since : Option (DWord × Bool)) (mark : DWord × Bool → State) :
    PassStep :=
  let stays (f : State → State) : PassStep :=
    match since with
    | some b => if b.2 then .act (f s) false else .on (f s)
    | none => if (s.blockMark x.part).2 then .act (f (mark (s.blockMark x.part))) false else .on (f (mark (s.blockMark x.part)))
  if s.awaitsRoom x.part who then stays id
  else
    match s.chooseFor x with
    | .place t => .act (place t) true
    | .evict ids => .act (ids.foldl State.evict s) false
    | .preempt c us =>
      if (s.part x.part).making.isSome then stays id
      else stays (fun s => (s.putPart x.part { s.part x.part with making := some { who with core := c } }).chooseWaves us)
    | .blocked => stays id

/-- A head card of the partition that goes before a wave of a priority (R72), and fits. -/
def State.cardBefore (s : State) (part prio : Nat) : Option (Nat × Card × Site) :=
  (distinct ((s.cards.filter (fun e => e.2.part == part && e.2.cx == (s.part part).active)).map Prod.fst)).findSome? (fun cc =>
    (s.cardSite cc).bind (fun e => if prio ≤ e.1.prio then some (cc, e.1, e.2) else none))

/-- A pass waits for a page of a tile list (R49), or for an engine that owns a line of it (R321). -/
def State.pageFor (s : State) (l : Launch) (page : Option Nat) : State :=
  match page with
  | some p => s.requestPages l.space [p]
  | none => s.hold .placementPass { part := l.part }

/-- A wave of a launch: placed if it fits its affinity core when it first comes up, else by the choice of R60. DEDUCED (log 17). -/
def State.passNext (s : State) (l : Launch) (index : Nat) : PassStep :=
  match s.specAt l index with
  | .wait p => .on (s.pageFor l p)
  | .bad s => .act (((s.queueError l.fn l.queue 7).modLaunch l.id (fun l => l.stop index)).launchCheck l.id) true
  | .ok s x =>
    let s := s.modLaunch l.id (fun l => l.saw index)
    let put (t : Site) : State := (s.placeSpec l x t).modLaunch l.id (fun l => l.took index t.core)
    let free : PassStep := s.passChoice (s.wantSpec l x (s.openCores l.part)) { restart := false, id := l.id, index := index, core := 0 } put (l.mark index)
      (fun b => s.modLaunch l.id (fun l => { l with blocked := l.blocked ++ [(index, b)] }))
    if index < l.seen then free
    else
      match s.affinity l x with
      | none => free
      | some b =>
        match s.wantOpen (s.wantSpec l x [b.core]) b.core with
        | some t => .act (put t) true
        | none =>
          let win := (s.part l.part).affwin
          if win = 0 then free
          else
            let hold := (index, b.id, s.dtime + win.zeroExtend 64)
            .act (s.modLaunch l.id (fun l => { l with nextWave := l.nextWave + 1, holds := l.holds ++ [hold] })) true

/-- The core of an awaited block while it is RESIDENT there (R65). -/
def State.awaitedCore (s : State) (block : Nat) : Option Nat := ((s.block? block).filter (fun b => b.loc == .resident)).map (·.core)

/-- A wave under affinity hold (R65): placed on its affinity core, passed over, or released when its block has left. -/
def State.passHeld (s : State) (l : Launch) (index block : Nat) : PassStep :=
  match s.awaitedCore block with
  | none => .act (s.modLaunch l.id (fun l => l.release index)) true
  | some core =>
    match s.specAt l index with
    | .wait p => .on (s.pageFor l p)
    | .bad s => .act (((s.queueError l.fn l.queue 7).modLaunch l.id (fun l => l.stop index)).launchCheck l.id) true
    | .ok s x =>
      match s.wantOpen (s.wantSpec l x [core]) core with
      | some t => .act ((s.placeSpec l x t).modLaunch l.id (fun l => l.took index t.core)) true
      | none => .on s

/-- A wave of the candidate that has been blocked for PBFLIM ticks stops the pass (R60), although one of a lower index, released from its
hold, has come before it and goes on. -/
def PassStep.stopFor (x : PassStep) (late : Bool) : PassStep :=
  match x with
  | .on s => if late then .act s false else .on s
  | y => y

def State.passItem (s : State) : PassItem → PassStep
  | .restart u =>
    match s.wave? u with
    | none => .on s
    | some w => s.passChoice (s.wantWave w) { restart := true, id := u, index := 0, core := 0 } (s.restartAt w) w.blocked (fun b => s.putWave { w with blocked := some b })
  | .held id index block => match s.launch? id with | some l => s.passHeld l index block | none => .on s
  | .next id =>
    match s.launch? id with
    | some l =>
      match l.nextIndex with
      | some g => (s.passNext l g).stopFor (l.blocked.any (fun b => b.1 != g && b.2.2))
      | none => .on s
    | none => .on s

/-- The priority of the wave that an item is about. -/
def State.itemPrio (s : State) : PassItem → Nat
  | .restart u => ((s.wave? u).map (·.prio)).getD 0
  | .held id _ _ | .next id => ((s.launch? id).map (·.prio)).getD 0

/-- The items in order, up to the first action: the device, and after an action whether the pass comes due again. -/
def State.passOver (s : State) (part : Nat) : List PassItem → State × Option Bool
  | [] => (s, none)
  | x :: r =>
    match s.cardBefore part (s.itemPrio x) with
    | some (cc, c, t) => (s.bornCard cc c t, some true)
    | none =>
      match s.passItem x with
      | .act s again => (s, some again)
      | .on s => s.passOver part r

/-- The partition places waves now: it is LIVE and no context switch is under way (R382). -/
def State.placing (s : State) (part : Nat) : Bool := (s.part part).live && (s.part part).switching.isNone

/-- The wave for which room was made takes its core, if it fits there and still waits to be placed (R375). -/
def State.takeRoom (s : State) (part : Nat) (m : Making) : Option State :=
  if m.restart then
    match s.wave? m.id with
    | some w =>
      if w.life = .preempted ∧ w.part = part ∧ w.cx = (s.part part).active then (s.wantSite (s.wantWave w) [] [] m.core).map (s.restartAt w) else none
    | none => none
  else
    match (s.candidates part).find? (fun l => l.id == m.id && l.nextIndex == some m.index) with
    | some l =>
      match s.specAt l m.index with
      | .ok s x =>
        (s.wantSite (s.wantSpec l x [m.core]) [] [] m.core).map (fun t => (s.placeSpec l x t).modLaunch l.id (fun l => l.took m.index t.core))
      | _ => none
    | none => none

/-- A pass over everything that waits for placement. -/
def State.passAll (s : State) (part : Nat) : State :=
  match s.passOver part (s.passItems part) with
  | (s, some true) => s.dueOnce .placementPass { part := part }
  | (s, some false) => s
  | (s, none) =>
    match s.cardBefore part 0 with
    | some (cc, c, t) => (s.bornCard cc c t).dueOnce .placementPass { part := part }
    | none => s

/-- PLACEMENT_PASS. Once the chosen waves have left their core, the wave for which they did comes first. -/
def execPlacementPass (s : State) : Host.Outcome State Fault Refusal :=
  .next (
    let part := s.input.part
    if s.placing part then
      match (s.part part).making with
      | none => s.passAll part
      | some m =>
        if s.waves.any (fun w => w.chosen && w.part == part && w.core == m.core) then s.passAll part
        else
          let s := s.putPart part { s.part part with making := none }
          match s.takeRoom part m with
          | some s => s.dueOnce .placementPass { part := part }
          | none => s.passAll part
    else s)

/-- TASK_CARD_BIRTH (R72): CP waves of higher priority that can be placed come first. -/
def execTaskCardBirth (s : State) : Host.Outcome State Fault Refusal :=
  .next (
    let cc := s.input.core
    match s.cardSite cc with
    | none => s
    | some (c, t) =>
      if s.placing c.part ∧ c.cx = (s.part c.part).active then
        match s.passOver c.part ((s.passItems c.part).filter (fun x => decide (c.prio < s.itemPrio x))) with
        | (s', some true) => s'.dueOnce .taskCardBirth { core := cc }
        | (s', some false) => s'
        | (s', none) => s'.bornCard cc c t
      else s)

/-- AFFINITY_HOLD_EXPIRE (R65). -/
def execAffinityHoldExpire (s : State) : Host.Outcome State Fault Refusal :=
  .next (match s.launch? s.input.idx with
    | none => s
    | some l =>
      match l.holds.find? (fun h => h.1 == s.input.slot) with
      | some h =>
        if h.2.2.toNat ≤ s.dtime.toNat then
          (s.modLaunch l.id (fun l => l.release h.1)).dueOnce
            .placementPass { part := l.part }
        else s
      | none => s)

/-- BACKFILL_LIMIT_EXPIRE (R60): waves blocked for PBFLIM ticks stop the pass from now on. -/
def execBackfillLimitExpire (s : State) : Host.Outcome State Fault Refusal :=
  .next (
    let part := s.input.part
    let late (b : Option (DWord × Bool)) : Option (DWord × Bool) := b.map (fun x => (x.1, x.2 || decide (x.1.toNat ≤ s.dtime.toNat)))
    { s with launches := s.launches.map (fun (l : Launch) => if l.part = part then
               { l with blocked := l.blocked.map (fun (b : Nat × DWord × Bool) => (b.1, b.2.1, b.2.2 || decide (b.2.1.toNat ≤ s.dtime.toNat))) } else l),
             waves := s.waves.map (fun (w : Wave) => if w.part = part then { w with blocked := late w.blocked } else w) }.dueOnce
      .placementPass { part := part })

end Sys2Proof.Machine
end

