-- ==== Sys2Proof/Machine/Queue.lean ====
section
/-! DEFINITION. Queues and packets (R29 to R56): the queue commands, NOTIFY, the reading and checking of packets and kernel
descriptors, the start of each packet type, polling, deadlines and completion. -/

namespace Sys2Proof.Machine

/-! ### Queue records -/

/-- A queue until its first ENABLE (R34): DISABLED, with indices 0 and QLOG 16. DESIGN CHOICE (log 6). -/
def Queue.fresh (fn q : Nat) : Queue :=
  { fn := fn, q := q, qdescAddr := 0, state := .disabled,
    desc := { qbase := 0, ridxAddr := 0, widxAddr := 0, qlog := 16, pmax := 0, pasid := 0, pv := false, ie := false, vec := 0, errSig := 0, trapAddr := 0 },
    widx := 0, ridx := 0, cause := 0, expIdx := 0, tileClamp := false, expired := false, notifyBack := false, notifySize := false,
    notifyRange := false, disabling := false, enabling := .no, records := 0, packets := [] }

/-- The record of queue q of a function exists. -/
def State.ensureQueue (s : State) (fn q : Nat) : State :=
  if (s.queue? fn q).isSome then s else { s with queues := s.queues ++ [Queue.fresh fn q] }

/-- An event about a queue that the device has (R29): functions 0 to 64, queues 0 to 255. -/
def State.onQueue (s : State) (f : State → Queue → State) : Host.Outcome State Fault Refusal :=
  .next (
    if 65 ≤ s.input.fn ∨ 256 ≤ s.input.queue then s
    else
      let s := s.ensureQueue s.input.fn s.input.queue
      match s.queue? s.input.fn s.input.queue with
      | some x => f s x
      | none => s)

def Queue.clearSticky (x : Queue) : Queue :=
  { x with tileClamp := false, expired := false, notifyBack := false, notifySize := false, notifyRange := false }

/-- The function is assigned and its context is active, so its queues are served (R55, R58, R381). -/
def State.served (s : State) (fn : Nat) : Bool :=
  let f := s.func fn
  f.assigned && (s.part f.part).live && f.ctx == (s.part f.part).active && (s.part f.part).switching.isNone

/-! ### Packets -/

/-- A field of a packet. -/
def Packet.fld (p : Packet) (hi lo : Nat) : Nat := bitsOf p.raw.toNat hi lo
def Packet.ty (p : Packet) : Nat := p.fld 7 1
def Packet.flag (p : Packet) (i : Nat) : Bool := p.raw.getLsbD i
def Packet.feed (p : Packet) : Bool := p.ty == 2 && p.flag 19
/-- The completion signal (R41): a SIGNAL packet has none (R48). -/
def Packet.signal (p : Packet) : Nat := if p.ty = 5 then 0 else p.fld 248 192
def Packet.deadline (p : Packet) : Nat := if p.ty = 1 then p.fld 423 384 else if p.ty = 2 then p.fld 487 448 else 0
/-- DEADLINE has passed (R40). -/
def Packet.late (p : Packet) (now : DWord) : Bool :=
  p.deadline != 0 && decide ((now.toNat % 2 ^ 40 + 2 ^ 40 - p.deadline) % 2 ^ 40 < 2 ^ 39)
/-- The launch names the domain (R48). -/
def Packet.names (p : Packet) (dom : Nat) : Bool :=
  (p.ty == 1 || p.ty == 2) && ((p.flag 17 && p.fld 43 32 == dom) || (p.flag 18 && p.fld 55 44 == dom))

/-- The event by which a packet starts. -/
def Packet.startEvent (p : Packet) : Instr :=
  match p.ty with
  | 1 => .launch
  | 2 => if p.feed then .tilelaunchFeed else .tilelaunch
  | 3 => .barrierAnd
  | 4 => .barrierOr
  | 5 => if p.flag 17 then .signalAdd else .signalStore
  | 6 => .estateClose
  | 7 => .copy
  | _ => .grammarBind

/-- The first packet that has not started. -/
def Queue.first (x : Queue) : Option Packet := x.packets.find? (fun p => p.stage == .consumed)

def Queue.putPacket (x : Queue) (p : Packet) : Queue := { x with packets := x.packets.map (fun y => if y.idx = p.idx then p else y) }
def State.putPacket (s : State) (x : Queue) (p : Packet) : State := s.modQueue x.fn x.q (fun y => y.putPacket p)
/-- Packets of one queue that have started and are not complete (R39). -/
def Queue.running (x : Queue) : Nat := (x.packets.filter (fun p => p.stage == .started)).length
def State.packet? (s : State) (fn q idx : Nat) : Option (Queue × Packet) :=
  (s.queue? fn q).bind (fun x => (x.packets.find? (fun p => p.idx == idx)).map (fun p => (x, p)))

/-- Steps of a queue that may be due: its next packet's consumption, start or expiry, its polls, and completions that waited. -/
def State.stirQueue (s : State) (x : Queue) : State :=
  let at_ : Input := { fn := x.fn, queue := x.q }
  let s := x.packets.foldl (fun (s : State) p =>
    let here : Input := { at_ with idx := p.idx }
    match p.stage with
    | .complete => s.dueOnce .packetComplete here
    | .consumed => if p.late s.dtime then s.dueOnce .packetDeadlineExpire here else s
    | .started =>
      if p.waits && (p.ty == 3 || p.ty == 4) then s.dueOnce .barrierDepPoll here
      else if p.waits && p.ty == 6 then s.dueOnce .estateClose at_
      else if p.waits && p.feed then s.dueOnce .tileCountPoll here
      else s) s
  let s := match x.first with
    | some p => if p.waits then s.dueOnce .tileCountPoll { at_ with idx := p.idx } else s.dueOnce p.startEvent at_
    | none => s
  let s := if x.enabling = .no then s else s.dueOnce .qcmdEnable { at_ with op := 1 }
  if (x.state == .idle || x.state == .active) && x.ridx < x.widx then s.dueOnce .packetConsume at_ else s

/-- Every queue that a partition serves is looked at. -/
def State.stirQueues (s : State) (part : Nat) : State :=
  (s.queues.filter (fun x => (s.func x.fn).part == part)).foldl State.stirQueue s

def State.stirQueueOf (s : State) (fn q : Nat) : State := match s.queue? fn q with | some x => s.stirQueue x | none => s

/-! ### The queue commands (R29 to R35, R54) -/

/-- A queue descriptor that passes R31. -/
def parseQDesc (raw : List Byte) : Option QDesc :=
  let v := leNat raw
  let d : QDesc := { qbase := bitsOf v 56 0, ridxAddr := bitsOf v 120 64, widxAddr := bitsOf v 184 128, qlog := bitsOf v 196 192,
                     pmax := bitsOf v 199 197, pasid := bitsOf v 219 200, pv := bitOf v 220, ie := bitOf v 221, vec := bitsOf v 232 222,
                     errSig := bitsOf v 312 256, trapAddr := bitsOf v 376 320 }
  let zero := bitsOf v 1023 377 == 0 && bitsOf v 319 313 == 0 && bitsOf v 255 237 == 0 && bitsOf v 191 185 == 0 && bitsOf v 127 121 == 0 &&
    bitsOf v 63 57 == 0
  if decide (6 ≤ d.qlog ∧ d.qlog ≤ 16) && bitsOf v 236 233 == 1 && zero && (d.pv || d.pasid == 0) && d.qbase % 4096 == 0 &&
      d.qbase % (64 * 2 ^ d.qlog) == 0 && d.ridxAddr % 8 == 0 && d.widxAddr % 8 == 0 && d.errSig % 8 == 0 && d.trapAddr % 128 == 0 then some d
  else none

/-- A read of the CP: bytes, a wait for a page or for an engine that owns a line, or failure (unreadable or poisoned, R31), with what its
checks found (R249, R250). -/
inductive CpRead where
  | ok (s : State) (bytes : List Byte)
  | wait (page : Option Nat)
  | fail (s : State)

def State.cpRead (s : State) (sp : Space) (part va n : Nat) : CpRead :=
  match s.readVa (cpView sp part) va n with
  | .miss p => .wait p
  | .fail _ => .fail (s.walkCheck (cpView sp part) va)
  | .ok (s', bytes) => if s.poisonVa (cpView sp part) va n then .fail (s'.checkVa (cpView sp part) va n) else .ok s' bytes

/-- The CP waits for a page, whose arrival lets every queue go on, or for an engine that owns a line (R321): the event is due again
when an operation has completed. -/
def State.cpWaits (s : State) (sp : Space) (page : Option Nat) (i : Instr) (inp : Input) : State :=
  match page with
  | some p => s.requestPages sp [p]
  | none => s.hold i inp

/-- ENABLE fails: the queue stays DISABLED with CAUSE BAD_QUEUE (R31). -/
def State.badQueue (s : State) (x : Queue) : State := s.modQueue x.fn x.q (fun x => { x with cause := 8, enabling := .no })

/-- ENABLE waits: STATE stays DISABLED (R31). Its next try is an event with op = 1, which finds nothing when the ENABLE has been
abandoned meanwhile. -/
def State.enableWaits (s : State) (x : Queue) (sp : Space) (page : Option Nat) (e : Enabling) : State :=
  (s.cpWaits sp page .qcmdEnable { fn := x.fn, queue := x.q, op := 1 }).modQueue x.fn x.q (fun x => { x with enabling := e })

/-- Packets that become available make an IDLE queue ACTIVE (R54). -/
def Queue.wake (x : Queue) : Queue := if x.state = .idle ∧ x.ridx < x.widx then { x with state := .active } else x

/-- A queue whose descriptor passes loads its indices and enters IDLE (R31). -/
def State.enableFrom (s : State) (x : Queue) (d : QDesc) : State :=
  let part := (s.func x.fn).part
  let sp := Queue.space { x with desc := d }
  match s.cpRead sp part d.ridxAddr 8 with
  | .fail s => s.badQueue x
  | .wait p => s.enableWaits x sp p (.indices d)
  | .ok s r =>
    match s.cpRead sp part d.widxAddr 8 with
    | .fail s => s.badQueue x
    | .wait p => s.enableWaits x sp p (.indices d)
    | .ok s w =>
      (s.modQueue x.fn x.q (fun x => Queue.wake { x with
        state := .idle, desc := d, ridx := leNat r, widx := leNat w, records := 0, enabling := .no, disabling := false, packets := [] })).stirQueueOf
          x.fn x.q

/-- ENABLE of a DISABLED queue (R31): the descriptor at an address is read, once and fresh (R30), and checked. -/
def State.enable (s : State) (x : Queue) (addr : Nat) : State :=
  let f := s.func x.fn
  let own : Space := { fn := x.fn, pv := false, pasid := 0 }
  if !f.assigned ∨ addr % 128 ≠ 0 then s.badQueue x
  else
    match s.cpAcquire.cpRead own f.part addr 128 with
    | .fail s => s.badQueue x
    | .wait p => s.enableWaits x own p (.descriptor addr)
    | .ok s raw =>
      match parseQDesc raw with
      | none => s.badQueue x
      | some d => s.enableFrom x d

/-- QCMD_ENABLE (R31): ignored in any state but DISABLED, while an ENABLE waits, and before the device is up (R406) and link 0
enumerated (R410). With op = 1 it is the next try of an ENABLE that waits. -/
def execQcmdEnable (s : State) : Host.Outcome State Fault Refusal :=
  s.onQueue fun s x =>
    match x.enabling, s.input.op with
    | .no, 0 => if x.state = .disabled ∧ s.power = .running ∧ (s.links[0]?).any (·.trained) then s.enable x x.qdescAddr.toNat else s
    | .descriptor a, 1 => s.enable x a
    | .indices d, 1 => s.enableFrom x d
    | _, _ => s

/-- A queue with nothing left comes to rest (R54): DISABLED when a DISABLE waits, else IDLE when no packet is available. -/
def Queue.settle (x : Queue) : Queue :=
  if (x.state == .idle || x.state == .active) && x.packets.isEmpty then
    if x.disabling then { x with state := .disabled, disabling := false }
    else if x.widx ≤ x.ridx then { x with state := .idle } else x
  else x

/-- QCMD_DISABLE (R54): a waiting ENABLE is abandoned (R31). -/
def execQcmdDisable (s : State) : Host.Outcome State Fault Refusal :=
  s.onQueue fun s x => s.modQueue x.fn x.q (fun x =>
    match x.state with
    | .idle | .active => Queue.settle { x with disabling := true }
    | .disabled => { x with enabling := .no }
    | .error => x)

/-- What the CP still does for a queue that is reset goes: its cards, the operations of its packets and records, its feeds, and its
ESTATE_CLOSE packets' waits for a close. -/
def State.dropQueueWork (s : State) (fn q : Nat) : State :=
  let mine (id : Nat) : Bool := s.launches.any (fun l => l.id == id && l.fn == fn && l.queue == q)
  let gone (o : Op) : Bool :=
    (match o.packet with | some (f, k, _) => f == fn && k == q | none => false) ||
    (match o.kind with | .trapRecord f k .. | .errSignal f k _ => f == fn && k == q | .post .. => mine o.launch | _ => false)
  let feeds := s.feeds.filter (fun f => f.fn == fn && f.queue == q)
  let s := { s with cards := s.cards.filter (fun e => !(e.2.fn == fn && e.2.queue == q)), ops := s.ops.filter (fun o => !gone o),
                    feeds := s.feeds.filter (fun f => !(f.fn == fn && f.queue == q)),
                    domains := s.domains.map (fun (e : Nat × Domain) =>
                      (e.1, { e.2 with closers := e.2.closers.filter (fun c => !(c.1 == fn && c.2.1 == q)) })) }
  feeds.foldl (fun s f => s.serveFeed f.part f.slot (s.feedWaiters f.part f.slot)) s

/-- QCMD_RESET (R54): the queue is DISABLED, its waves are halted without bequest, and each of its launches is over once the last of
them has retired. -/
def execQcmdReset (s : State) : Host.Outcome State Fault Refusal :=
  s.onQueue fun s x =>
    let s := s.modQueue x.fn x.q (fun x =>
      { x.clearSticky with state := .disabled, cause := 0, disabling := false, enabling := .no, packets := [] })
    if x.state = .disabled then s
    else
      let s := s.dropQueueWork x.fn x.q
      let s := { s with launches := s.launches.map (fun (l : Launch) =>
        if l.fn = x.fn ∧ l.queue = x.q then { l with broken := true, holds := [], released := [] } else l) }
      let s := s.haltAll ((s.waves.filter (fun w => w.fn == x.fn && w.queue == x.q)).map (·.uid))
      let s := ((s.launches.filter (fun l => l.fn == x.fn && l.queue == x.q)).map (·.id)).foldl State.launchCheck s
      (s.stirEstates (s.func x.fn).part).stirQueues (s.func x.fn).part

/-- QCMD_CLEAR (R35). -/
def execQcmdClear (s : State) : Host.Outcome State Fault Refusal :=
  s.onQueue fun s x => s.modQueue x.fn x.q Queue.clearSticky

/-- A store to the notify page (R33, R34). How far x lies ahead of ridx is taken modulo 2^64: an ENABLE may load a ridx above the
accepted index, and such an x is too far ahead, be it equal to the accepted index. DESIGN CHOICE (log 71). -/
def Queue.notified (x : Queue) (off size : Nat) (v : Nat) : Queue :=
  if 8 ≤ off ∨ size = 0 then x
  else if off ≠ 0 ∨ size ≠ 8 then { x with notifySize := true }
  else if v < x.widx then { x with notifyBack := true }
  else if 2 ^ x.desc.qlog < (v + 2 ^ 64 - x.ridx) % 2 ^ 64 then { x with notifyRange := true }
  else Queue.wake { x with widx := v }

/-- NOTIFY (R34). -/
def execNotify (s : State) : Host.Outcome State Fault Refusal :=
  s.onQueue fun s x =>
    (s.modQueue x.fn x.q (fun x => x.notified s.input.addr s.input.size s.input.value.toNat)).stirQueueOf x.fn x.q

/-- STATE as it reads (R34). -/
def QState.code : QState → Nat
  | .idle => 0
  | .active => 1
  | .error => 2
  | .disabled => 3

/-- The status word (R34). -/
def Queue.status (x : Queue) : DWord :=
  let bit (b : Bool) (i : Nat) : Nat := if b then 2 ^ i else 0
  let st := x.state.code
  BitVec.ofNat 64 (x.ridx % 2 ^ 32 * 2 ^ 32 + x.expIdx * 2 ^ 16 + x.cause * 2 ^ 8 + bit x.tileClamp 6 + bit x.expired 5 +
    bit x.notifyBack 4 + bit x.notifySize 3 + bit x.notifyRange 2 + st)

/-! ### Kernel descriptors (R15, R19) -/

/-- The address at a signed byte offset from a descriptor: one below 0 or from 2^64 on is reduced modulo 2^64 before R19 tests that
it is a multiple of 12. DESIGN CHOICE (log 72). -/
def descAddr (addr off : Nat) : DWord := BitVec.ofNat 64 addr + BitVec.ofInt 64 (signedOf off 48)

def allDistinct (l : List Nat) : Bool := (distinct l).length == l.length

/-- A kernel descriptor that passes R19. -/
def parseKDesc (addr : Nat) (raw : List Byte) : Option KDesc :=
  let v := leNat raw
  let beq := (List.range 32).map (fun j => bitsOf v (263 + 8 * j) (256 + 8 * j))
  let inh := (List.range 32).map (fun j => bitsOf v (519 + 8 * j) (512 + 8 * j))
  let d : KDesc :=
    { addr := addr, entry := descAddr addr (bitsOf v 47 0), step := BitVec.ofNat 8 (bitsOf v 55 48), gen := BitVec.ofNat 8 (bitsOf v 63 56),
      exp := bitOf v 94, dep := bitOf v 95, inld := bitsOf v 98 96, sema := bitsOf v 103 99, acc := bitsOf v 109 104, spad := bitsOf v 118 110,
      ewin := bitsOf v 121 119, wwin := bitsOf v 127 122, tv := bitOf v 176, trapEntry := descAddr addr (bitsOf v 175 128),
      ninh := bitsOf v 249 244, nbeq := bitsOf v 255 250, beqlist := beq, inhmap := inh, kid := BitVec.ofNat 64 (bitsOf v 831 768),
      mstk := bitsOf v 839 832 }
  let zero := bitsOf v 1023 840 == 0 && bitsOf v 243 177 == 0 && bitsOf v 93 64 == 0
  let used := inh.take d.ninh
  let named := used.filter (fun x => x != 0xFF)
  if d.gen == 3 && d.entry.toNat % 12 == 0 && (if d.tv then d.trapEntry.toNat % 12 == 0 else bitsOf v 175 128 == 0) && decide (d.wwin ≤ 32) &&
      decide (d.ewin ≤ 4) && decide (d.spad ≤ 256) && decide (d.acc ≤ 32) && decide (d.sema ≤ 16) && decide (d.inld ≤ 4) &&
      decide (d.mstk ≤ 32) && decide (d.nbeq ≤ 32) && decide (d.ninh ≤ 32) && allDistinct (beq.take d.nbeq) &&
      named.all (fun x => x < 8 * d.ewin) && allDistinct named && (beq.drop d.nbeq).all (fun x => x == 0) && (inh.drop d.ninh).all (fun x => x == 0) && zero
  then some d else none

/-! ### PACKET_CONSUME (R36 to R43, R47, R48, R50, R53) -/

/-- A number with the named fields (high and low bit) cleared. -/
def clearFields (v : Nat) : List (Nat × Nat) → Nat
  | [] => v
  | (hi, lo) :: r => clearFields (v - bitsOf v hi lo * 2 ^ lo) r

/-- The fields of each packet type; every other bit is reserved. -/
def packetFields (ty : Nat) : List (Nat × Nat) :=
  [(11, 0), (16, 16)] ++
  match ty with
  | 1 => [(18, 17), (55, 32), (120, 64), (184, 128), (248, 192), (295, 256), (359, 320), (423, 384), (450, 448), (503, 464)]
  | 2 => [(19, 17), (55, 32), (120, 64), (184, 128), (248, 192), (312, 256), (376, 320), (415, 384), (419, 416), (487, 448)]
  | 3 | 4 => [(120, 64), (184, 128), (248, 192), (312, 256), (376, 320), (440, 384)]
  | 5 => [(17, 17), (120, 64), (191, 128)]
  | 6 => [(43, 32), (248, 192)]
  | 7 => [(120, 64), (184, 128), (248, 192), (303, 256), (376, 320)]
  | _ => [(120, 64), (184, 128), (248, 192), (271, 256)]

/-- The dependencies of a barrier packet (R47): the ones named. -/
def Packet.deps (p : Packet) : List Nat :=
  [p.fld 120 64, p.fld 184 128, p.fld 312 256, p.fld 376 320, p.fld 440 384].filter (fun x => x != 0)

/-- Address fields with the alignment that each breaks or keeps. -/
def Packet.aligned (p : Packet) : Bool :=
  p.signal % 8 == 0 &&
  match p.ty with
  | 1 => p.fld 184 128 % 8 == 0 && p.fld 120 64 % 128 == 0
  | 2 => p.fld 184 128 % 8 == 0 && p.fld 120 64 % 128 == 0 && p.fld 312 256 % 16 == 0 && p.fld 376 320 % 8 == 0
  | 3 | 4 => p.deps.all (fun a => a % 8 == 0)
  | 5 => p.fld 120 64 % 8 == 0
  | 7 => p.fld 376 320 % 8 == 0
  | 8 => p.fld 120 64 % 64 == 0
  | _ => true

/-- A packet that meets R42, R43, R47 and R53. -/
def Packet.wellFormed (p : Packet) : Bool :=
  decide (1 ≤ p.ty ∧ p.ty ≤ 8) && clearFields p.raw.toNat (packetFields p.ty) == 0 && p.aligned &&
  (p.ty != 4 || !p.deps.isEmpty) && (!p.feed || p.fld 120 64 == 0)

/-- The packet names a kernel descriptor. -/
def Packet.hasKernel (p : Packet) : Bool := p.ty == 1 || (p.ty == 2 && !p.feed)

/-- The ring slot of packet i (R32). -/
def Queue.slotAddr (x : Queue) (i : Nat) : Nat := x.desc.qbase + 64 * (i % 2 ^ x.desc.qlog)

/-- A store of the CP (R38, R48): to its home, or out on a peer port (R405). -/
def State.cpStore (s : State) (fn : Nat) (g : Page) (bytes : List Byte) : State :=
  if isPeerPa g.pa then s.peerSend fn g.pa bytes false else s.homeRun g.pa bytes

/-- It waits for an engine that owns a line of it (R321). -/
def State.storeHeld (s : State) (g : Page) (n : Nat) : Bool := !isPeerPa g.pa && s.runHeld none g.pa n

/-- A checked packet is consumed (R38): V := 0, the read index published, and the packet waits to start. DEDUCED (log 45). -/
def State.consumed (s : State) (x : Queue) (p : Packet) : State :=
  let sp := x.space; let part := (s.func x.fn).part
  match s.page (cpView sp part) (x.slotAddr x.ridx) true, s.page (cpView sp part) x.desc.ridxAddr true with
  | .miss g, _ => s.cpWaits sp g .packetConsume s.input
  | _, .miss g => s.cpWaits sp g .packetConsume s.input
  | .fail _, _ => (s.walkCheck (cpView sp part) (x.slotAddr x.ridx)).queueError x.fn x.q 4
  | _, .fail _ => (s.walkCheck (cpView sp part) x.desc.ridxAddr).queueError x.fn x.q 4
  | .ok a, .ok b =>
    if s.storeHeld a 1 || s.storeHeld b 8 then s.hold .packetConsume s.input
    else
      let s := s.walked (cpView sp part) [x.slotAddr x.ridx, x.desc.ridxAddr]
      let s := s.cpStore x.fn a [BitVec.ofNat 8 (p.raw.toNat % 256 / 2 * 2)]
      let s := (s.cpStore x.fn b (toBytes 8 (x.ridx + 1))).cpRelease
      (s.modQueue x.fn x.q (fun x => { x with ridx := x.ridx + 1, packets := x.packets ++ [p] })).stirQueueOf x.fn x.q

/-- A packet with V = 1 is checked, its kernel descriptor with it (R19, R20). The CP reads the descriptor in one step: of a write that
races with its reading it sees all or nothing, where R20 allows old or new per doubleword. DESIGN CHOICE (log 73). -/
def State.checkPacket (s : State) (x : Queue) (raw : List Byte) : State :=
  let p : Packet := { idx := x.ridx, raw := BitVec.ofNat 512 (leNat raw), desc := none, stage := .consumed, expired := false,
                      startTime := 0, launch := 0, waits := false, fail := 0 }
  if !p.wellFormed then s.queueError x.fn x.q 1
  else if p.hasKernel then
    match s.cpRead x.space (s.func x.fn).part (p.fld 120 64) 128 with
    | .wait g => s.cpWaits x.space g .packetConsume s.input
    | .fail s => s.queueError x.fn x.q 2
    | .ok s d =>
      match parseKDesc (p.fld 120 64) d with
      | none => s.queueError x.fn x.q 2
      | some k => s.consumed x { p with desc := some k }
  else s.consumed x p

/-- PACKET_CONSUME (R38): the header is read with acquire at system scope; with V = 0 it is read again later. -/
def execPacketConsume (s : State) : Host.Outcome State Fault Refusal :=
  s.onQueue fun s x =>
    if (x.state = .idle ∨ x.state = .active) ∧ !x.disabling ∧ x.ridx < x.widx ∧ s.served x.fn then
      let part := (s.func x.fn).part; let a := x.slotAddr x.ridx
      match s.cpRead x.space part a 4 with
      | .wait g => s.cpWaits x.space g .packetConsume s.input
      | .fail s => s.queueError x.fn x.q 4
      | .ok s h =>
        let s := s.cpAcquire
        if (h.headD 0).getLsbD 0 then
          match s.cpRead x.space part a 64 with
          | .wait g => s.cpWaits x.space g .packetConsume s.input
          | .fail s => s.queueError x.fn x.q 4
          | .ok s raw => s.checkPacket x raw
        else s
    else s

/-! ### Starting (R39, R40) -/

/-- The packet can start (R39): first in turn, no barrier ahead, room among the 64, and its deadline not passed. -/
def Queue.canStart (x : Queue) (p : Packet) (now : DWord) : Bool :=
  (x.state == .idle || x.state == .active) && decide (x.running < 64) && !p.late now &&
  (!p.flag 8 || x.packets.head?.any (fun y => y.idx == p.idx)) &&
  !x.packets.any (fun y => decide (y.idx < p.idx) && (y.ty == 3 || y.ty == 4))

/-- A start event of a packet whose event it is. -/
def State.starting (s : State) (i : Instr) (f : State → Queue → Packet → State) : Host.Outcome State Fault Refusal :=
  s.onQueue fun s x =>
    match x.first with
    | some p => if s.served x.fn && p.startEvent == i && x.canStart p s.dtime then f s x p else s
    | none => s

/-- The packet starts. -/
def State.start (s : State) (x : Queue) (p : Packet) : State :=
  (s.putPacket x { p with stage := .started, startTime := s.dtime }).stirQueueOf x.fn x.q

/-- A launch that starts opens a CLOSED estate-out domain (R84), and is the heir of its open estate-in domain if it is the
first (R103). -/
def State.launchDomains (s : State) (part cx id : Nat) (ein eout : Option Nat) (keep heir residue : Bool) (timer : Nat) : State :=
  let s := match ein with
    | some d => if (s.domain part d).state = .open ∧ (s.domain part d).heir = none then s.putDomain part d { s.domain part d with heir := some id } else s
    | none => s
  match eout with
  | some d =>
    if (s.domain part d).state = .closed then
      s.putDomain part d { state := .open, keep := keep, closeOnHeir := heir, residue := residue, timer := timer, openTime := s.dtime, cx := cx,
                           heir := none, closers := [], remaining := [] }
    else s
  | none => s

/-- A launch of n waves begins (R44, R59): its packet has started. The instruction caches of the partition's cores are invalidated,
and code is fetched as it stands at system scope now (R115). -/
def State.beginLaunch (s : State) (x : Queue) (p : Packet) (k : KDesc) (items keyoff n : Nat) (tile : Option (Nat × Nat)) : State :=
  let f := s.func x.fn
  let ein := if p.flag 17 then some (p.fld 43 32) else none
  let eout := if p.flag 18 then some (p.fld 55 44) else none
  let whole := p.ty == 1
  let id := s.nextLaunch
  let l : Launch :=
    { id := id, fn := x.fn, queue := x.q, idx := p.idx, part := f.part, cx := f.ctx, space := x.space, desc := k, prio := min (p.fld 11 9) x.desc.pmax,
      start := s.dtime, args := BitVec.ofNat 64 (p.fld 184 128), items := items, keyoff := keyoff, ein := ein, eout := eout, tile := tile,
      nwaves := n, nextWave := 0, holds := [], released := [], blocked := [], stopAt := none, seen := 0, prevCluster := none, broken := false }
  let s := { (s.codeInvalidate f.part).cpAcquire with nextLaunch := id + 1, launches := s.launches ++ [l] }
  let s := s.launchDomains f.part f.ctx id ein eout (whole && p.flag 448) (whole && p.flag 449) (whole && p.flag 450) (if whole then p.fld 503 464 else 0)
  ((s.start x { p with launch := id, waits := p.feed }).dueOnce .placementPass { part := f.part }).launchCheck id

/-- LAUNCH (R44). -/
def execLaunch (s : State) : Host.Outcome State Fault Refusal :=
  s.starting .launch fun s x p =>
    match p.desc with
    | none => s
    | some k => s.beginLaunch x p k (p.fld 295 256) (p.fld 359 320) ((p.fld 295 256 + 63) / 64) none

/-! ### Tile launches and feeds (R49 to R53) -/

/-- The count word, read with acquire at system scope: COUNT and FINAL. -/
inductive CountRead where
  | ok (s : State) (count : Nat) (fin : Bool)
  | wait (page : Option Nat)
  | bad (s : State)

/-- R49 says that bits 62:32 are zero and gives no outcome when they are not: they are ignored. DESIGN CHOICE (log 74). -/
def State.readCount (s : State) (sp : Space) (part addr : Nat) : CountRead :=
  match s.cpRead sp part addr 8 with
  | .wait g => .wait g
  | .fail s => .bad s
  | .ok s b => .ok s.cpAcquire (bitsOf (leNat b) 31 0) (bitOf (leNat b) 63)

/-- COUNT was above MAXREC (R51). -/
def State.clampTile (s : State) (fn q count maxrec : Nat) : State :=
  if maxrec < count then s.modQueue fn q (fun x => { x with tileClamp := true }) else s

/-- A TILELAUNCH in turn reads its count word: with FINAL = 1 it starts, else it polls (R51). -/
def State.tryTile (s : State) (x : Queue) (p : Packet) : State :=
  match p.desc, s.readCount x.space (s.func x.fn).part (p.fld 376 320) with
  | none, _ => s
  | some _, .wait g => (s.cpWaits x.space g .tileCountPoll { fn := x.fn, queue := x.q, idx := p.idx }).putPacket x { p with waits := true }
  | some _, .bad s => (s.putPacket x { p with waits := true }).queueError x.fn x.q 7
  | some k, .ok s count fin =>
    if fin then
      let c := min count (p.fld 415 384)
      let n := (c + 1) / 2
      (s.clampTile x.fn x.q count (p.fld 415 384)).beginLaunch x p k (64 * n) 0 n (some (p.fld 312 256, c))
    else s.putPacket x { p with waits := true }

/-- TILELAUNCH (R51). -/
def execTilelaunch (s : State) : Host.Outcome State Fault Refusal := s.starting .tilelaunch State.tryTile

/-- The kernel of a launch that creates no waves. -/
def KDesc.empty : KDesc :=
  { addr := 0, entry := 0, step := 0, gen := 0, exp := false, dep := false, inld := 0, sema := 0, acc := 0, spad := 0, ewin := 0, wwin := 0,
    tv := false, trapEntry := 0, ninh := 0, nbeq := 0, beqlist := [], inhmap := [], kid := 0, mstk := 0 }

/-- TILELAUNCH_FEED (R53): bound once an earlier feed of the slot has completed, until when it has not started. A completed feed stays
bound until then: its slot answers DONE (R205). It begins as every launch does (R84, R103, R115), and has no waves that could still
retire. DESIGN CHOICE (log 85). -/
def execTilelaunchFeed (s : State) : Host.Outcome State Fault Refusal :=
  s.starting .tilelaunchFeed fun s x p =>
    let part := (s.func x.fn).part; let slot := p.fld 419 416
    if (s.feed? part slot).any (fun f => (s.launch? f.launch).isSome) then s
    else
      let f : Feed := { part := part, slot := slot, fn := x.fn, queue := x.q, idx := p.idx, launch := s.nextLaunch, list := p.fld 312 256, countAddr := p.fld 376 320,
                        maxrec := p.fld 415 384, next := 0, count := 0, final := false, bad := false, space := x.space }
      { s with feeds := s.feeds.filter (fun (g : Feed) => !(g.part == part && g.slot == slot)) ++ [f] }.beginLaunch x p KDesc.empty 0 0 0 none

/-- A bound feed's count word is read again (R53), and waiting `tnext`s take what it allows. -/
def State.pollFeed (s : State) (x : Queue) (f : Feed) : State :=
  if f.final ∨ f.bad then s.serveFeed f.part f.slot (s.feedWaiters f.part f.slot)
  else
    match s.readCount f.space f.part f.countAddr with
    | .wait g => s.cpWaits f.space g .tileCountPoll { fn := x.fn, queue := x.q, idx := f.idx }
    | .bad s =>
      let s := (s.putFeed { f with bad := true }).queueError f.fn f.queue 7
      s.serveFeed f.part f.slot (s.feedWaiters f.part f.slot)
    | .ok s count fin =>
      let f' : Feed := { f with count := count, final := fin }
      let s := (s.clampTile f.fn f.queue count f.maxrec).putFeed f'
      let s := if f'.finished then s.launchCheck f.launch else s
      s.serveFeed f.part f.slot (s.feedWaiters f.part f.slot)

/-- TILE_COUNT_POLL (R51, R53). -/
def execTileCountPoll (s : State) : Host.Outcome State Fault Refusal :=
  s.onQueue fun s x =>
    match x.packets.find? (fun p => p.idx == s.input.idx) with
    | none => s
    | some p =>
      if !s.served x.fn ∨ p.ty ≠ 2 then s
      else if p.feed then
        match s.feeds.find? (fun f => f.fn == x.fn && f.queue == x.q && f.idx == p.idx && f.slot == p.fld 419 416) with
        | some f => s.pollFeed x f
        | none => s
      else if p.waits ∧ p.stage = .consumed ∧ x.canStart p s.dtime then s.tryTile x p
      else s

/-! ### Barriers, signals, ESTATE_CLOSE, COPY, GRAMMAR_BIND (R47, R48) -/

/-- How a dependency stands: satisfied or not, awaiting a page or an engine, or unreadable. -/
inductive Dep where
  | met (b : Bool)
  | wait (page : Option Nat)
  | bad
deriving DecidableEq, Repr

/-- Every dependency is read. -/
def State.readDeps (s : State) (sp : Space) (part : Nat) : List Nat → State × List Dep
  | [] => (s, [])
  | a :: r =>
    match s.cpRead sp part a 8 with
    | .wait g =>
      let (s, ds) := s.readDeps sp part r
      (s, .wait g :: ds)
    | .fail s =>
      let (s, ds) := s.readDeps sp part r
      (s, .bad :: ds)
    | .ok s b =>
      let (s, ds) := s.cpAcquire.readDeps sp part r
      (s, .met (decide (leNat b = 0) || bitOf (leNat b) 63) :: ds)

/-- A barrier packet's condition holds (R47). One satisfied dependency is enough for BARRIER_OR, whatever the CP finds at the
others. DEDUCED (log 75). -/
def depsHold (ty : Nat) (ds : List Dep) : Bool := if ty = 3 then ds.all (fun d => d == .met true) else ds.contains (.met true)

/-- A barrier starts, and polls. -/
def execBarrierAnd (s : State) : Host.Outcome State Fault Refusal :=
  s.starting .barrierAnd fun s x p => s.start x { p with waits := true }
def execBarrierOr (s : State) : Host.Outcome State Fault Refusal :=
  s.starting .barrierOr fun s x p => s.start x { p with waits := true }

/-- BARRIER_DEP_POLL (R47): the packet's work is done once its condition holds. -/
def execBarrierDepPoll (s : State) : Host.Outcome State Fault Refusal :=
  s.onQueue fun s x =>
    match x.packets.find? (fun p => p.idx == s.input.idx) with
    | none => s
    | some p =>
      if s.served x.fn && p.stage == .started && (p.ty == 3 || p.ty == 4) then
        let (s, ds) := s.readDeps x.space (s.func x.fn).part p.deps
        if depsHold p.ty ds then s.workDone x.fn x.q p.idx
        else if ds.contains .bad then s.queueError x.fn x.q 5
        else ds.foldl (fun s d => match d with | .wait g => s.cpWaits x.space g .barrierDepPoll s.input | _ => s) s
      else s

/-- What the checks find on the way to a signal whose update fails: along the walk, and in a poisoned line (R249, R250). -/
def State.targetFound (s : State) (x : Queue) (va : Nat) : State := s.checkVa (cpView x.space (s.func x.fn).part) va 8

/-- A SIGNAL packet acts on its target (R48): a release at system scope. One that cannot be made gives SIGNAL_FAULT: an atomic on a
peer (R405), or on a poisoned line. One whose page is awaited has not started. DESIGN CHOICE (log 76). -/
def State.signalTarget (s : State) (x : Queue) (p : Packet) (ev : Instr) (atomic : Bool) (act : State → Page → State) : State :=
  match s.page (cpView x.space (s.func x.fn).part) (p.fld 120 64) true with
  | .miss g => s.cpWaits x.space g ev s.input
  | .fail _ => ((s.targetFound x (p.fld 120 64)).start x { p with fail := 5 }).workDone x.fn x.q p.idx
  | .ok g =>
    if atomic && (isPeerPa g.pa || s.lineBad (g.pa / 128)) then
      ((s.targetFound x (p.fld 120 64)).start x { p with fail := 5 }).workDone x.fn x.q p.idx
    else if s.storeHeld g 8 then s.hold ev s.input
    else ((act (s.walkCheck (cpView x.space (s.func x.fn).part) (p.fld 120 64)) g).start x p).workDone x.fn x.q p.idx

def execSignalStore (s : State) : Host.Outcome State Fault Refusal :=
  s.starting .signalStore fun s x p =>
    s.signalTarget x p .signalStore false (fun s g =>
      ((if isPeerPa g.pa then s else (s.homeLoad g.pa 8).1).cpStore x.fn g (toBytes 8 (p.fld 191 128))).cpRelease)
def execSignalAdd (s : State) : Host.Outcome State Fault Refusal :=
  s.starting .signalAdd fun s x p => s.signalTarget x p .signalAdd true (fun s g => s.cpAdd g.pa (p.fld 191 128))

/-- An earlier launch of the queue that names the domain has not retired yet (R48). -/
def State.earlierNames (s : State) (x : Queue) (p : Packet) (dom : Nat) : Bool :=
  x.packets.any (fun y => decide (y.idx < p.idx) && y.names dom && y.stage != .complete &&
    (match s.launch? y.launch with
     | some l => y.stage == .consumed || !l.created ||
         s.waves.any (fun w => w.launch == l.id) || s.cards.any (fun c => c.2.launch == l.id)
     | none => true))

/-- An ESTATE_CLOSE that has started goes on, once the launches that it waits for have retired. -/
def State.closeFor (s : State) (x : Queue) (p : Packet) : State :=
  let part := (s.func x.fn).part; let dom := p.fld 43 32
  if s.earlierNames x p dom then s
  else
    let s := s.putPacket x { p with waits := false }
    match (s.domain part dom).state with
    | .closed => s.workDone x.fn x.q p.idx
    | _ =>
      let s := s.beginClose part dom 1
      let d := s.domain part dom
      s.putDomain part dom { d with closers := d.closers ++ [(x.fn, x.q, p.idx)] }

/-- ESTATE_CLOSE (R48): a start in turn, and every one that waits is looked at. -/
def execEstateClose (s : State) : Host.Outcome State Fault Refusal :=
  s.onQueue fun s x =>
    let s := match x.first with
      | some p => if s.served x.fn && p.ty == 6 && x.canStart p s.dtime then s.start x { p with waits := true } else s
      | none => s
    match s.queue? x.fn x.q with
    | none => s
    | some y =>
      if s.served x.fn then
        (y.packets.filter (fun p => p.stage == .started && p.ty == 6 && p.waits)).foldl (fun s p => s.closeFor y p) s
      else s

/-- An operation of the CP for a packet. -/
def State.packetOp (s : State) (x : Queue) (p : Packet) (kind : OpKind) (taken : Taken) (pins : List Pin) : State :=
  let f := s.func x.fn
  let o : Op := { id := s.nextOp, uid := 0, core := 0, cx := f.ctx, part := f.part, launch := 0, space := x.space, cls := none, pipeA := false,
                  kind := kind, done := .none, packet := some (x.fn, x.q, p.idx), owned := taken.owned, dropped := false, waits := [], rows := [],
                  pc := 0, pins := pins, refused := [], moved := [], spads := [] }
  let s' := ({ s with nextOp := s.nextOp + 1, ops := s.ops ++ [o] } : State).onPorts taken.ports s.nextOp
  (s'.dueOnce kind.event { op := s.nextOp, core := 192 * f.ctx }).start x p

/-- COPY (R48): the engine owns its destination lines from the start (R321). -/
def execCopy (s : State) : Host.Outcome State Fault Refusal :=
  s.starting .copy fun s x p =>
    let d := p.fld 184 128; let a := p.fld 120 64; let len := p.fld 303 256; let part := (s.func x.fn).part
    let v := s.packetView x.space part
    let taken := s.copyTaken { pins := [], spads := [], view := v, wave := none, dsp := false, ssp := false } d a len
    s.packetOp x p (.copy d a len false false) taken (s.pinsOf v (pagesOf d len ++ pagesOf a len))

/-- GRAMMAR_BIND (R48): a `gbind` of the CP. -/
def execGrammarBind (s : State) : Host.Outcome State Fault Refusal :=
  s.starting .grammarBind fun s x p =>
    let j : BrambleJob := { fn := .gbind, lane := 0, ctx := p.fld 120 64, arg := p.fld 184 128, imm := p.fld 271 256 }
    let v := s.packetView x.space (s.func x.fn).part
    let (s, jobs) := s.gAsk v [j]
    s.packetOp x p (.bramble none jobs false []) { owned := distinct (jobs.flatMap (s.gOwned v)), spads := [], ports := distinct (jobs.flatMap (s.gPorts v)) } []

/-! ### Deadlines and completion (R40, R41) -/

/-- PACKET_DEADLINE_EXPIRE (R40). -/
def execPacketDeadlineExpire (s : State) : Host.Outcome State Fault Refusal :=
  s.onQueue fun s x =>
    match x.packets.find? (fun p => p.idx == s.input.idx) with
    | none => s
    | some p =>
      if p.stage = .consumed ∧ p.late s.dtime ∧ s.served x.fn then
        ((s.putPacket x { p with stage := .complete, expired := true, waits := false }).modQueue x.fn x.q
          (fun x => { x with expired := true, expIdx := p.idx % 2 ^ 16 })).stirQueueOf x.fn x.q
      else s

/-- A complete packet leaves the queue: IRQ, the error that it carries, and what waited for it. -/
def State.packetGone (s : State) (x : Queue) (p : Packet) : State :=
  let s := if p.flag 16 ∧ x.desc.ie then { s with msix := (x.fn, x.desc.vec) :: s.msix } else s
  let s := s.modQueue x.fn x.q (fun x => { x with packets := x.packets.filter (fun y => y.idx != p.idx) })
  let s := if p.fail = 0 then s else s.queueError x.fn x.q p.fail
  (s.modQueue x.fn x.q Queue.settle).stirQueues (s.func x.fn).part

/-- PACKET_COMPLETE (R41): the completion signal falls by one, or its update fails with SIGNAL_FAULT. A launch whose memory effects were
held up (R321) is looked at again. -/
def execPacketComplete (s : State) : Host.Outcome State Fault Refusal :=
  s.onQueue fun s x =>
    match x.packets.find? (fun p => p.idx == s.input.idx) with
    | none => s
    | some p =>
      if p.stage ≠ .complete then
        s.launchFinish p.launch
      else
        let s := s.cpRelease
        if p.signal = 0 then s.packetGone x p
        else
          match s.page (cpView x.space (s.func x.fn).part) p.signal true with
          | .miss g => s.cpWaits x.space g .packetComplete s.input
          | .fail _ => ((s.targetFound x p.signal).queueError x.fn x.q 5).packetGone x p
          | .ok g =>
            if isPeerPa g.pa || s.lineBad (g.pa / 128) then ((s.targetFound x p.signal).queueError x.fn x.q 5).packetGone x p
            else if s.runHeld none g.pa 8 then s.hold .packetComplete s.input
            else ((s.walkCheck (cpView x.space (s.func x.fn).part) p.signal).cpAdd g.pa (2 ^ 64 - 1)).packetGone x p

end Sys2Proof.Machine
end

