-- ==== Sys2Proof/Machine/Matrix.lean ====
section
/-! DEFINITION. The matrix engine (R282 to R304): B slots and their loads, quarters, passes and sums, tiles, batches. -/

namespace Sys2Proof.Machine

/-! ### B slots (R282, R283) -/

def emptySlot : BSlot := { state := .empty, ty := 0, tag := none, cols := [], side := [], held := none, reload := false }
def State.slot (s : State) (cc n : Nat) : BSlot := kvGet emptySlot s.bslots (cc * 2048 + n)
def State.putSlot (s : State) (cc n : Nat) (x : BSlot) : State := { s with bslots := kvPut emptySlot s.bslots (cc * 2048 + n) x }

/-- Kg of a B type (R282); 0 for a type that is none. -/
def groupK (ty : Nat) : Nat := match ty with | 7 | 8 | 5 | 6 => 32 | 3 | 4 => 16 | 2 => 8 | 11 => 64 | _ => 0

/-- Bits of an element in a slot. -/
def slotBits (ty : Nat) : Nat := if ty = 11 then 4 else tyBits ty

/-- The exact value of an element code of a type. -/
def elemVal (ty code : Nat) : FVal := if tyInt ty then intVal (laneInt ty (BitVec.ofNat 32 code)) else laneFloat ty (BitVec.ofNat 32 code)

/-- The exact value of a q4n code under its block scale and super-scale (R178). -/
def q4nExact (code : Nat) (u : Byte) (f : Word) : FVal := (((q4nVal code).mul (fmtUe5m3.decode u.toNat)).1.mul (fmtF32.decode f.toNat)).1

/-- Element k of column j of a slot read as a B type; an EMPTY slot reads zeros. -/
def BSlot.elem (x : BSlot) (ty j k : Nat) : FVal :=
  match x.cols[j]? with
  | none => .fin false 0 0 false
  | some c =>
    let code := (c.toNat >>> (slotBits ty * k)) % 2 ^ slotBits ty
    if ty = 11 then q4nExact code (x.side.getD j (0, 0)).1 (x.side.getD j (0, 0)).2 else elemVal ty code

/-! ### Sums (R288, R289) -/

/-- The exact sum S of the products taken: +0 when it is zero. -/
def groupSum (prods : List FVal) : FVal :=
  let t := prods.foldl (fun acc p => (acc.add .rne p).1) (.fin false 0 0 false)
  if t.isZero then .fin false 0 0 false else t

/-- An exact sum of integers as an integer. -/
def FVal.toExact : FVal → Int
  | .fin a m e _ => (if a then -1 else 1) * (shiftBy m e : Nat)
  | _ => 0

/-- One step of an accumulator. -/
def accStep (acct : Nat) (acc : Word) (sum : FVal) : Word :=
  if acct = 0 then acc + BitVec.ofInt 32 sum.toExact
  else BitVec.ofNat 32 (fmtF32.round .rne false ((fmtF32.decode acc.toNat).add .rne sum).1).1

def tileKey (cc tile row col : Nat) : Nat := ((cc * 256 + tile) * 8 + row) * 128 + col
def State.acc (s : State) (cc tile row col : Nat) : Word := kvGet 0 s.tiles (tileKey cc tile row col)
def State.putAcc (s : State) (cc tile row col : Nat) (v : Word) : State := { s with tiles := kvPut 0 s.tiles (tileKey cc tile row col) v }

/-- Products of a row with a column: those of the positions taken. -/
def rowProducts (x : BSlot) (aty bty j : Nat) (codes : List Nat) (taken : List Bool) : List FVal :=
  ((codes.zip taken).zipIdx).filterMap (fun e => if e.1.2 then some ((elemVal aty e.1.1).mul (x.elem bty j e.2)).1 else none)

/-- A quarter is applied to its tile; it reads its slot now (R284). -/
def State.applyQuarter (s : State) (q : Quarter) : State :=
  let x := s.slot q.cc q.slot
  q.rows.foldl (fun s r =>
    let taken := ((q.taken.find? (fun t => t.1 == r.1)).map Prod.snd).getD []
    (List.range 128).foldl (fun s j =>
      s.putAcc q.cc q.tile r.1 j (accStep q.acct (s.acc q.cc q.tile r.1 j) (groupSum (rowProducts x q.aty q.bty j r.2 taken)))) s) s

/-! ### The order on tiles and slots (R284, R290) -/

/-- Tiles of its core that an operation acts on itself. -/
def Op.coversTile (o : Op) (tile : Nat) : Bool :=
  match o.kind with
  | .accrd _ t .. => t == tile
  | _ => o.writesTile tile

/-- An operation issued before `id` acts on the tile and has not completed. -/
def State.tileHeld (s : State) (cc id tile : Nat) : Bool :=
  s.ops.any (fun o => o.id < id && 192 * o.cx + o.core == cc && o.coversTile tile)

/-- A quarter issued before `id` has still to be applied to the tile. -/
def State.tileAwaited (s : State) (cc id tile : Nat) : Bool :=
  s.allQuarters.any (fun q => q.opId < id && q.cc == cc && q.tile == tile)

def Op.coversSlot (o : Op) (slot : Nat) : Bool :=
  match o.kind with
  | .bload n _ _ => n == slot
  | .walk w => w.slotBase ≤ slot && slot < w.slotBase + w.slotN
  | _ => false

/-- A load issued as `id` may write the slot: every earlier quarter on it has run, every earlier load is done. -/
def State.slotFree (s : State) (cc id slot : Nat) : Bool :=
  !s.allQuarters.any (fun q => q.opId < id && q.cc == cc && q.slot == slot) &&
  !s.ops.any (fun o => o.id < id && 192 * o.cx + o.core == cc && o.coversSlot slot)

/-- A slot is being reloaded (R297). -/
def State.reloading (s : State) (cc slot : Nat) : Bool := (s.slot cc slot).reload

/-- A slot holds an `mmq` back at issue (R283): a load writes it, or a running walk names it. -/
def State.slotLoading (s : State) (cc slot : Nat) : Bool :=
  (s.slot cc slot).state == .loading ||
  s.ops.any (fun o => 192 * o.cx + o.core == cc && (match o.kind with | .walk _ => o.coversSlot slot | _ => false))

/-! ### Passes (R80, R290) -/

/-- A pass is formed around the oldest quarter that may go, its slot not being reloaded (R297): the pass, and the quarters left.
DESIGN CHOICE (log 34). -/
def State.formPass (s : State) (cc : Nat) : List Quarter × List Quarter :=
  let r := s.quarters.foldl (fun (acc : List Quarter × List Quarter × List Nat) q =>
    let (pass, rest, tiles) := acc
    if q.cc ≠ cc then (pass, rest ++ [q], tiles)
    else
      let blocked := tiles.contains q.tile || s.tileHeld cc q.opId q.tile || s.reloading cc q.slot
      let fits := match pass with | [] => true | h :: _ => q.slot == h.slot && q.aty == h.aty && q.sp == h.sp && pass.length < 16
      if !blocked && fits then (pass ++ [q], rest, q.tile :: tiles) else (pass, rest ++ [q], q.tile :: tiles)) ([], [], [])
  (r.1, r.2.1)

/-- MATRIX_PASS_DEPART: the forming pass leaves for the array. -/
def execMatrixPassDepart (s : State) : Host.Outcome State Fault Refusal :=
  .next (
    let cc := s.input.core
    match s.formPass cc with
    | ([], _) => s
    | (pass, rest) =>
      let s := { s with quarters := rest, passes := s.passes ++ [(cc, pass)] }
      let s := s.dueOnce .matrixPassDone { core := cc }
      if rest.any (fun q => q.cc == cc) then s.dueOnce .matrixPassDepart { core := cc } else s)

/-- The quarters of an operation have all been applied: an `mmq` completes, a walk goes on. -/
def State.quartersDone (s : State) (id : Nat) : State :=
  if s.allQuarters.any (fun q => q.opId == id) then s
  else
    match s.op? id with
    | none => s
    | some o =>
      match o.kind with
      | .mmq => s.finishOp o
      | .walk _ => s.dueOnce .walkBLoadDone { op := id, core := 192 * o.cx + o.core }
      | _ => s

/-- The first pass of a core among those in the array, and the others. -/
def takePass (cc : Nat) : List (Nat × List Quarter) → List Quarter × List (Nat × List Quarter)
  | [] => ([], [])
  | p :: r => if p.1 = cc then (p.2, r) else let (x, y) := takePass cc r; (x, p :: y)

/-- MATRIX_PASS_DONE: the core's oldest pass in the array finishes, and each of its quarters is applied. -/
def execMatrixPassDone (s : State) : Host.Outcome State Fault Refusal :=
  .next (
    let cc := s.input.core
    let (pass, rest) := takePass cc s.passes
    if pass = [] then s
    else
      let s := pass.foldl State.applyQuarter { s with passes := rest }
      let s := (distinct (pass.map (·.opId))).foldl State.quartersDone s
      let s := ((List.range 16).filter (fun n => (s.part n).switching.isSome)).foldl (fun s n => s.dueOnce .contextHaltDone { part := n }) s
      (if s.passes.any (fun p => p.1 == cc) then s.dueOnce .matrixPassDone { core := cc } else s).stirMatrix cc)

/-! ### mmq (R286, R287, R299) -/

def is8Int (t : Nat) : Bool := t == 7 || t == 8
def is8Float (t : Nat) : Bool := t == 5 || t == 6

/-- The combinations of R286: Kg and the number of A registers. -/
def combination (a b : Nat) (sp : Bool) (acct : Nat) : Option (Nat × Nat) :=
  let n := if sp then 5 else 8
  if is8Int a && is8Int b && (acct == 0 || acct == 2) then some (32, n)
  else if acct != 2 then none
  else if is8Float a && is8Float b then some (32, n)
  else if (is8Int a || is8Float a) && b == 11 && !sp then some (64, 16)
  else if (a == 3 && b == 3) || (a == 4 && b == 4) then some (16, n)
  else if a == 2 && b == 2 && !sp then some (8, 8)
  else none

/-- Element codes of `size` bytes each. -/
def codesOf (size : Nat) : Nat → List Byte → List Nat
  | 0, _ => []
  | n + 1, bs => leNat (bs.take size) :: codesOf size n (bs.drop size)

/-- The bytes of a lane's row in n registers from r (R287). -/
def rowBytes (rd : Nat → VReg) (r n l : Nat) : List Byte := (runFrom r n).flatMap (fun i => toBytes 4 (laneOf (rd i) l).toNat)

/-- p0 and p1 of group g of a metadata word. -/
def metaPos (m g : Nat) : Nat × Nat := (bitsOf m (4 * g + 1) (4 * g), bitsOf m (4 * g + 3) (4 * g + 2))

/-- The metadata of a lane is legal. -/
def metaOk (kg m : Nat) : Bool :=
  (List.range (kg / 4)).all (fun g => decide ((metaPos m g).1 < (metaPos m g).2)) && (kg != 16 || m / 2 ^ 16 == 0)

/-- The expanded row of sparse kept values, and which positions hold one. -/
def expandRow (kg : Nat) (kept : List Nat) (m : Nat) : List Nat × List Bool :=
  let at_ (k : Nat) : Option Nat :=
    let g := k / 4; let p := metaPos m g
    if k % 4 = p.1 then kept[2 * g]? else if k % 4 = p.2 then kept[2 * g + 1]? else none
  ((List.range kg).map (fun k => (at_ k).getD 0), (List.range kg).map (fun k => (at_ k).isSome))

/-- A lane's row: its codes, and the positions whose products are taken. -/
def laneRow (rd : Nat → VReg) (va aty kg : Nat) (sp : Bool) (l : Nat) : List Nat × List Bool :=
  let size := tyBits aty / 8
  if sp then expandRow kg (codesOf size (kg / 2) (rowBytes rd va 4 l)) (laneOf (rd (va + 4)) l).toNat
  else (codesOf size kg (rowBytes rd va (kg * size / 4) l), List.replicate kg true)

/-- The lanes of quarter q among the active ones. -/
def quarterLanes (act : LaneMask) (q : Nat) : List Nat := (lanesOf act).filter (fun l => l / 8 == q)

/-- What the checks of an active quarter give. -/
inductive QuarterCheck where
  | ok
  | trap (t : Trap)
  | stall

/-- The checks of one active quarter (R299, check 3; R283). -/
def State.checkQuarter (s : State) (w : Wave) (p : TF) (rd : Nat → VReg) (kg : Nat) (sp : Bool) (q : Nat) (lanes : List Nat) : QuarterCheck :=
  let n := (laneOf (rd p.tb.toNat) (lanes.headD 0)).toNat
  if w.foot.acc ≤ p.tc.toNat + q ∨ 2048 ≤ n then .trap { cause := 0x0A }
  else if s.slotLoading w.cc n then .stall
  else
    let x := s.slot w.cc n
    if x.state ≠ .empty ∧ x.ty ≠ p.btype.toNat then .trap matrixCombination
    else
      match x.state with
      | .failed c => .trap { cause := c }
      | .poisoned va => .trap { cause := 0x0C, addr := BitVec.ofNat 64 va, classed := true }
      | _ => if sp && !lanes.all (fun l => metaOk kg (laneOf (rd (p.ta.toNat + 4)) l).toNat) then .trap matrixCombination else .ok

/-- The checks of the active quarters in ascending order. -/
def firstBad : List QuarterCheck → QuarterCheck
  | [] => .ok
  | .ok :: r => firstBad r
  | x :: _ => x

def Wave.acct (w : Wave) : Nat := bitsOf w.fmt.toNat 11 8
def Wave.fmtRnd (w : Wave) : Nat := bitsOf w.fmt.toNat 14 12
def Wave.fmtSat (w : Wave) : Bool := w.fmt.getLsbD 15

/-- A matrix operation counts as open until the next `mfence` (R292). -/
def State.openOp (s : State) (uid id : Nat) : State := s.modWave uid (fun w => { w with openOps := w.openOps ++ [id] })

def State.mmq (s : State) (w : Wave) (p : TF) (sp : Bool) : State :=
  match combination p.ty.toNat p.btype.toNat sp w.acct with
  | none => s.takeTrap w matrixCombination
  | some (kg, regs) =>
    if 256 < p.ta.toNat + regs then s.takeTrap w illegalEncoding
    else
      let act := w.active p.km.toNat
      if act = 0 then s.advanceWave w.uid 3 false .A
      else
        let srcs := p.tb.toNat :: runFrom p.ta.toNat regs
        match s.spillTrap w srcs [] with
        | some t => s.takeTrap w t
        | none =>
          let rd := s.readV w
          let qs := (List.range 8).filterMap (fun q => match quarterLanes act q with | [] => none | ls => some (q, ls))
          match firstBad (qs.map (fun e => s.checkQuarter w p rd kg sp e.1 e.2)) with
          | .trap t => s.takeTrap w t
          | .stall => s.stall w
          | .ok =>
            if 128 < (s.quarters.filter (fun q => q.cc == w.cc)).length + qs.length then s.stall w
            else
              let id := s.nextOp
              let quarters : List Quarter := qs.map (fun e =>
                { opId := id, uid := w.uid, cc := w.cc, slot := (laneOf (rd p.tb.toNat) (e.2.headD 0)).toNat,
                  tile := w.accBase + p.tc.toNat + e.1, aty := p.ty.toNat, bty := p.btype.toNat, sp := sp, acct := w.acct,
                  rows := e.2.map (fun l => (l % 8, (laneRow rd p.ta.toNat p.ty.toNat kg sp l).1)),
                  taken := e.2.map (fun l => (l % 8, (laneRow rd p.ta.toNat p.ty.toNat kg sp l).2)) })
              let s := (s.spillRead w (distinct srcs)).issueOp w (some .MM) true .mmq .none []
              (({ s with quarters := s.quarters ++ quarters }.openOp w.uid id).sealWave w.uid).advanceWave w.uid 3 false .A

/-- A T form whose type is emulated goes to the firmware (R125). -/
def emulatedT (p : TF) : Bool := emulated p.ty || emulated p.btype

def execMmq (p : TF) (s : State) : Host.Outcome State Fault Refusal :=
  s.onWave fun w => if emulatedT p then s.parkEmulateOn w (.mmq p) 3 false .A else s.mmq w p false
def execMmqSp (p : TF) (s : State) : Host.Outcome State Fault Refusal :=
  s.onWave fun w => if emulatedT p then s.parkEmulateOn w (.mmqSp p) 3 false .A else s.mmq w p true

/-! ### Loads of B slots (R300) -/

/-- Where a slot's load reads. -/
structure SlotJob where
  pins : List Pin
  view : View
  wave : Option Wave
  lay : Layout
  coords : List Int

/-- The addresses of an element: its bytes, or for q4n its code byte, its block scale and its super-scale (R177), each mod 2^64
(R236, R242). -/
def Layout.reads (r : Layout) (xs : List Int) : List (Nat × Nat) :=
  let a := r.address xs
  if r.ty = 11 then
    let e := (xs.getD 0 0).toNat
    let sb := a + 8576 * (e / 16384); let blk := e % 16384 / 64
    [((sb + 32 * blk + e % 64 / 2) % 2 ^ 64, 1), ((sb + 8192 + blk) % 2 ^ 64, 1), ((sb + 8448) % 2 ^ 64, 4)]
  else [(a, elemBytes r.ty)]

/-- Pages of an element's reads. -/
inductive ElemSpots where
  | ok (spots : List (Spot × Nat × Nat))
  | wait (page : Option Nat)
  | fail (cause : Nat)

def State.elemSpots (s : State) (pins : List Pin) (v : View) (w : Option Wave) (inSpad : Bool) : List (Nat × Nat) → ElemSpots
  | [] => .ok []
  | (a, n) :: r =>
    match s.spot pins [] v w inSpad a false with
    | .wait p => .wait p
    | .fail c => .fail c
    | .ok x =>
      match s.elemSpots pins v w inSpad r with
      | .ok l => .ok ((x, n, a) :: l)
      | e => e

/-- The elements of a box up to a stop: each with its spots, none for a clipped element. -/
inductive BoxReads where
  | go (els : List (Nat × Option (List (Spot × Nat × Nat)))) (stop : Nat)
  | wait (page : Option Nat)

def State.boxReads (s : State) (j : SlotJob) : List Nat → List (Nat × Option (List (Spot × Nat × Nat))) → BoxReads
  | [], acc => .go acc.reverse 0
  | b :: r, acc =>
    match j.lay.indices j.coords b with
    | none => s.boxReads j r ((b, none) :: acc)
    | some xs =>
      match s.elemSpots j.pins j.view j.wave j.lay.sp (j.lay.reads xs) with
      | .wait p => .wait p
      | .fail c => .go acc.reverse c
      | .ok l => s.boxReads j r ((b, some l) :: acc)

/-- The bytes at an element's spots, and the address of the first poisoned one. -/
def State.readSpots (s : State) (fn : Nat) : List (Spot × Nat × Nat) → State × List (List Byte) × Option Nat
  | [] => (s, [], none)
  | (x, n, va) :: r =>
    let (s, bs) := s.readSpot fn x n
    let (s, rest, bad) := s.readSpots fn r
    (s, bs.map Prod.fst :: rest, if bs.any Prod.snd then some va else bad)

/-- An element as a load finds it: box number, bytes (none when clipped), poisoned address. -/
abbrev Found := Nat × Option (List (List Byte)) × Option Nat

def State.readElems (s : State) (fn : Nat) : List (Nat × Option (List (Spot × Nat × Nat))) → State × List Found
  | [] => (s, [])
  | (b, none) :: r => let (s, rest) := s.readElems fn r; (s, (b, none, none) :: rest)
  | (b, some l) :: r =>
    let (s, bs, bad) := s.readSpots fn l
    let (s, rest) := s.readElems fn r
    (s, (b, some bs, bad) :: rest)

/-- Bits of a column with one field replaced. -/
def setField (c : BitVec 256) (off width v : Nat) : BitVec 256 :=
  (c &&& ~~~(BitVec.ofNat 256 ((2 ^ width - 1) <<< off))) ||| BitVec.ofNat 256 ((v % 2 ^ width) <<< off)

/-- The column of a box element: x(1) mod 128. -/
def Layout.column (r : Layout) (coords : List Int) (b : Nat) : Nat :=
  let x := coords.getD 1 0 + ((boxOffsets b r.box).getD 1 0 : Nat)
  ((if r.circ.testBit 1 then x % (r.extent.getD 1 1 : Int) else x) % 128).toNat

/-- The code that a load writes for an element; a clipped q4n element takes code 7. -/
def Layout.codeOf (r : Layout) (coords : List Int) (f : Found) : Nat :=
  match f.2.1 with
  | none => if r.ty = 11 then 7 else 0
  | some bs =>
    if r.ty = 11 then
      let x := (((r.indices coords f.1).getD []).getD 0 0).toNat
      leNat (bs.headD []) / (if x % 2 = 1 then 16 else 1) % 16
    else leNat (bs.headD [])

/-- The columns after a load's elements are written. DEDUCED (log 33). -/
def Layout.fillCols (r : Layout) (coords : List Int) (old : List (BitVec 256)) (els : List Found) : List (BitVec 256) :=
  els.foldl (fun cols f =>
    let j := r.column coords f.1; let k := (boxOffsets f.1 r.box).getD 0 0
    cols.set j (setField (cols.getD j 0) (slotBits r.ty * k) (slotBits r.ty) (r.codeOf coords f)))
    (if old = [] then List.replicate 128 0 else old)

/-- The side band after a q4n load: each column's scale and super-scale, from its first element that is not clipped, also where its
elements lie in two blocks. DESIGN CHOICE (log 83). -/
def Layout.fillSide (r : Layout) (coords : List Int) (els : List Found) : List (Byte × Word) :=
  if r.ty = 11 then
    (List.range 128).map (fun j =>
      match (els.filter (fun f => r.column coords f.1 == j)).findSome? (fun f => f.2.1) with
      | some bs => ((bs.getD 1 []).headD 0, BitVec.ofNat 32 (leNat (bs.getD 2 [])))
      | none => (0, 0))
  else []

/-- What a load of a slot gives: the slot's contents, the outcome, and the columns into which poison came. -/
inductive SlotRun where
  | done (s : State) (x : BSlot) (o : Outcome) (bad : List Nat)
  | wait (page : Option Nat)

/-- The spots of a box's elements. -/
def elemSpotsOf (els : List (Nat × Option (List (Spot × Nat × Nat)))) : List (Spot × Nat) :=
  els.flatMap (fun e => (e.2.getD []).map (fun x => (x.1, x.2.1)))

/-- The walks for the first n elements of a load (R249). -/
def State.slotWalks (s : State) (j : SlotJob) (n : Nat) : State :=
  if j.lay.sp then s
  else s.engineWalks j.pins j.view ((List.range n).flatMap (fun b =>
    match j.lay.indices j.coords b with | some xs => (j.lay.reads xs).map Prod.fst | none => []))

/-- A load of a slot (R300): every element before a stop is written. -/
def State.runSlot (s : State) (j : SlotJob) (old : BSlot) : SlotRun :=
  match s.boxReads j (List.range j.lay.count) [] with
  | .wait p => .wait p
  | .go els stop =>
    if s.spotsHeld j.view (elemSpotsOf els) then .wait none
    else
    let s := s.slotWalks j (els.length + if stop ≠ 0 then 1 else 0)
    let s := s.touchSpots (elemSpotsOf els)
    let (s, found) := s.readElems j.view.sp.fn els
    let s : State := { s with draws := s.draws + 1 }
    let bad := found.filterMap (fun f => f.2.2.map (fun va => (j.lay.column j.coords f.1, va)))
    let bytes := if j.lay.ty = 11 then (found.length + 1) / 2 else found.length * elemBytes j.lay.ty
    .done s
      { old with ty := j.lay.ty, cols := j.lay.fillCols j.coords old.cols found, side := j.lay.fillSide j.coords found,
                 state := if stop ≠ 0 then .failed stop else match bad with | (_, va) :: _ => .poisoned va | [] => .valid }
      { cause := stop, side := false, poison := !bad.isEmpty, bytes := bytes } (bad.map Prod.fst)

/-- The pages of a box (R379). -/
def State.boxPins (s : State) (v : View) (r : Layout) (coords : List Int) : List Pin :=
  if r.sp then []
  else s.pinsOf v ((List.range r.count).flatMap (fun b => match r.indices coords b with | some xs => (r.reads xs).map Prod.fst | none => []))

/-- The further rules of R300 on a record. -/
def bloadOk (r : Layout) : Bool :=
  r.csm && groupK r.ty != 0 && r.box.getD 0 0 == groupK r.ty && r.box.getD 1 0 == 128 && (r.box.drop 2).all (· == 1)

/-- `bload` (R300). -/
def execBload (p : TF) (s : State) : Host.Outcome State Fault Refusal :=
  s.onWave fun w =>
    match w.completion p.cm p.ct with
    | none => s.takeTrap w illegalEncoding
    | some done =>
      match s.readLayout w (w.recordAt p.tb) (some p.nd.toNat) true with
      | (s, .trap t) => s.takeTrap w t
      | (_, .wait pages) => s.parkPages w pages
      | (_, .stall) => s.stall w
      | (s, .emulate) => s.parkEmulateOn w (.bload p) 3 false .A
      | (s, .ok r) =>
        let slot := (w.rs p.ta.toNat).toNat
        let coords := w.coords p.tc.toNat p.nd.toNat
        if !bloadOk r then s.takeTrap w illegalEncoding
        else if 2048 ≤ slot then s.takeTrap w { cause := 0x0A }
        else if r.ty = 11 ∧ coords.getD 0 0 % 64 ≠ 0 then s.takeTrap w { cause := 0x08 }
        else if s.flushHeld w.core then s.stall w
        else
          let id := s.nextOp
          let x := s.slot w.cc slot
          let v := s.engineView w
          let ports := match s.boxReads { pins := [], view := v, wave := some w, lay := r, coords := coords } (List.range r.count) [] with
            | .go els _ => s.spotPorts w.fn (elemSpotsOf els)
            | .wait _ => []
          let s := ((((s.engineIssue w.core).issueOp w (some .CP) true (.bload slot r coords) done []).onPorts ports id).modOp id
            (fun o => { o with pins := s.boxPins v r coords })).putSlot w.cc slot
              { x with state := .loading, ty := r.ty, tag := some (r, coords, w.space, p.cache.toNat) }
          s.advanceWave w.uid 3 false .A

/-- A `bload` issued after operation `id` has yet to write the slot. -/
def State.loadsAfter (s : State) (cc id slot : Nat) : Bool :=
  s.ops.any (fun y => id < y.id && 192 * y.cx + y.core == cc && (match y.kind with | .bload n _ _ => n == slot | _ => false))

/-- BLOAD_COMPLETE. -/
def execBloadComplete (s : State) : Host.Outcome State Fault Refusal :=
  .next (match s.op? s.input.op with
    | none => s
    | some o =>
      let cc := 192 * o.cx + o.core
      match o.kind with
      | .bload slot r coords =>
        if o.waits ≠ [] ∨ s.portLost o.id ∨ !s.slotFree cc o.id slot ∨ s.reloading cc slot then s
        else
          match s.runSlot { pins := o.pins, view := o.view, wave := s.wave? o.uid, lay := r, coords := coords } (s.slot cc slot) with
          | .wait p => s.waitPage o p
          | .done s x out _ =>
            let later := s.loadsAfter cc o.id slot
            let x := { x with held := if later then some (r, coords, o.space, 0) else x.tag }
            (s.putSlot cc slot (if later then { x with state := .loading, ty := (s.slot cc slot).ty } else x)).completeWith o out
      | _ => s)

/-- B_SLOT_RELOAD_DONE (R297): a slot is reloaded after a context restore, from the tag of the load whose data it held. A `bload` issued since
writes it after that (R284). -/
def execBSlotReloadDone (s : State) : Host.Outcome State Fault Refusal :=
  .next (
    let cc := s.input.core; let n := s.input.slot
    let x := s.slot cc n
    match x.held with
    | some (r, coords, sp, _) =>
      let part := (s.func sp.fn).part
      if s.reloading cc n ∧ cc / 192 = (s.part part).active then
        match s.runSlot { pins := [], view := cpView sp part, wave := none, lay := r, coords := coords } x with
        | .wait (some p) => s.requestPages sp [p]
        | .wait none => s.hold .bSlotReloadDone { core := cc, slot := n }
        | .done s y _ _ => (s.putSlot cc n (if s.loadsAfter cc 0 n then { y with reload := false, state := .loading, ty := x.ty } else { y with reload := false })).stirMatrix cc
      else s
    | none => s)

/-! ### accz, accrd, accwr (R301) -/

/-- A tile or beyond ACC traps PERMISSION. -/
def execAccz (p : TF) (s : State) : Host.Outcome State Fault Refusal :=
  s.onWave fun w =>
    if w.foot.acc < p.ta.toNat + p.tb.toNat then s.takeTrap w { cause := 0x0A }
    else
      let id := s.nextOp
      (((s.issueOp w (some .MM) true (.accz (w.accBase + p.ta.toNat) p.tb.toNat) .none []).openOp w.uid id)).advanceWave w.uid 3 false .A

/-- The types of `accrd` and `accwr` (R301). -/
def accrdType (acct ty : Nat) : Bool := if acct = 0 then ty == 0 || ty == 2 else ty == 2 || ty == 3 || ty == 4 || ty == 5 || ty == 6 || ty == 0
def accwrType (acct ty : Nat) : Bool := if acct = 0 then ty == 0 else ty == 2 || ty == 3 || ty == 4 || ty == 5 || ty == 6

/-- The column groups and registers that an `accrd` or `accwr` names do not exist (R301). DEDUCED (log 32). -/
def badGroups (p : TF) : Bool := p.td == 0 || decide (16 < p.tc.toNat + p.td.toNat) || decide (256 < p.ta.toNat + p.td.toNat)

def execAccrd (p : TF) (s : State) : Host.Outcome State Fault Refusal :=
  s.onWave fun w =>
    if emulated p.ty then s.parkEmulateOn w (.accrd p) 3 false .A
    else if !accrdType w.acct p.ty.toNat then s.takeTrap w matrixCombination
    else if badGroups p then s.takeTrap w illegalEncoding
    else if w.foot.acc ≤ p.tb.toNat then s.takeTrap w { cause := 0x0A }
    else
      match s.spillTrap w [] (runFrom p.ta.toNat p.td.toNat) with
      | some t => s.takeTrap w t
      | none =>
        let id := s.nextOp
        let kind := OpKind.accrd p.ta.toNat (w.accBase + p.tb.toNat) p.tc.toNat p.td.toNat p.ty.toNat w.acct w.fmtRnd w.fmtSat (w.active p.km.toNat) p.z
        ((s.issueOp w (some .MM) true kind .none []).openOp w.uid id).advanceWave w.uid 3 false .A

/-- An accumulator element as a source type gives it: f32 and i32 bits copied, narrower floats widened. -/
def widen (ty : Nat) (x : Word) : Word :=
  if ty = 0 ∨ ty = 2 then x else BitVec.ofNat 32 (fmtF32.round .rne false (laneFloat ty x)).1

/-- An accumulator as `accrd` delivers it. -/
def narrow (ty acct rnd : Nat) (sat : Bool) (x : Word) : Word :=
  let v := if acct = 0 then intVal x.toInt else fmtF32.decode x.toNat
  if (acct = 0 ∧ ty = 0) ∨ (acct ≠ 0 ∧ ty = 2) then x
  else if ty = 0 then intLane (floatToInt (Mode.ofRnd rnd) 0 false v).1
  else BitVec.ofNat 32 ((fmtOfTy ty).round (Mode.ofRnd rnd) sat v).1

def execAccwr (p : TF) (s : State) : Host.Outcome State Fault Refusal :=
  s.onWave fun w =>
    if emulated p.ty then s.parkEmulateOn w (.accwr p) 3 false .A
    else if !accwrType w.acct p.ty.toNat then s.takeTrap w matrixCombination
    else if badGroups p then s.takeTrap w illegalEncoding
    else if w.foot.acc ≤ p.tb.toNat then s.takeTrap w { cause := 0x0A }
    else
      let srcs := runFrom p.ta.toNat p.td.toNat
      match s.spillTrap w srcs [] with
      | some t => s.takeTrap w t
      | none =>
        let id := s.nextOp
        let kind := OpKind.accwr (w.accBase + p.tb.toNat) p.tc.toNat p.td.toNat p.ty.toNat (w.active p.km.toNat) (srcs.map (s.readV w))
        (((s.spillRead w srcs).issueOp w (some .MM) true kind .none []).openOp w.uid id).advanceWave w.uid 3 false .A

/-- An `accz`, `accrd` or `accwr` may act on its tiles (R290). -/
def State.accReady (s : State) (o : Op) (tile n : Nat) : Bool :=
  (List.range n).all (fun i => !s.tileHeld (192 * o.cx + o.core) o.id (tile + i) && !s.tileAwaited (192 * o.cx + o.core) o.id (tile + i))

/-- Row and column of lane l in column group g (R285). -/
def accRow (l : Nat) : Nat := l % 8
def accCol (g l : Nat) : Nat := 8 * g + l / 8

/-- `accz` takes effect. -/
def State.acczNow (s : State) (cc tile n : Nat) : State :=
  (List.range n).foldl (fun s i => (List.range 8).foldl (fun s r => (List.range 128).foldl (fun s j => s.putAcc cc (tile + i) r j 0) s) s) s

/-- `accwr` takes effect. -/
def State.accwrNow (s : State) (cc tile g n ty : Nat) (lanes : LaneMask) (vals : List VReg) : State :=
  (List.range n).foldl (fun s i => (lanesOf lanes).foldl (fun s l =>
    s.putAcc cc tile (accRow l) (accCol (g + i) l) (widen ty (laneOf (vals.getD i zeroV) l))) s) s

/-- The registers that `accrd` writes. -/
def State.accrdWrites (s : State) (cc d tile g n ty acct rnd : Nat) (sat : Bool) (lanes : LaneMask) (z : Bool) : List RegWrite :=
  (List.range n).map (fun i =>
    .v (d + i) (if z then BitVec.allOnes 64 else lanes)
      (allLanes.map (fun l => if lanes.getLsbD l then narrow ty acct rnd sat (s.acc cc tile (accRow l) (accCol (g + i) l)) else 0)))

/-! ### mfence, mwait (R292, R303) -/

def execMfence (c : Bool) (d : R8) (s : State) : Host.Outcome State Fault Refusal :=
  s.onWave fun w =>
    let n := (w.last + 1) % 2 ^ 16
    ((s.putWave (({ w with last := n, batches := w.batches ++ [(n, w.openOps)], openOps := [] }.setS d.toNat (BitVec.ofNat 32 n)).advance 1 c .A)).settle w.uid)

def execMwait (c : Bool) (a : R8) (s : State) : Host.Outcome State Fault Refusal :=
  s.onWave fun w =>
    let n := (w.rs a.toNat).toNat % 2 ^ 16
    if 2 ^ 15 ≤ (w.last + 2 ^ 16 - n) % 2 ^ 16 ∨ !w.batches.any (fun b => b.1 == n) then s.putWave (w.advance 1 c .A)
    else s.park w (.batch n) 1 c .A

/-! ### mparam (R296, R304) -/

/-- CLEN, NROWS and ROWBASE of a header that is legal. -/
def paramHeader (h : Nat) : Option (Nat × Nat × Nat) :=
  if bitsOf h 127 96 == 0 && bitsOf h 63 39 == 0 && decide (1 ≤ bitsOf h 38 32 ∧ bitsOf h 38 32 ≤ 64) then
    some (bitsOf h 31 0, bitsOf h 38 32, bitsOf h 95 64)
  else none

def execMparam (c : Bool) (p : A2) (s : State) : Host.Outcome State Fault Refusal :=
  s.onWave fun w =>
    let a := w.recordAt p.aa
    match s.readRecord w a 16 16 noDeny with
    | .trap t => s.takeTrap w t
    | .wait pages => s.parkPages w pages
    | .stall => s.stall w
    | .ok s h =>
      match paramHeader (leNat h) with
      | none => s.takeTrap w illegalEncoding
      | some (clen, n, base) =>
        match s.resolve w.view ((List.range n).map (fun i => (0, a + 16 + 16 * i))) 1 false noDeny with
        | .trap t => s.takeTrap w t.whole
        | .wait pages => s.parkPages w pages
        | .ok accs =>
          if s.loadBlocked w.core 16 0 accs then s.stall w
          else
            let s := s.reach w accs true
            match s.poisonTrap w.core accs with
            | some t => s.takeTrap w t.whole
            | none =>
              let (s, res) := s.loadAll w.core 16 0 0 accs
              let es := res.map (fun e => leNat e.2)
              if es.any (fun e => bitsOf e 127 96 != 0) then s.takeTrap w illegalEncoding
              else
                let copy : ParamCopy :=
                  { clen := clen, nrows := n, rowbase := base, rows := es.map (fun e => (BitVec.ofNat 64 e, bitsOf e 95 64)) }
                s.modWave w.uid (fun (w : Wave) => ({ w with params := some copy } : Wave).advance 2 c .A)

end Sys2Proof.Machine
end

