-- ==== Sys2Proof/Machine/Walk.lean ====
section
/-! DEFINITION. Walks (R293 to R295, R302): the card and its checks at issue, the walk's tuples one after another, the
epilogue of each finished block, and the completion. -/

namespace Sys2Proof.Machine

/-! ### Loop levels (R294) -/

def levelTotal (l : List (Nat × Nat)) : Nat := l.foldl (fun n e => n * e.2) 1

/-- The index of the level that names v (1 M, 2 N, 3 K, 4 G) in tuple number `pos`; 0 with no such level. -/
def levelIndex (v pos : Nat) : List (Nat × Nat) → Nat
  | [] => 0
  | e :: r => if e.1 = v then pos / levelTotal r % e.2 else levelIndex v pos r

def levelCount (v : Nat) (l : List (Nat × Nat)) : Nat := ((l.find? (fun e => e.1 == v)).map Prod.snd).getD 1

/-- The levels inside the K level. -/
def innerLevels (l : List (Nat × Nat)) : List (Nat × Nat) := (l.dropWhile (fun e => e.1 != 3)).drop 1

/-- The index tuple of a walk, with e. -/
structure Tuple where
  iM : Nat
  iN : Nat
  iK : Nat
  iG : Nat
  e : Nat
deriving DecidableEq, Repr

def WalkJob.tuple (j : WalkJob) (pos : Nat) : Tuple :=
  { iM := levelIndex 1 pos j.levels, iN := levelIndex 2 pos j.levels, iK := levelIndex 3 pos j.levels,
    iG := levelIndex 4 pos j.levels, e := pos % levelTotal (innerLevels j.levels) }

def WalkJob.total (j : WalkJob) : Nat := levelTotal j.levels
def WalkJob.kg (j : WalkJob) : Nat := groupK j.b.ty
/-- Row r of tile u of a tuple's block, its column c, its first K, its G. -/
def WalkJob.row (j : WalkJob) (t : Tuple) (u r : Nat) : Int := j.m0 + (8 * (j.mt * t.iM + u) + r : Nat)
def WalkJob.col (j : WalkJob) (t : Tuple) (c : Nat) : Int := j.n0 + (128 * t.iN + c : Nat)
def WalkJob.k (j : WalkJob) (t : Tuple) : Int := j.k0 + (j.kg * t.iK : Nat)
def WalkJob.g (j : WalkJob) (t : Tuple) : Int := j.g0 + (t.iG : Nat)

/-- The B record with the box of one K group and 128 columns: the walk ignores every BOX field (R293). -/
def WalkJob.bBox (j : WalkJob) : Layout := { j.b with box := [j.kg, 128, 1].take j.b.ndim }
def WalkJob.bCoords (j : WalkJob) (t : Tuple) : List Int := [j.k t, j.col t 0, j.g t].take j.b.ndim

/-- The address of an element of the A or C record, none when clipped. -/
def Layout.at3 (r : Layout) (x y z : Int) : Option Nat := (r.indices [x, y, z] 0).map r.address

/-! ### The card (R293) and its checks (R302) -/

/-- The levels that are used, outermost first. -/
def cardLevels (v : Nat) : List (Nat × Nat) :=
  ((List.range 5).map (fun i => (bitsOf v (384 + 32 * i + 31) (384 + 32 * i + 29), bitsOf v (384 + 32 * i + 19) (384 + 32 * i)))).filter
    (fun e => e.1 != 0)

/-- Reserved fields are zero, an unused level has no count, and a used one has one. -/
def cardZeros (v : Nat) : Bool :=
  bitsOf v 1023 672 == 0 && bitsOf v 383 336 == 0 && !bitOf v 323 && bitsOf v 295 290 == 0 && bitsOf v 255 249 == 0 &&
  bitsOf v 191 185 == 0 && bitsOf v 127 121 == 0 && bitsOf v 63 57 == 0 &&
  (List.range 5).all (fun i =>
    let var := bitsOf v (384 + 32 * i + 31) (384 + 32 * i + 29); let count := bitsOf v (384 + 32 * i + 19) (384 + 32 * i)
    bitsOf v (384 + 32 * i + 28) (384 + 32 * i + 20) == 0 && decide (var ≤ 4) && (var == 0) == (count == 0))

/-- The level rules of R294. -/
def levelsOk (l : List (Nat × Nat)) : Bool :=
  [1, 2, 3].all (fun x => (l.filter (fun e => e.1 == x)).length == 1) && decide ((l.filter (fun e => e.1 == 4)).length ≤ 1)

/-- The fields of a card with the records as read. -/
def walkJob (v : Nat) (a b c : Layout) (acct rnd : Nat) (sat : Bool) (params : Option ParamCopy) (accBase : Nat) : WalkJob :=
  { a := a, b := b, cRec := c, bias := bitsOf v 248 192, scale := BitVec.ofNat 32 (bitsOf v 287 256), scv := bitOf v 288,
    mask := bitOf v 289, params := params, accBase := accBase + bitsOf v 300 296, accN := bitsOf v 306 301, mt := bitsOf v 311 307,
    slotBase := bitsOf v 322 312, slotN := bitsOf v 335 324, levels := cardLevels v, m0 := signedOf (bitsOf v 575 544) 32,
    n0 := signedOf (bitsOf v 607 576) 32, k0 := signedOf (bitsOf v 639 608) 32, g0 := signedOf (bitsOf v 671 640) 32,
    acct := acct, rnd := rnd, sat := sat, pos := 0, bytes := 0, poisoned := false, stop := 0, side := false, epi := false,
    badRows := [], badCols := [] }

/-- The second check of R302 on the card itself: what would be ILLEGAL_ENCODING. -/
def cardOk (v : Nat) (bTy : Nat) : Bool :=
  let mt := bitsOf v 311 307; let accN := bitsOf v 306 301; let slotN := bitsOf v 335 324
  cardZeros v && levelsOk (cardLevels v) && decide (1 ≤ mt ∧ mt ≤ 16) && decide (1 ≤ accN ∧ accN ≤ 32) &&
  decide (levelTotal (innerLevels (cardLevels v)) * mt ≤ accN) && slotN != 0 && decide (bitsOf v 322 312 + slotN ≤ 2048) &&
  bitsOf v 56 0 % 128 == 0 && bitsOf v 120 64 % 128 == 0 && bitsOf v 184 128 % 128 == 0 && bitsOf v 248 192 % 4 == 0 &&
  (bTy != 11 || signedOf (bitsOf v 639 608) 32 % 64 == 0)

/-- The output types of R295. -/
def walkOut (ty : Nat) : Bool := [0, 2, 3, 4, 5, 6].contains ty

/-! ### What a walk reads and writes -/

/-- Every index tuple's number. -/
def WalkJob.tuples (j : WalkJob) : List Tuple := (List.range j.total).map j.tuple

/-- The addresses of the A elements of a tuple: tiles, rows, then K. -/
def WalkJob.aAddrs (j : WalkJob) (t : Tuple) : List (Option Nat) :=
  (List.range j.mt).flatMap (fun u => (List.range 8).flatMap (fun r => (List.range j.kg).map (fun (k : Nat) =>
    j.a.at3 (j.k t + (k : Int)) (j.row t u r) (j.g t))))

/-- An element of a finished block. -/
structure OutElem where
  u : Nat
  r : Nat
  row : Int
  col : Int
  addr : Nat
deriving DecidableEq, Repr

/-- The elements of a tuple's block that C does not clip, tile by tile and row by row. -/
def WalkJob.outs (j : WalkJob) (t : Tuple) : List OutElem :=
  (List.range j.mt).flatMap (fun u => (List.range 8).flatMap (fun r => (List.range 128).filterMap (fun c =>
    (j.cRec.at3 (j.col t c) (j.row t u r) (j.g t)).map (fun a => { u := u, r := r, row := j.row t u r, col := j.col t c, addr := a }))))

/-- The bias word of a column. -/
def WalkJob.biasAddr (j : WalkJob) (col : Int) : Nat := (((j.bias : Int) + 4 * col) % 2 ^ 64).toNat

/-- The global addresses that a tuple of a walk reads. -/
def WalkJob.reads (j : WalkJob) (t : Tuple) : List Nat :=
  (if j.a.sp then [] else (j.aAddrs t).filterMap id) ++
  ((List.range j.bBox.count).flatMap (fun b => match j.bBox.indices (j.bCoords t) b with | some xs => (j.b.reads xs).map Prod.fst | none => [])) ++
  (if j.bias = 0 then [] else (j.outs t).map (fun e => j.biasAddr e.col))

/-- What a walk takes: it owns the lines of C that it may write (R295), and uses the ports of its peer pages (R405). -/
def State.walkTaken (s : State) (w : Wave) (v : View) (j : WalkJob) : Taken :=
  let outs := j.tuples.flatMap j.outs
  let spots := outs.filterMap (fun e =>
    match s.spot [] [] v (some w) j.cRec.sp e.addr true with
    | .ok x => some (x, elemBytes j.cRec.ty)
    | _ => none)
  let reads := (distinct ((j.tuples.flatMap j.reads).map (· / 4096))).filterMap (fun pg =>
    match s.page v (pg * 4096) false with | .ok p => some (Spot.mem p, 1) | _ => none)
  { owned := spotLines spots, spads := if j.cRec.sp then s.spadsOf (some w) (outs.map (·.addr)) else [],
    ports := s.spotPorts w.fn (spots ++ reads) }

/-- The pages of a walk, as it finds them at issue (R379). -/
def State.walkPins (s : State) (v : View) (j : WalkJob) : List Pin :=
  s.pinsOf v (j.tuples.flatMap (fun t => j.reads t ++ (if j.cRec.sp then [] else (j.outs t).map (·.addr))))

/-- The 128 bytes of a record, when its page translates and its line is not poisoned: like a load. DEDUCED (log 36). -/
def State.walkRecord (s : State) (w : Wave) (addr : Nat) : RecordRead := s.readRecord w (addr / 128 * 128) 128 128 noDeny

/-- A walk goes out, and the wave goes on. -/
def State.issueWalk (s : State) (w : Wave) (j : WalkJob) (done : Completion) (c : Bool) : State :=
  let id := s.nextOp
  let v := s.engineView w
  let x := s.walkTaken w v j
  let pins := s.walkPins v j
  let s := (((s.engineIssue w.core).issueOp w (some .MM) true (.walk j) done x.owned).onPorts x.ports id).modOp id
    (fun o => { o with pins := pins, spads := x.spads })
  ((s.openOp w.uid id).sealWave w.uid).advanceWave w.uid 2 c .A

/-- `mwalk` (R302). The pages of the three records are translated together (R244). -/
def execMwalk (c : Bool) (p : A2) (s : State) : Host.Outcome State Fault Refusal :=
  s.onWave fun w =>
    match w.completion p.cm p.ct with
    | none => s.takeTrap w illegalEncoding
    | some done =>
      match s.readRecord w (w.recordAt p.aa) 128 128 noDeny with
      | .trap t => s.takeTrap w t
      | .wait pages => s.parkPages w pages
      | .stall => s.stall w
      | .ok s1 card =>
        let v := leNat card
        let recs := [bitsOf v 56 0, bitsOf v 120 64, bitsOf v 184 128]
        match s1.resolveAll w.view (recs.map (fun a => (0, a, false, noDeny))) 1 with
        | .trap t => s1.takeTrap w t.whole
        | .wait pages => s.parkPages w pages
        | .ok _ =>
          match s1.walkRecord w (bitsOf v 56 0) with
          | .trap t => s1.takeTrap w t
          | .wait pages => s.parkPages w pages
          | .stall => s.stall w
          | .ok s2 ra =>
            match s2.walkRecord w (bitsOf v 120 64) with
            | .trap t => s2.takeTrap w t
            | .wait pages => s.parkPages w pages
            | .stall => s.stall w
            | .ok s3 rb =>
              match s3.walkRecord w (bitsOf v 184 128) with
              | .trap t => s3.takeTrap w t
              | .wait pages => s.parkPages w pages
              | .stall => s.stall w
              | .ok s4 rc =>
                let a := parseLayout ra; let b := parseLayout rb; let cr := parseLayout rc
                let nd := if (cardLevels v).any (fun e => e.1 == 4) then 3 else 2
                if !cardOk v b.ty || !layoutOk a (some nd) false || !layoutOk b (some nd) true || !b.csm || !layoutOk cr (some nd) false then
                  s4.takeTrap w illegalEncoding
                else if [a.ty, b.ty, cr.ty].any (fun t => t == 13 || t == 14) then s4.parkEmulateOn w (.mwalk c p) 2 c .A
                else if (combination a.ty b.ty false w.acct).isNone || !walkOut cr.ty || (bitOf v 289 && w.params.isNone) then
                  s4.takeTrap w matrixCombination
                else if w.foot.acc < bitsOf v 300 296 + bitsOf v 306 301 then s4.takeTrap w { cause := 0x0A }
                else if s4.flushHeld w.core then s.stall w
                else s4.issueWalk w (walkJob v a b cr w.acct w.fmtRnd w.fmtSat w.params w.accBase) done c

/-! ### The steps of a walk -/

/-- The spots of addresses up to a stop, in order; none stays none. -/
inductive SpotRun where
  | go (l : List (Option Spot)) (stop : Nat)
  | wait (page : Option Nat)

def State.spotRun (s : State) (o : Op) (inSpad : Bool) : List (Option Nat) → List (Option Spot) → SpotRun
  | [], acc => .go acc.reverse 0
  | none :: r, acc => s.spotRun o inSpad r (none :: acc)
  | some a :: r, acc =>
    match s.spot o.pins [] o.view (s.wave? o.uid) inSpad a false with
    | .wait p => .wait p
    | .fail c => .go acc.reverse c
    | .ok x => s.spotRun o inSpad r (some x :: acc)

/-- Element codes at spots with their poison; a clipped element is zero. -/
def State.codesAt (s : State) (fn size : Nat) : List (Option Spot) → State × List (Nat × Bool)
  | [] => (s, [])
  | none :: r => let (s, l) := s.codesAt fn size r; (s, (0, false) :: l)
  | some x :: r =>
    let (s, bs) := s.readSpot fn x size
    let (s, l) := s.codesAt fn size r
    (s, (leNat (bs.map Prod.fst), bs.any Prod.snd) :: l)

def State.putWalk (s : State) (id : Nat) (j : WalkJob) : State := s.modOp id (fun o => { o with kind := .walk j })

/-- The walk stops: its completion comes due. -/
def State.stopWalk (s : State) (o : Op) (j : WalkJob) (cause : Nat) (side : Bool) : State :=
  (s.putWalk o.id { j with stop := cause, side := side }).dueOnce .mwalkComplete { op := o.id }

/-- The tiles of a tuple's block. -/
def WalkJob.tileOf (j : WalkJob) (t : Tuple) (u : Nat) : Nat := j.accBase + j.mt * t.e + u

/-- A tuple begins, its slot loaded and its A rows read: tiles start at zero with the first K, and its quarters enter the queue. -/
def State.enterTuple (s : State) (o : Op) (j : WalkJob) (t : Tuple) (slot : Nat) (badB : List Nat) (codes : List (Nat × Bool)) : State :=
  let cc := 192 * o.cx + o.core
  let kg := j.kg
  let cell (u r : Nat) : List (Nat × Bool) := (codes.drop ((8 * u + r) * kg)).take kg
  let us := List.range j.mt
  let rows := us.flatMap (fun u => (List.range 8).map (fun r => (u, r)))
  let mine (tile : Nat) : Bool := t.iK == 0 && us.any (fun u => j.tileOf t u == tile)
  let quarters : List Quarter := us.map (fun u =>
    { opId := o.id, uid := o.uid, cc := cc, slot := slot, tile := j.tileOf t u, aty := j.a.ty, bty := j.b.ty, sp := false, acct := j.acct,
      rows := (List.range 8).map (fun r => (r, (cell u r).map Prod.fst)),
      taken := (List.range 8).map (fun r => (r, List.replicate kg true)) })
  let j' := { j with
    pos := j.pos + 1, epi := t.iK + 1 == levelCount 3 j.levels,
    badRows := j.badRows.filter (fun e => !mine e.1) ++
      (rows.filter (fun e => (cell e.1 e.2).any Prod.snd)).map (fun e => (j.tileOf t e.1, e.2)),
    badCols := j.badCols.filter (fun e => !mine e.1) ++ us.flatMap (fun u => badB.map (fun c => (j.tileOf t u, c))) }
  { s with quarters := s.quarters ++ quarters }.putWalk o.id j' |>.dueOnce .matrixPassDepart { core := cc }

/-- The next index tuple of a walk (R294), once its tiles and slot are free for it. Which slot holds it is free. -/
def State.walkTuple (s : State) (o : Op) (j : WalkJob) : State :=
  let cc := 192 * o.cx + o.core
  let t := j.tuple j.pos
  let slot := j.slotBase + (Config.freeWord s.draws).toNat % j.slotN
  let tiles := (List.range j.mt).map (j.tileOf t)
  if tiles.any (fun x => s.tileHeld cc o.id x || s.tileAwaited cc o.id x) || !s.slotFree cc o.id slot || s.reloading cc slot ||
      decide (128 < (s.quarters.filter (fun q => q.cc == cc)).length + j.mt) then s
  else
    let old := s.slot cc slot
    match s.runSlot { pins := o.pins, view := o.view, wave := s.wave? o.uid, lay := j.bBox, coords := j.bCoords t } old with
    | .wait p => s.waitPage o p
    | .done s1 x out bad =>
      let later := s.loadsAfter cc o.id slot
      let tag := some (j.bBox, j.bCoords t, o.space, 0)
      let x := if later then { x with state := .loading, ty := old.ty, tag := old.tag, held := tag } else { x with tag := tag, held := tag }
      let fresh (s : State) : State := if t.iK = 0 then tiles.foldl (fun s x => s.acczNow cc x 1) s else s
      if out.cause ≠ 0 then ({ fresh s1 with draws := s1.draws + 1 }.putSlot cc slot x).stopWalk o j out.cause false
      else
        match s1.spotRun o j.a.sp (j.aAddrs t) [] with
        | .wait p => s.waitPage o p
        | .go spots stop =>
          if s.spotsHeld o.view ((spots.filterMap id).map (fun x => (x, elemBytes j.a.ty))) then s.waitPage o none
          else
          let met := if j.a.sp then [] else ((j.aAddrs t).take (spots.length + if stop ≠ 0 then 1 else 0)).filterMap id
          let s1 := (s1.engineWalks o.pins o.view met).touchSpots ((spots.filterMap id).map (fun x => (x, elemBytes j.a.ty)))
          let s2 := { fresh s1 with draws := s1.draws + 1 }.putSlot cc slot x
          if stop ≠ 0 then s2.stopWalk o j stop false
          else
            let (s3, codes) := s2.codesAt o.space.fn (elemBytes j.a.ty) spots
            s3.enterTuple o j t slot bad codes

/-! ### The epilogue (R295, R296) -/

/-- Visible (R296). -/
def ParamCopy.visible (p : ParamCopy) (row col : Int) : Bool :=
  let i := row - (p.rowbase : Int)
  if i < 0 ∨ (p.nrows : Int) ≤ i then false
  else
    match p.rows[i.toNat]? with
    | none => false
    | some (am, pos) =>
      if col < (p.clen : Int) then decide (col ≤ (pos : Int))
      else
        let d := col - (p.clen : Int)
        decide (d < 64) && am.getLsbD d.toNat

/-- The exact value of an output element before it is rounded. -/
def WalkJob.value (j : WalkJob) (acc : Word) (bias : Option Word) (row col : Int) : FVal :=
  let y := if j.acct = 0 then intVal acc.toInt else fmtF32.decode acc.toNat
  let y := if j.scv then (y.mul (fmtF32.decode j.scale.toNat)).1 else y
  let y := match bias with | some b => (y.add (Mode.ofRnd j.rnd) (fmtF32.decode b.toNat)).1 | none => y
  if j.mask && !((j.params.map (fun p => p.visible row col)).getD false) then .inf true else y

/-- An output element's code. -/
def WalkJob.code (j : WalkJob) (y : FVal) : Nat :=
  if j.cRec.ty = 0 then (intLane (floatToInt (Mode.ofRnd j.rnd) 0 false y).1).toNat
  else ((fmtOfTy j.cRec.ty).round (Mode.ofRnd j.rnd) j.sat y).1

/-- An output element with where it goes and where its bias comes from. -/
structure OutSpot where
  e : OutElem
  dst : Spot
  bias : Option Spot
deriving DecidableEq, Repr

inductive OutPlan where
  | go (l : List OutSpot) (stop : Nat) (side : Bool)
  | wait (page : Option Nat)

/-- The elements of a block up to the first whose bias or destination fails (R255, R302). Where both fail, the bias is reported.
DESIGN CHOICE (log 82). -/
def State.planOut (s : State) (o : Op) (j : WalkJob) : List OutElem → List OutSpot → OutPlan
  | [], acc => .go acc.reverse 0 false
  | e :: r, acc =>
    let w := s.wave? o.uid
    let bias := if j.bias = 0 then none else some (s.spot o.pins [] o.view w false (j.biasAddr e.col) false)
    match bias, s.spot o.pins o.spads o.view w j.cRec.sp e.addr true with
    | some (.wait p), _ => .wait p
    | some (.fail c), _ => .go acc.reverse c false
    | _, .wait p => .wait p
    | _, .fail c => .go acc.reverse c true
    | some (.ok b), .ok d => s.planOut o j r ({ e := e, dst := d, bias := some b } :: acc)
    | none, .ok d => s.planOut o j r ({ e := e, dst := d, bias := none } :: acc)

/-- The bytes of each element, with whether poison came into it. -/
def State.outBytes (s : State) (o : Op) (j : WalkJob) (t : Tuple) : List OutSpot → State × List (Spot × List Byte × Bool)
  | [] => (s, [])
  | x :: r =>
    let (s, bias) := match x.bias with
      | none => (s, (none, false))
      | some b => let (s, bs) := s.readSpot o.space.fn b 4; (s, (some (BitVec.ofNat 32 (leNat (bs.map Prod.fst))), bs.any Prod.snd))
    let tile := j.tileOf t x.e.u
    let c := j.b.column [0, x.e.col, 0] 0
    let v := j.value (s.acc (192 * o.cx + o.core) tile x.e.r c) bias.1 x.e.row x.e.col
    let bad := bias.2 || j.badRows.contains (tile, x.e.r) || j.badCols.contains (tile, c)
    let (s, l) := s.outBytes o j t r
    (s, (x.dst, toBytes (elemBytes j.cRec.ty) (j.code v), bad) :: l)

/-- The physical address of a spot in device or system memory. -/
def Spot.pa? : Spot → Option Nat
  | .mem p => if isPeerPa p.pa then none else some p.pa
  | .spad _ => none

/-- Output elements are written: one request for each line of memory, and a line that poison reached is poisoned. -/
def State.writeOuts (s : State) (fn : Nat) (l : List (Spot × List Byte × Bool)) : State :=
  let mem := l.filterMap (fun e => e.1.pa?.map (fun pa => (pa, e.2.1, e.2.2)))
  let s := (distinct (mem.map (fun e => e.1 / 128))).foldl (fun (s : State) line =>
    let mine := mem.filter (fun e => e.1 / 128 == line)
    let img := mine.foldl (fun (x : BitVec 128 × List Byte) e =>
      let m := byteMask (e.1 % 128) e.2.1.length
      (x.1 ||| m, patch x.2 (placed (e.1 % 128) e.2.1) m)) (0, List.replicate 128 0)
    let s := s.homeWrite line img.1 img.2
    if mine.any (fun e => e.2.2) then s.setPoison line else s) s
  (l.filter (fun e => e.1.pa?.isNone)).foldl
    (fun s e => s.writeSpot fn e.1 (e.2.1.map (fun b => (b, e.2.2)))) s

/-- The walks for output elements and their bias (R249). -/
def State.outWalks (s : State) (o : Op) (j : WalkJob) (es : List OutElem) : State :=
  s.engineWalks o.pins o.view ((if j.cRec.sp then [] else es.map (·.addr)) ++ (if j.bias = 0 then [] else es.map (fun e => j.biasAddr e.col)))

/-- The epilogue of the block whose last K group has been applied. What it writes, the walk owns, where the page has been mapped since the
issue too (R321). -/
def State.walkEpilogue (s : State) (o : Op) (j : WalkJob) : State :=
  let t := j.tuple (j.pos - 1)
  match s.planOut o j (j.outs t) [] with
  | .wait p => s.waitPage o p
  | .go l stop side =>
    if s.spotsHeld o.view (l.flatMap (fun x => (x.dst, elemBytes j.cRec.ty) :: (x.bias.map (fun b => (b, 4))).toList)) then s.waitPage o none
    else
    let s := s.outWalks o j ((j.outs t).take (l.length + if stop ≠ 0 then 1 else 0))
    let s := s.touchSpots (l.filterMap (fun x => x.bias.map (fun b => (b, 4))))
    let s := s.modOp o.id (fun o => { o with owned := distinct (o.owned ++ spotLines (l.map (fun x => (x.dst, elemBytes j.cRec.ty)))) })
    let (s, ws) := s.outBytes o j t l
    let s := s.writeOuts o.space.fn ws
    let s : State := { s with draws := s.draws + 1 }
    let j := { j with epi := false, bytes := j.bytes + elemBytes j.cRec.ty * ws.length, poisoned := j.poisoned || ws.any (fun e => e.2.2) }
    if stop ≠ 0 then s.stopWalk o j stop side
    else if j.pos = j.total then (s.putWalk o.id j).dueOnce .mwalkComplete { op := o.id }
    else (s.putWalk o.id j).dueOnce .walkBLoadDone { op := o.id, core := 192 * o.cx + o.core }

/-- WALK_B_LOAD_DONE: a running walk, none of whose quarters waits, finishes a block or loads the B of its next tuple,
whose quarters then enter the queue. A halted context's walk stays at the boundary between two K groups (R297). -/
def execWalkBLoadDone (s : State) : Host.Outcome State Fault Refusal :=
  .next (match s.op? s.input.op with
    | none => s
    | some o =>
      match o.kind with
      | .walk j =>
        if o.waits ≠ [] ∨ s.portLost o.id ∨ j.stop ≠ 0 ∨ s.allQuarters.any (fun q => q.opId == o.id) ∨ o.cx ≠ (s.part o.part).active ∨
            (s.part o.part).switching.isSome then s
        else if j.epi then s.walkEpilogue o j
        else if j.pos = j.total then s
        else s.walkTuple o j
      | _ => s)

/-- MWALK_COMPLETE: the completion target is written, and the walk is over; its lines are free (R321, R355). -/
def execMwalkComplete (s : State) : Host.Outcome State Fault Refusal :=
  .next (match s.op? s.input.op with
    | none => s
    | some o =>
      match o.kind with
      | .walk j =>
        if j.stop ≠ 0 ∨ (j.pos = j.total ∧ !j.epi ∧ !s.allQuarters.any (fun q => q.opId == o.id)) then
          (s.completeWith o { cause := j.stop, side := j.side, poison := j.poisoned, bytes := j.bytes }).bramblesOwn
        else s
      | _ => s)

end Sys2Proof.Machine
end

