-- ==== Sys2Proof/Machine/Async.lean ====
section
/-! DEFINITION. Operations in flight that land or complete (R155, R259, R268), evictions (R253, R314) and the answers of the
host's translation agent (R247). -/

namespace Sys2Proof.Machine

/-- Who posted the card of an operation, while its launch is there. -/
def State.posterOf (s : State) (o : Op) (depth prio : Nat) (desc : KDesc) : Option Poster :=
  (s.launch? o.launch).map (fun l =>
    { core := o.core, cx := o.cx, part := o.part, launch := o.launch, fn := l.fn, queue := l.queue, space := o.space, depth := depth,
      prio := prio, desc := desc })

/-- A launch's queue enters ERROR with SIGNAL_FAULT (R73). -/
def State.launchSignalFault (s : State) (id : Nat) : State :=
  match s.launch? id with
  | some l => s.queueError l.fn l.queue 5
  | none => s

/-- PARENT falls by one at its home, by a release atomic at device scope (R73), or is left as it is with SIGNAL_FAULT. -/
def State.parentLands (s : State) (o : Op) (addr : Nat) : State :=
  match s.page o.view addr true with
  | .miss g => s.waitPage o g
  | .fail _ => (((s.walkCheck o.view addr).launchSignalFault o.launch).finishOp o).launchCheck o.launch
  | .ok p =>
    let line := p.pa / 128
    let s := s.walkCheck o.view addr
    if isPeerPa p.pa then ((s.launchSignalFault o.launch).finishOp o).launchCheck o.launch
    else if s.lineBad line then (((s.checkLine line).launchSignalFault o.launch).finishOp o).launchCheck o.launch
    else if s.homeHeld none line (some o.core) || s.releaseHeld o.core line 4 then s.waitPage o none
    else
      let s := (s.homeTake o.core line).recordRelease o.core line 4
      let left := (leNat (s.homeBytes p.pa 8) + (2 ^ 64 - 1)) % 2 ^ 64
      ((s.homePut p.pa (toBytes 8 left)).finishOp o).launchCheck o.launch

/-- A claim (R98, R396): the takes of the groups that are free are applied at their homes, each by itself (R93), and what waits for them
goes on. Once all are done, its writes land. -/
def State.runClaim (s : State) (o : Op) (w : Wave) (d n kd : Nat) (keys : List (Nat × Nat)) (got : List (Nat × Bool × List Word)) : State :=
  match s.claimTakes w o.id n keys got (distinct (keys.map (fun e => e.2 / 64))) with
  | (s, [], got) => (s.landAll o (claimWrites d n kd got)).stirEstates o.part
  | (s, rest, got) =>
    let s := s.modOp o.id (fun o => { o with kind := .claim d n kd rest got })
    if rest.length = keys.length then s else s.stirEstates o.part

/-- ASYNC_WRITE_LANDS (R155). Nothing lands for a wave that leaves its core (R376). -/
def execAsyncWriteLands (s : State) : Host.Outcome State Fault Refusal :=
  .next (match s.op? s.input.op with
    | none => s
    | some o =>
      let cc := 192 * o.cx + o.core
      if o.waits ≠ [] ∨ s.portLost o.id then s
      else
        match o.kind with
        | .regs ws => if s.ownerLeaves o then s else s.landAll o ws
        | .report ws status result stopped bytes => if s.ownerLeaves o then s else s.complete o ws status result stopped bytes
        | .claim d n kd keys got =>
          match o.dropped, s.wave? o.uid with
          | false, some w => if w.leaving ∨ w.cx ≠ (s.part w.part).active then s else s.runClaim o w d n kd keys got
          | _, _ => (s.finishOp o).stirEstates o.part
        | .accz tile n => if s.accReady o tile n then (s.acczNow cc tile n).finishOp o else s
        | .accrd d tile g n ty acct rnd sat lanes z =>
          if s.accReady o tile 1 then s.landAll o (s.accrdWrites cc d tile g n ty acct rnd sat lanes z) else s
        | .accwr tile g n ty lanes vals => if s.accReady o tile 1 then (s.accwrNow cc tile g n ty lanes vals).finishOp o else s
        | .post card target missed depth prio desc =>
          match s.posterOf o depth prio desc with
          | none => s.finishOp o
          | some p =>
            match s.post p o.refused card target missed with
            | .wait g => s.waitPage o g
            | .done s => (s.finishOp o).launchCheck o.launch
        | .parent addr => s.parentLands o addr
        | .trapRecord fn q addr va bits => (s.dropOp o.id).writeRecord fn q addr va bits
        | .errSignal fn q addr => (s.dropOp o.id).errSignal fn q addr
        | _ => s)

/-- STORE_APPLIED (R259). Requests lost with a peer port end with it (R405). -/
def execStoreApplied (s : State) : Host.Outcome State Fault Refusal :=
  .next (match s.op? s.input.op with
    | some o => match o.kind with | .store => if s.portLost o.id then s else s.finishOp o | _ => s
    | none => s)

/-! ### Copies (R255, R268 to R271, R48) -/

/-- An operation copies into a scratchpad. -/
def OpKind.toSpad : OpKind → Bool
  | .copy _ _ _ d _ => d
  | .box d .. => d.sp
  | _ => false

def OpKind.copies : OpKind → Bool
  | .copy .. | .box .. => true
  | _ => false

/-- The jobs of an operation that copies. -/
def State.copyJob (s : State) (o : Op) (dsp ssp : Bool) : CopyJob :=
  { pins := o.pins, spads := o.spads, view := o.view, wave := s.wave? o.uid, dsp := dsp, ssp := ssp }
def State.boxJob (s : State) (o : Op) (dst src : Layout) (dc sc : List Int) : BoxJob :=
  { pins := o.pins, spads := o.spads, view := o.view, wave := s.wave? o.uid, dst := dst, src := src, dc := dc, sc := sc }

/-- A copy awaits a page, so that it may yet own more lines. -/
def State.copyAwaits (s : State) (o : Op) : Bool :=
  match o.kind with
  | .copy d a len dsp ssp => (match s.planCopy (s.copyJob o dsp ssp) len d a len [] with | .wait _ => true | _ => false)
  | .box dst src dc sc => (match s.planBox (s.boxJob o dst src dc sc) (List.range src.count) [] with | .wait _ => true | _ => false)
  | _ => false

/-- An earlier copy of the same wave may overlap this one's destination (R269): they are applied in issue order. -/
def State.copyBehind (s : State) (o : Op) : Bool :=
  s.ops.any (fun x => x.id < o.id && x.uid == o.uid && x.packet == o.packet && x.kind.copies &&
    (x.owned.any o.owned.contains || (x.kind.toSpad && o.kind.toSpad) || s.copyAwaits x))

/-- An engine performs a copy whole. -/
def State.runEngine (s : State) (o : Op) : EngineRun :=
  match o.kind with
  | .copy d a len dsp ssp => s.runCopy (s.copyJob o dsp ssp) d a len
  | .box dst src dc sc => s.runBox (s.boxJob o dst src dc sc)
  | _ => .done s { cause := 0, side := false, poison := false, bytes := 0 }

/-- The lines that an operation owns as far as its pages are there (R321): more when an awaited page has come. DEDUCED (log 31). -/
def State.owns (s : State) (o : Op) : List Nat :=
  match o.kind with
  | .copy d a len dsp ssp => (s.copyTaken (s.copyJob o dsp ssp) d a len).owned
  | .box dst src dc sc => (s.boxTaken (s.boxJob o dst src dc sc)).owned
  | .walk j => ((s.wave? o.uid).map (fun w => (s.walkTaken w o.view j).owned)).getD []
  | .bramble _ jobs .. => jobs.flatMap (s.gOwned o.view)
  | _ => []

/-- DONE of a COPY packet: its page. -/
def State.doneWord (s : State) (o : Op) : Option (Access Page) :=
  match o.packet.bind (fun k => s.packet? k.1 k.2.1 k.2.2) with
  | some (_, p) => if p.fld 376 320 = 0 then none else some (s.page o.view (p.fld 376 320) true)
  | none => none

/-- What the walk to DONE finds (R249). -/
def State.doneFound (s : State) (o : Op) : State :=
  match o.packet.bind (fun k => s.packet? k.1 k.2.1 k.2.2) with
  | some (_, p) => if p.fld 376 320 = 0 then s else s.walkCheck o.view (p.fld 376 320)
  | none => s

/-- DONE is not yet writable: its page is awaited, or an earlier operation owns its line. -/
def State.doneWaits (s : State) (o : Op) : Option (Option Nat) :=
  match s.doneWord o with
  | some (.miss g) => some g
  | some (.ok p) => if !isPeerPa p.pa && s.runHeld (some o.id) p.pa 8 then some none else none
  | _ => none

/-- A COPY packet's copy is over (R48): DONE is stored, the packet completes, and an early stop then puts the queue into
ERROR with COPY_FAULT. -/
def State.copyPacketDone (s : State) (o : Op) (x : Outcome) (fn q idx : Nat) : State :=
  let (s, lost) := match s.doneWord o with
    | some (.ok p) => ((s.doneFound o).cpStore o.space.fn p (toBytes 8 x.bytes), false)
    | some _ => (s.doneFound o, true)
    | none => (s, false)
  let fail := if x.cause ≠ 0 then 6 else if lost then 5 else 0
  let s := s.modQueue fn q (fun y => { y with packets := y.packets.map (fun (p : Packet) => if p.idx = idx then { p with fail := fail } else p) })
  (s.finishOp o).workDone fn q idx

/-- COPY_COMPLETE (R268): the engine's reads and writes, the release of its destination lines, those too whose pages have been mapped
since the issue (R321), and the completion. -/
def execCopyComplete (s : State) : Host.Outcome State Fault Refusal :=
  .next (match s.op? s.input.op with
    | none => s
    | some o =>
      if o.waits ≠ [] ∨ s.portLost o.id ∨ !o.kind.copies ∨ s.copyBehind o then s
      else
        match s.doneWaits o with
        | some g => s.waitPage o g
        | none =>
          let o := { o with owned := distinct (o.owned ++ s.owns o) }
          match s.runEngine o with
          | .wait g => s.waitPage o g
          | .done s x =>
            match o.packet with
            | some (fn, q, idx) => (s.copyPacketDone o x fn q idx).bramblesOwn
            | none =>
              let s := (s.completeWith o x).bramblesOwn
              (s.ops.filter (fun y => y.uid == o.uid && y.kind.copies && y.waits == [])).foldl
                (fun s y => s.dueOnce .copyComplete { op := y.id, core := 192 * y.cx + y.core }) s)

/-! ### Evictions (R253, R314, R315) -/

/-- L1_EVICT: dirty bytes go to the home as one write, and the line is gone. A write to a line that an engine owns waits (R321). -/
def execL1Evict (s : State) : Host.Outcome State Fault Refusal :=
  .next (
    let c := s.input.core; let line := s.input.addr
    match s.l1Find c line with
    | none => s
    | some x => if x.dirty ≠ 0 ∧ s.owned line then s.hold .l1Evict s.input else (s.writeBack c line).l1Drop c line)

/-- L2_EVICT: holders are recalled first; a system-memory line goes to the host and FLOOR rises past its version. An RDC loses its
copy of the line without more. -/
def execL2Evict (s : State) : Host.Outcome State Fault Refusal :=
  .next (
    let line := s.input.addr
    if s.input.slot ≠ 0 then s.rdcDrop (s.input.slot - 1) line
    else if s.homeHeld none line none then s.hold .l2Evict s.input
    else (s.recall line none).proxyDrop line)

/-! ### Translation answers (R247) -/

/-- A wave that waited for a page replays its instruction when the last of its pages has been answered; a page that the host has
refused, it then finds refused. -/
def Wave.pageCame (pasid page : Nat) (refused : Bool) (w : Wave) : Wave :=
  match w.life with
  | .parked (.page sp pages) =>
    if sp.pv ∧ sp.pasid = pasid ∧ pages.contains page then
      let rest := pages.filter (· != page)
      { w with life := if rest = [] then .ready else .parked (.page sp rest), refused := if refused then page :: w.refused else w.refused }
    else w
  | _ => w

/-- Everything of the CP and the engines that a page may have held up is looked at again; the engines own the lines of the page, those
of operations that have not come as far as to wait for it among them (R321). -/
def State.stirPages (s : State) (pasid page : Nat) (refused : Bool) : State :=
  let hit (o : Op) : Bool := o.space.pv && o.space.pasid == pasid && o.waits.contains page
  let due := s.ops.filter (fun o => hit o && (o.waits.filter (· != page)).isEmpty)
  let s := { s with ops := s.ops.map (fun (o : Op) =>
    if hit o then { o with waits := o.waits.filter (· != page), refused := if refused then page :: o.refused else o.refused } else o) }
  let s := { s with ops := s.ops.map (fun (o : Op) =>
    if o.space.pv && o.space.pasid == pasid then { o with owned := distinct (o.owned ++ s.owns o) } else o) }
  let s := due.foldl (fun s o => s.dueOnce o.kind.event { op := o.id, core := 192 * o.cx + o.core }) s
  let s := s.queues.foldl State.stirQueue s
  let s := s.serveFeeds
  let s := (s.bslots.filter (fun e => e.2.reload)).foldl (fun s e => s.dueOnce .bSlotReloadDone { core := e.1 / 2048, slot := e.1 % 2048 }) s
  ((List.range 16).filter (fun n => (s.part n).live)).foldl (fun s n => s.dueOnce .placementPass { part := n }) s

/-- PAGE_RESPONSE: a translation, or the host's failure to give one. A failure is met by whatever waited for the page, once; a later
miss asks again. DESIGN CHOICE (log 47). -/
def execPageResponse (s : State) : Host.Outcome State Fault Refusal :=
  .next (
    let key := (s.input.fn, s.input.addr)
    let s := { s with pageReqs := s.pageReqs.filter (· != key), atsFailed := s.atsFailed.filter (· != key) }
    let s := match s.input.grant with
      | some g => { s with ats := s.ats.filter (fun (e : (Nat × Nat) × PageGrant) => e.1 != key) ++ [(key, g)] }
      | none => { s with atsFailed := s.atsFailed ++ [key] }
    let refused := s.input.grant.isNone
    let s := { s with waves := s.waves.map (Wave.pageCame key.1 key.2 refused) }
    let s := s.stirPages key.1 key.2 refused
    if refused then { s with agenda := s.agenda ++ [.refusalOver key.1 key.2] } else s)

/-- The CP's waits have met the refusal of a page: it may be asked for again (R247). A pass of placement that is still due comes
first. -/
def State.refusalOver (s : State) (pasid page : Nat) : State :=
  if s.agenda.any (fun t => match t with | .ev .placementPass _ => true | _ => false) then
    { s with agenda := s.agenda ++ [.refusalOver pasid page] }
  else { s with atsFailed := s.atsFailed.filter (· != (pasid, page)) }

/-- Stores that stand in L1s reach their homes (R246, R314), but for lines that an engine owns. -/
def State.flushL1s (s : State) : State :=
  (distinct (s.l1.map (·.core))).foldl (fun s c => s.writeBackAll c ((s.dirtyLines c).filter (fun l => !s.owned l))) s

/-- ATS_INVALIDATION: the translations of a run of pages are gone, and the host's answer goes to hostOut once every access translated
through them has completed at its home (R246, R247). With op = 1 it is the wait for that. DESIGN CHOICE (log 47). -/
def execAtsInvalidation (s : State) : Host.Outcome State Fault Refusal :=
  .next (
    let hit (k : Nat × Nat) : Bool := k.1 == s.input.fn && decide (s.input.addr ≤ k.2) && decide (k.2 < s.input.addr + s.input.size)
    let s := if s.input.op = 0 then { s with ats := s.ats.filter (fun (e : (Nat × Nat) × PageGrant) => !hit e.1) } else s
    let s := s.flushL1s
    let posts := s.ops.any (fun o => o.space.pv && o.space.pasid == s.input.fn && o.kind.holdsAddress)
    if posts || s.l1.any (fun x => x.dirty != 0) then s.hold .atsInvalidation { s.input with op := 1 }
    else { s with hostOut := (toBytes 4 s.input.fn ++ toBytes 8 s.input.addr) :: s.hostOut })

end Sys2Proof.Machine
end

