-- ==== Sys2Proof/Machine/Context.lean ====
section
/-! DEFINITION. Partition context switches (R381 to R383, R106, R297, R322, R363, R369). -/

namespace Sys2Proof.Machine

/-- The CP orders the outgoing context to halt (R382): waiting quarters leave at once (R297). DEDUCED (log 43). -/
def State.beginSwitch (s : State) (part cx : Nat) : State :=
  let s := s.putPart part { s.part part with switching := some (cx, false) }
  let s := (s.partCores part).foldl (fun s c => s.stirMatrix (192 * (s.part part).active + c)) s
  s.dueOnce .contextHaltDone { part := part }

/-- PCSW (R381): 3, the active context, or a reserved bit leaves it without effect (R92). -/
def execPcsw (s : State) : Host.Outcome State Fault Refusal :=
  .next (
    let n := s.input.part; let p := s.part n; let c := s.input.value.toNat
    if n < 16 ∧ p.live ∧ !p.confidential ∧ p.switching = none ∧ c < 3 ∧ c ≠ p.active then s.beginSwitch n c else s)

/-- A context has an available packet or a saved wave (R381). -/
def State.hasWork (s : State) (part cx : Nat) : Bool :=
  s.waves.any (fun w => w.part == part && w.cx == cx && w.life != .preempted) ||
  s.queues.any (fun x => (x.state == .idle || x.state == .active) && x.ridx < x.widx &&
    (s.func x.fn).assigned && (s.func x.fn).part == part && (s.func x.fn).ctx == cx)

/-- CONTEXT_SLICE_EXPIRE (R381): the next context with work, in ascending order and wrapping. -/
def execContextSliceExpire (s : State) : Host.Outcome State Fault Refusal :=
  .next (
    let n := s.input.part; let p := s.part n
    if p.live ∧ p.slice ≠ 0 ∧ p.switching = none ∧ p.activeSince.toNat + p.slice.toNat ≤ s.dtime.toNat then
      match [(p.active + 1) % 3, (p.active + 2) % 3].find? (fun c => s.hasWork n c) with
      | some c => s.beginSwitch n c
      | none => s
    else s)

/-- The operation must end before the halt is complete (R382). A walk stops at a boundary between two K groups (R297), and what its
order on tiles and slots holds back stays with it: an `mmq` for as long as no quarter can enter a pass. Claims that wait, and the
CP's own writes that wait for a page, do not count. DEDUCED (log 43). -/
def State.haltWaits (s : State) (o : Op) : Bool :=
  match o.kind with
  | .walk j => s.allQuarters.any (fun q => q.opId == o.id) || j.stop != 0 || (j.pos == j.total && !j.epi)
  | .mmq => false
  | .accz t n => s.accReady o t n
  | .accrd _ t .. => s.accReady o t 1
  | .accwr t .. => s.accReady o t 1
  | .bload n _ _ => s.slotFree (192 * o.cx + o.core) o.id n && !s.reloading (192 * o.cx + o.core) n
  | .claim _ _ _ keys _ => !o.dropped && (s.wave? o.uid).any (fun w => keys.isEmpty || keys.any (fun e => !s.claimWaits w o.id [e]))
  | .post .. | .parent _ | .trapRecord .. | .errSignal .. => o.waits.isEmpty
  | _ => true

/-- A transfer of the estate that has begun (R106): one that waits for residue space has not. -/
def Block.underWay (b : Block) : Bool := b.loc == .moving && (b.taker.isSome || b.route != .resident)

/-- A wave keeps the halt waiting: it is inside an issue group, being taken off or restored, or its birth is under way. -/
def Wave.haltWaits (w : Wave) : Bool :=
  (w.life == .ready && w.grp != []) || w.chosen || w.life == .restoring || (w.life == .born && w.takes == [])

/-- Every step of the halt has ended (R106, R382). -/
def State.halted (s : State) (part : Nat) : Bool :=
  let cx := (s.part part).active
  !s.waves.any (fun w => w.part == part && w.cx == cx && w.haltWaits) && !s.ops.any (fun o => o.part == part && o.cx == cx && s.haltWaits o) &&
  !s.passes.any (fun p => p.1 / 192 == cx && (s.partCores part).contains (p.1 % 192)) &&
  (s.partCores part).all (fun c => (s.formPass (192 * cx + c)).1.isEmpty) &&
  !s.blocks.any (fun b => b.part == part && b.underWay) && !s.places.any (fun p => p.part == part && s.placeReady p)

/-- A wave as it is saved: its sealed stretch stops (R373), and an instruction that the firmware has not yet emulated has no effect and
traps again (R183). -/
def Wave.saved (now : DWord) (w : Wave) : Wave :=
  let w := { w with sealSince := now - w.sealSince }
  match w.life with
  | .parked (.emulate _) => { w with life := .ready }
  | _ => w

/-- CONTEXT_HALT_DONE (R383): dirty lines are written back and holder records removed (R322), the directory's caches too (R106), and
the save begins. A line that a stopped walk owns is written back with the others. DEDUCED (log 43). -/
def execContextHaltDone (s : State) : Host.Outcome State Fault Refusal :=
  .next (
    let n := s.input.part; let p := s.part n
    match p.switching with
    | some (c, false) =>
      if s.halted n then
        let cores := s.partCores n
        let s := cores.foldl (fun s k => s.writeBackAll k (s.dirtyLines k)) s
        let s := { s with holders := s.holders.filter (fun h => !cores.contains h.core),
                          waves := s.waves.map (fun (w : Wave) => if w.part = n ∧ w.cx = p.active then w.saved s.dtime else w) }
        let s := s.writeDirectory n
        (s.putPart n { s.part n with switching := some (c, true) }).dueOnce .contextRestoreDone { part := n }
      else s
    | _ => s)

/-- A restored wave (R335, R369, R373): its sealed stretch goes on, and a wait for a page is translated again. -/
def Wave.contextBack (now : DWord) (w : Wave) : Wave :=
  let w := { w with sealSince := now - w.sealSince }
  match w.life with
  | .parked (.page ..) => { w with life := .ready }
  | _ => w

/-- B slots of a core that are not EMPTY are reloaded from their tags (R297). -/
def State.reloadSlots (s : State) (cc : Nat) : State :=
  let mine := s.bslots.filter (fun e => e.1 / 2048 == cc && e.2.state != .empty)
  mine.foldl (fun (s : State) e =>
    (s.putSlot cc (e.1 % 2048) { e.2 with state := .loading, reload := e.2.held.isSome }).dueOnce .bSlotReloadDone { core := cc, slot := e.1 % 2048 }) s

/-- CONTEXT_RESTORE_DONE (R383): the incoming context is active, its waves issue and its packets are consumed. -/
def execContextRestoreDone (s : State) : Host.Outcome State Fault Refusal :=
  .next (
    let n := s.input.part; let p := s.part n
    match p.switching with
    | some (c, true) =>
      let s := s.putPart n { p with active := c, activeSince := s.dtime, switching := none }
      let s := { s with waves := s.waves.map (fun (w : Wave) => if w.part = n ∧ w.cx = c then w.contextBack s.dtime else w) }
      let s := (s.partCores n).foldl (fun s k => (s.reloadSlots (192 * c + k)).stirMatrix (192 * c + k)) s
      ((s.stirEstates n).stirQueues n).stirWaiting
    | _ => s)

end Sys2Proof.Machine
end

