-- ==== Sys2Proof/Machine/Device.lean ====
section
/-! DEFINITION. The host's registers (R29, R57, R58, R66, R92, R246, R254, R381, R401 to R404), partitions (R57), links and
peers (R319, R399 to R405), trust (R400, R406, R407), field life and power (R406 to R410), and pin faults (R380). -/

namespace Sys2Proof.Machine

/-! ### Bring-up and power (R406 to R410) -/

/-- The 64 signed bytes of an image header. -/
def imageHead (x : FirmwareImage) : List Byte :=
  toBytes 4 x.magic.toNat ++ toBytes 4 x.headerVersion.toNat ++ toBytes 4 x.securityVersion.toNat ++ toBytes 4 x.bodyLen.toNat ++
    toBytes 48 x.bodyDigest.toNat

/-- FIRMWARE_IMAGE_CHECK (R406): keys, both signatures, the digest of the body as long as the header says, and security version. -/
def imagePasses (x : FirmwareImage) : Bool :=
  Config.fusedSecurityVersion.toNat ≤ x.securityVersion.toNat &&
  Config.sha384 (x.body.take x.bodyLen.toNat) == x.bodyDigest && Config.sha384 (toBytes 32 x.edKey.toNat) == Config.fusedEdDigest &&
  Config.sha384 x.mlKey == Config.fusedMlDigest && Config.ed25519Verifies x.edKey (imageHead x) x.edSig &&
  Config.mlDsaVerifies x.mlKey (imageHead x) x.mlSig

/-- The device without its volatile state: what survives is the hosts' memory and tables, the links, the flash, the counters
and the schedule; the numbers that name objects go on, so that none is used twice. DESIGN CHOICE (log 5). DESIGN CHOICE (log 52). -/
def State.wiped (s : State) : State :=
  { State.reset with
    dtime := s.dtime, input := s.input, agenda := s.agenda, draws := s.draws, nextUid := s.nextUid, nextOp := s.nextOp,
    nextLaunch := s.nextLaunch, nextBlock := s.nextBlock, mem := s.mem.filter (fun c => decide (Config.dramBytes ≤ c.1)),
    ats := s.ats, links := s.links.map (fun (l : Link) => { l with trained := false }), life := s.life, lifeSaved := s.lifeSaved, power := s.power, flash := s.flash, msix := s.msix,
    hostOut := s.hostOut, peerOut := s.peerOut }

/-- The ROM starts an image, or enters recovery with none; the links train as they were, and link 0 enumerates (R406, R410).
DESIGN CHOICE (log 52). -/
def State.boot (s : State) (x : Option FirmwareImage) : State :=
  { s.wiped with running := x, power := if x.isSome then .running else .recovery,
                 links := s.links.map (fun (l : Link) => { l with trained := true }) }

/-- POWER_ON (R410): the first image that passes, slot A before slot B. A power cycle counts, and the counters are those
that were committed (R408). -/
def execPowerOn (s : State) : Host.Outcome State Fault Refusal :=
  .next (
    let s := if s.power = .off then { s with life := s.lifeSaved }.lifeAdd 1 else s
    s.boot ((s.flash.filterMap id).find? imagePasses))

/-- RECOVERY_IMAGE_LOAD (R406): in recovery, an image goes into a flash slot, and starts if it passes. -/
def execRecoveryImageLoad (s : State) : Host.Outcome State Fault Refusal :=
  .next (match s.input.img with
    | some x =>
      if s.power = .recovery ∧ s.input.slot < 2 then
        let s := { s with flash := s.flash.set s.input.slot (some x) }
        if imagePasses x then s.boot (some x) else s
      else s
    | none => s)

/-- LIFE_COMMIT (R408). -/
def execLifeCommit (s : State) : Host.Outcome State Fault Refusal := .next { s with lifeSaved := s.life }

/-- POWER_DOWN (R408): an orderly one commits the counters; volatile state is lost. -/
def execPowerDown (s : State) : Host.Outcome State Fault Refusal :=
  .next { s.wiped with lifeSaved := s.life, power := .off }

/-- POWER_ON_HOUR (R408): the hour counts, and so does the bin of its hottest junction. -/
def execPowerOnHour (s : State) : Host.Outcome State Fault Refusal :=
  .next ((s.lifeAdd 0).lifeAdd (0x10 + min 31 (s.input.size / 5)))

/-- THERMAL_THROTTLE (R409): one step of 100 MHz; the engine clock is half the arithmetic clock. Only timing changes. -/
def execThermalThrottle (s : State) : Host.Outcome State Fault Refusal :=
  .next { s with clockMHz := if 100 < s.clockMHz then s.clockMHz - 100 else s.clockMHz }

/-- THERMAL_TRIP (R409): power goes, no state is saved, the trip counts, and the hosts see the links down. -/
def execThermalTrip (s : State) : Host.Outcome State Fault Refusal :=
  .next (
    let t := s.lifeAdd 2
    { t.wiped with lifeSaved := kvPut 0 s.lifeSaved 2 (kvGet 0 t.life 2), power := .off,
                   clockMHz := 3300 })

/-! ### Links and peers (R319, R399 to R405) -/

/-- PCIE_LINK_TRAIN (R399): x16, x8 or x4, at a rate from 2.5 to 128 GT/s; a retrain counts. -/
def execPcieLinkTrain (s : State) : Host.Outcome State Fault Refusal :=
  .next (
    let n := s.input.port; let w := s.input.slot; let r := s.input.size
    match s.links[n]? with
    | some l =>
      if (w = 16 ∨ w = 8 ∨ w = 4) ∧ 25 ≤ r ∧ r ≤ 1280 then
        let s := if l.trained then s.lifeAdd (0x50 + n) else s
        { s with links := s.links.set n { l with trained := true, width := w, rate := r } }
      else s
    | none => s)

/-- Some valid window names an identity on a port (R402). -/
def State.windowNames (s : State) (port peer : Nat) : Bool :=
  s.funcs.any (fun f => f.windows.any (fun w => w.2.v && w.2.port == port && w.2.peer == peer))

/-- The translations of pages that lie behind a port stay in force for the operations that use it (R405). -/
def Op.heldAt (win : Nat → Option Nat) (n : Nat) (o : Op) : Op :=
  { o with pins := o.pins.map (fun (p : Pin) => if isPeerPa p.pa && win p.pa == some n then { p with held := true } else p) }

/-- A port that was up goes down (R405): requests already sent on it are lost, and end 50 µs from now. -/
def State.portDown (s : State) (n : Nat) (p : Port) : State :=
  if !p.up then s
  else
    let win (o : Op) (pa : Nat) : Option Nat := (s.importWindow o.space.fn pa).map (·.port)
    let ops := s.ops.map (fun (o : Op) => if p.outstanding.contains o.id then o.heldAt (win o) n else o)
    let down : Port := { p with up := false, outstanding := [], lost := p.lost ++ p.outstanding.map (fun id => (id, s.dtime + 50000)) }
    { s with ops := ops, ports := s.ports.set n down }

/-- PEER_PORT_TRAIN (R402, R403): the neighbour's identity is recorded; the port comes up only for a window that names it. -/
def execPeerPortTrain (s : State) : Host.Outcome State Fault Refusal :=
  .next (
    let n := s.input.port; let peer : Half := s.input.value.truncate 16
    match s.ports[n]? with
    | some p =>
      let up := s.peerId != 0 && peer != 0 && peer != s.peerId && s.windowNames n peer.toNat
      let s := if p.trained then s.lifeAdd (0x40 + n) else s
      let s := if up then s else s.portDown n p
      let p := s.ports.getD n p
      { s with ports := s.ports.set n { p with up := up, neighbour := peer, trained := true } }
    | none => s)

/-- PEER_PORT_DOWN (R405): requests already sent wait 50 µs. -/
def execPeerPortDown (s : State) : Host.Outcome State Fault Refusal :=
  .next (match s.ports[s.input.port]? with
    | some p => s.portDown s.input.port p
    | none => s)

/-- An outstanding read of a peer returns poisoned data (R251, R405): its wave takes POISON at the load; the address and
lanes that the record gives are free values. -/
def State.peerPoison (s : State) (o : Op) : State :=
  let s := s.finishOp o
  match o.dropped, s.wave? o.uid with
  | false, some w =>
    match w.life with
    | .ready | .parked _ =>
      let a := pairOf (Config.freeWord s.draws) (Config.freeWord (s.draws + 1))
      let l := pairOf (Config.freeWord (s.draws + 2)) (Config.freeWord (s.draws + 3))
      { s with draws := s.draws + 4 }.takeTrap w.afterPark { cause := 0x0C, pc := some o.pc, addr := a, lanes := l, detail := lowDetail l, classed := true }
    | _ => s
  | _, _ => s

/-- The engine event of an operation, run now. -/
def State.runNow (s : State) (o : Op) (f : State → Host.Outcome State Fault Refusal) : State :=
  match f { s with input := { op := o.id, core := 192 * o.cx + o.core } } with
  | .next t => { t with input := s.input }
  | _ => s

/-- An operation whose requests a port has lost ends: a load is poisoned, an engine reads poisoned data there and its writes are
dropped, and what only wrote has nothing more to do. -/
def State.lostOp (s : State) (o : Op) : State :=
  match o.kind with
  | .copy .. | .box .. => s.runNow o execCopyComplete
  | .bload .. => s.runNow o execBloadComplete
  | .bramble .. => s.runNow o execBrambleComplete
  | .walk _ => s.dueOnce o.kind.event { op := o.id, core := 192 * o.cx + o.core }
  | .store => s.finishOp o
  | _ => s.peerPoison o

/-- PEER_DOWN_TIMEOUT (R405): what requests lost 50 µs ago belong to ends, with the port down for it. -/
def execPeerDownTimeout (s : State) : Host.Outcome State Fault Refusal :=
  .next (match s.ports[s.input.port]? with
    | some p =>
      let n := s.input.port
      let ended := (p.lost.filter (fun e => decide (e.2.toNat ≤ s.dtime.toNat))).map Prod.fst
      let s' : State := { s with ports := s.ports.set n { p with up := false, lost := p.lost.filter (fun e => !ended.contains e.1) } }
      let t := (s.ops.filter (fun o => ended.contains o.id)).foldl State.lostOp s'
      { t with ports := t.ports.modify n (fun (q : Port) => { q with up := p.up }) }
    | none => s)

/-- Bytes of DRAM lie in the slice of a confidential partition other than through function `via`'s own stream (R400). -/
def State.sealedBytes (s : State) (addr n via : Nat) : Bool :=
  s.parts.zipIdx.any (fun e =>
    e.1.live && e.1.confidential && decide (addr < (e.1.dbase + e.1.dsize) * 2 ^ 30) && decide (e.1.dbase * 2 ^ 30 < addr + n) &&
    !(via != 0 && (s.func via).assigned && (s.func via).part == e.2 && (s.func via).tdi != .unlocked))

/-- An outgoing range admits a peer's request (R404). -/
def State.exportOk (s : State) (peer addr n : Nat) (write : Bool) : Bool :=
  s.funcs.any (fun f => f.windows.any (fun w => w.2.v && w.2.dir && w.2.peer == peer && (w.2.w || !write) &&
    decide (w.2.pbase ≤ addr) && decide (addr + n ≤ w.2.pbase + 2 ^ w.2.logsize))) &&
  decide (addr + n ≤ Config.dramBytes) && !s.sealedBytes addr n 0

/-- A write that comes over a link reaches its homes (R250, R251, R319): data marked as poisoned poison the lines. -/
def State.linkWrite (s : State) (a : Nat) (data : List Byte) (bad : Bool) : State :=
  let s := s.homeRun a data
  if bad then (linesOf a data.length).foldl State.setPoison s else s

/-- A read that comes over a link is answered in hostOut, once holders are recalled (R316, R319) and each line is checked (R250);
poisoned data as no bytes. -/
def State.linkRead (s : State) (a n : Nat) : State :=
  let (s, b) := s.homeLoad a n
  let s := (linesOf a n).foldl State.checkLine s
  { s with hostOut := (if (linesOf a n).any s.poisoned then [] else b) :: s.hostOut }

/-- A turn of the same event waits already, so that arrival order stands (R319). -/
def State.queuedBefore (s : State) (i : Instr) (port : Nat) : Bool :=
  s.waiting.any (fun t => match t with | .ev j inp => j == i && inp.port == port | _ => false)

/-- PEER_REQUEST_IN (R404, R405): applied at its home, or dropped; a read is answered in hostOut. One that reaches a line which an
engine owns waits (R321), and what the port brings after it. -/
def execPeerRequestIn (s : State) : Host.Outcome State Fault Refusal :=
  .next (match s.ports[s.input.port]? with
    | some p =>
      let n := if s.input.write then s.input.data.length else s.input.size
      if !p.up then s
      else if s.exportOk p.neighbour.toNat s.input.addr n s.input.write then
        if s.runHeld none s.input.addr n || s.queuedBefore .peerRequestIn s.input.port then s.hold .peerRequestIn s.input
        else if s.input.write then s.linkWrite s.input.addr s.input.data (s.input.slot == 1)
        else s.linkRead s.input.addr n
      else
        let s := s.lifeAdd 0x62
        if s.input.write then s else { s with hostOut := [] :: s.hostOut }
    | none => s)

/-- HOST_WRITE_IN (R319): a posted write at its home; one that reaches a line which an engine owns waits (R321). The host's own
memory it writes past the device's caches (R253), and a write of a whole line ends its poison (R251). DEDUCED (log 49). -/
def execHostWriteIn (s : State) : Host.Outcome State Fault Refusal :=
  .next (
    let a := s.input.addr; let n := s.input.data.length
    if Config.sysBase ≤ a then
      if a + n ≤ Config.peerBase then
        let whole := (linesOf a n).filter (fun l => decide (a ≤ l * 128) && decide (l * 128 + 128 ≤ a + n))
        { s with mem := memPutAll s.mem a s.input.data, poison := whole.foldl (fun m l => kvPut false m l false) s.poison }
      else s
    else if Config.dramBytes < a + n ∨ s.sealedBytes a n s.input.fn then s
    else if s.runHeld none a n then s.hold .hostWriteIn s.input
    else s.linkWrite a s.input.data s.input.write)

/-- Device memory read by the host; none of a sealed slice is given (R400). -/
def State.hostMemRead (s : State) (a n : Nat) : State :=
  if Config.dramBytes < a + n then s
  else if s.sealedBytes a n s.input.fn then { s with hostOut := [] :: s.hostOut }
  else if s.runHeld none a n then s.hold .hostReadIn s.input
  else s.linkRead a n

/-! ### Partitions (R57) -/

def State.partErr (s : State) (n e : Nat) : State := s.putPart n { s.part n with err := e }

/-- CREATE in NONE: the first check that fails (R57), or 0. -/
def State.createCheck (s : State) (n : Nat) : Nat :=
  let p := s.part n
  let live := (s.parts.zipIdx).filter (fun e => e.1.live && e.2 != n)
  if p.clusters = 0 ∨ live.any (fun e => e.1.clusters &&& p.clusters != 0) then 1
  else if p.dsize = 0 ∨ 384 < p.dbase + p.dsize ∨
      live.any (fun e => decide (e.1.dbase < p.dbase + p.dsize) && decide (p.dbase < e.1.dbase + e.1.dsize)) then 2
  else 0

/-- A barrier group that lies in a partition. -/
def GroupKey.inPart (k : GroupKey) (n clusters : Nat) : Bool :=
  if k.level ≤ 1 then clusters.testBit k.place else if k.level = 2 then k.place / 4 == n else k.place == n

/-- A partition begins or ends with nothing of its own (R57). -/
def State.clearPart (s : State) (n : Nat) : State :=
  let p := s.part n
  let mine (cc : Nat) : Bool := p.clusters.testBit (coreCluster (cc % 192))
  { s with domains := s.domains.filter (fun e => e.1 / 4096 != n), blocks := s.blocks.filter (fun b => b.part != n),
           places := s.places.filter (fun x => x.part != n), cohorts := s.cohorts.filter (fun c => !c.key.inPart n p.clusters),
           groups := s.groups.filter (fun g => !g.key.inPart n p.clusters), feeds := s.feeds.filter (fun f => f.part != n),
           bslots := s.bslots.filter (fun e => !mine (e.1 / 2048)), sems := s.sems.filter (fun e => !mine (e.1 / 64)),
           cards := s.cards.filter (fun e => !mine e.1), waves := s.waves.filter (fun w => w.part != n) }

/-- PCTL_CREATE (R57): registers keep their values; RESVIDX begins at RESWIDX, which it never lies below. DEDUCED (log 59). -/
def execPctlCreate (s : State) : Host.Outcome State Fault Refusal :=
  .next (
    let n := s.input.part; let p := s.part n
    if 16 ≤ n ∨ p.confidential then s
    else if p.live then s.partErr n 4
    else if s.createCheck n ≠ 0 then s.partErr n (s.createCheck n)
    else
      (s.clearPart n).putPart n { p with live := true, err := 0, active := 0, activeSince := s.dtime, switching := none, heap := [], making := none, resVidx := p.resWidx })

/-- PCTL_DESTROY (R57). -/
def execPctlDestroy (s : State) : Host.Outcome State Fault Refusal :=
  .next (
    let n := s.input.part; let p := s.part n
    if 16 ≤ n ∨ p.confidential then s
    else if !p.live then s.partErr n 4
    else if s.funcs.any (fun f => f.assigned && f.part == n) then s.partErr n 3
    else (s.clearPart n).putPart n { p with live := false, err := 0, making := none })

/-! ### Registers (R58, R66, R92, R246, R254, R378, R381, R400 to R409) -/

/-- The estate registers may be written (R92): no waves, and every domain CLOSED. -/
def State.estateOpen (s : State) (n : Nat) : Bool :=
  !s.waves.any (fun w => w.part == n) && !s.domains.any (fun e => e.1 / 4096 == n && e.2.state != .closed)

def isPow2 (v : Nat) : Bool := v != 0 && 2 ^ v.log2 == v

/-- A write to a register of partition p's block at an offset (R57, R66, R92, R378, R381): none where it is ignored. -/
def State.partWrite (s : State) (n off : Nat) (d : DWord) : Option Part :=
  let p := s.part n; let v := d.toNat
  let word : Bool := decide (v < 2 ^ 32)
  let addr (align : Nat) : Bool := decide (v < 2 ^ 57) && v % align == 0
  let est := s.estateOpen n
  let ok (b : Bool) (q : Part) : Option Part := if b then some q else none
  match off with
  | 0x00 => ok word { p with affwin := d.truncate 32 }
  | 0x08 => ok word { p with bflim := d.truncate 32 }
  | 0x10 => ok (est && addr 8192) { p with orchBase := d }
  | 0x18 => ok (est && word) { p with orchSlots := d.truncate 32 }
  | 0x20 => ok (est && addr 4096) { p with resBase := d }
  | 0x28 => ok (est && word && v % 4096 == 0 && (v == 0 || decide (16384 ≤ v))) { p with resSize := d.truncate 32 }
  | 0x40 => ok (est && addr 4096) { p with dirBase := d }
  | 0x48 => ok (est && word && isPow2 v) { p with dirSize := d.truncate 32 }
  | 0x50 => ok (est && addr 65536) { p with bstore := d }
  | 0x58 => ok (est && addr 65536) { p with ckBase := d }
  | 0x60 => ok word { p with slice := d.truncate 32 }
  | 0x70 => ok (!p.live && decide (v < 2 ^ 24)) { p with clusters := v }
  | 0x78 => ok (!p.live && decide (v < 384)) { p with dbase := v }
  | 0x80 => ok (!p.live && decide (1 ≤ v) && decide (p.dbase + v ≤ 384)) { p with dsize := v }
  | _ => none

/-- Half of a region-class entry (R254). -/
def classWrite (r : RegionClass) (high : Bool) (v : Nat) : Option RegionClass :=
  if high then
    if bitsOf v 63 57 = 0 ∧ bitsOf v 11 8 = 0 ∧ bitsOf v 7 1 ≤ 64 then
      some { r with v := bitOf v 0, func := bitsOf v 7 1, limitPage := bitsOf v 56 12 }
    else none
  else if bitsOf v 63 57 = 0 ∧ bitsOf v 11 8 = 0 then some { r with basePage := bitsOf v 56 12, cls := bitsOf v 7 0 }
  else none

/-- The halves of a region-class entry as they read (R254). -/
def RegionClass.low (r : RegionClass) : Nat := r.cls + r.basePage * 4096
def RegionClass.high (r : RegionClass) : Nat := (if r.v then 1 else 0) + r.func * 2 + r.limitPage * 4096

/-- No queue of a function is enabled. -/
def State.noneEnabled (s : State) (fn : Nat) : Bool := !s.queues.any (fun x => x.fn == fn && x.state != .disabled)

/-- A partition becomes confidential, and its slice has a key (R400). DEDUCED (log 50). -/
def State.sealPart (s : State) (n : Nat) : State :=
  if (s.part n).confidential then s
  else ({ s with draws := s.draws + 1 }).putPart n { s.part n with confidential := true, sliceKey := Config.freeKey s.draws }

/-- A write to FNPART of function f (R58). -/
def State.fnpartWrite (s : State) (f v : Nat) : State :=
  let x := s.func f; let part := bitsOf v 3 0; let ctx := bitsOf v 5 4; let on := bitOf v 8
  if 2 ^ 9 ≤ v ∨ bitsOf v 7 6 ≠ 0 ∨ ctx = 3 ∨ (on ∧ !(s.part part).live) ∨ !s.noneEnabled f ∨ (x.assigned ∧ (s.part x.part).confidential) then s
  else
    let s := s.putFunc f { x with assigned := on, ctx := ctx, part := part }
    if on ∧ x.tdi ≠ .unlocked then s.sealPart part else s

/-- FNPART as it reads. -/
def Func.fnpart (f : Func) : Nat := f.part + f.ctx * 16 + (if f.assigned then 256 else 0)

def emptyWindow : PeerWindow := { v := false, w := false, dir := false, peer := 0, port := 0, logsize := 0, pbase := 0 }

/-- Half of a peer window entry (R404). -/
def windowWrite (w : PeerWindow) (high : Bool) (v : Nat) : PeerWindow :=
  if high then { w with pbase := bitsOf v 56 0 }
  else { w with v := bitOf v 0, w := bitOf v 2, dir := bitOf v 3, peer := bitsOf v 47 32, port := bitsOf v 51 48, logsize := bitsOf v 63 58 }

/-- The halves of a peer window entry as they read. -/
def PeerWindow.low (w : PeerWindow) : Nat :=
  (if w.v then 1 else 0) + (if w.w then 4 else 0) + (if w.dir then 8 else 0) + w.peer * 2 ^ 32 + w.port * 2 ^ 48 + w.logsize * 2 ^ 58
def PeerWindow.high (w : PeerWindow) : Nat := w.pbase

def State.windowStore (s : State) (f n : Nat) (high : Bool) (v : Nat) : State :=
  let x := s.func f
  if x.assigned ∧ (s.part x.part).confidential then s
  else s.putFunc f { x with windows := kvPut emptyWindow x.windows n (windowWrite (kvGet emptyWindow x.windows n) high v) }

/-- Bits of LINK1MAP from bit i on (R401). -/
def mapBits (m : KV Bool) (i v : Nat) : Nat → KV Bool
  | 0 => m
  | n + 1 => mapBits (kvPut false m (i + n) (bitOf v n)) i v n

/-- A register of the physical function alone. DEDUCED (log 48). -/
def State.physWrite (s : State) (off size : Nat) (d : DWord) : State :=
  let v := d.toNat
  if 0x20000 ≤ off ∧ off < 0x21000 then
    let n := (off - 0x20000) / 0x100
    let wide := size = 8 ∨ (size = 4 ∧ [0x00, 0x08, 0x18, 0x28, 0x48, 0x60, 0x70, 0x78, 0x80].contains (off % 0x100))
    if (s.part n).confidential ∨ !wide then s
    else match s.partWrite n (off % 0x100) d with | some p => s.putPart n p | none => s
  else if 0x21000 ≤ off ∧ off < 0x22000 then
    let n := (off - 0x21000) / 0x100; let i := off % 0x100 / 16
    let p := s.part n
    if size ≠ 8 ∨ off % 8 ≠ 0 ∨ p.confidential then s
    else
      match p.classes[i]? with
      | some r => match classWrite r (off % 16 == 8) v with | some r' => s.putPart n { p with classes := p.classes.set i r' } | none => s
      | none => s
  else if 0x22000 ≤ off ∧ off < 0x22000 + 8 * 65 then
    if size = 4 ∧ off % 8 = 0 then s.fnpartWrite ((off - 0x22000) / 8) v else s
  else if off = 0x30100 ∧ size = 4 then { s with lifeIdx := d.truncate 32 }
  else if off = 0x30200 ∧ size = 4 then (if v ≤ 3600 then { s with pcap := d.truncate 32 } else s)
  else if off = 0x30300 ∧ size = 4 then (if s.ports.any (·.up) then s else { s with peerId := d.truncate 16 })
  else if 0x38000 ≤ off ∧ off + size ≤ 0x39000 then { s with link1Map := mapBits s.link1Map (8 * (off - 0x38000)) v (8 * size) }
  else if 0x40000 ≤ off ∧ off < 0x40000 + 0x400 * 65 then
    if size = 8 ∧ off % 8 = 0 then s.windowStore ((off - 0x40000) / 0x400) (off % 0x400 / 16) (off % 16 == 8) v else s
  else s

/-- REGISTER_WRITE (R92): a write to a register that has no event of its own. -/
def execRegisterWrite (s : State) : Host.Outcome State Fault Refusal :=
  .next (
    let f := s.input.fn; let off := s.input.addr; let size := s.input.size; let d := s.input.value
    if 65 ≤ f ∨ !([1, 2, 4, 8].contains size) ∨ off % size ≠ 0 then s
    else if 0x10000 ≤ off ∧ off < 0x11000 ∧ off % 16 = 0 then
      if size = 8 then (s.ensureQueue f ((off - 0x10000) / 16)).modQueue f ((off - 0x10000) / 16) (fun x => { x with qdescAddr := d }) else s
    else if off = 0x30000 then
      if size = 8 ∧ s.noneEnabled f then s.putFunc f { s.func f with dptRoot := BitVec.ofNat 64 (bitsOf d.toNat 56 12 * 4096) } else s
    else if f = 0 then s.physWrite off size d
    else s)

/-! ### Reading registers (R29, R33, R403, R408) -/

/-- The register of a partition's block at an offset (R57, R66, R92, R378, R381); one that is only written reads 0. -/
def Part.reg (p : Part) (off : Nat) : Nat :=
  match off with
  | 0x00 => p.affwin.toNat
  | 0x08 => p.bflim.toNat
  | 0x10 => p.orchBase.toNat
  | 0x18 => p.orchSlots.toNat
  | 0x20 => p.resBase.toNat
  | 0x28 => p.resSize.toNat
  | 0x30 => p.resWidx.toNat
  | 0x38 => p.resRidx.toNat
  | 0x40 => p.dirBase.toNat
  | 0x48 => p.dirSize.toNat
  | 0x50 => p.bstore.toNat
  | 0x58 => p.ckBase.toNat
  | 0x60 => p.slice.toNat
  | 0x70 => p.clusters
  | 0x78 => p.dbase
  | 0x80 => p.dsize
  | 0x88 => (if p.live then 1 else 0) + p.err * 16
  | _ => 0

/-- QDESC and QCMD of a queue (R29). -/
def Queue.reg (x : Queue) (off : Nat) : Nat := if off = 0 then x.qdescAddr.toNat else x.state.code

/-- The physical function's registers: the eight bytes at an offset. -/
def State.physReg (s : State) (off : Nat) : Nat :=
  if 0x20000 ≤ off ∧ off < 0x21000 then (s.part ((off - 0x20000) / 0x100)).reg (off % 0x100)
  else if 0x21000 ≤ off ∧ off < 0x22000 then
    match (s.part ((off - 0x21000) / 0x100)).classes[off % 0x100 / 16]? with
    | some r => if off % 16 = 0 then r.low else r.high
    | none => 0
  else if 0x22000 ≤ off ∧ off < 0x22000 + 8 * 65 then (s.func ((off - 0x22000) / 8)).fnpart
  else if off = 0x30100 then s.lifeIdx.toNat
  else if off = 0x30108 then (s.lifeRead s.lifeIdx.toNat).toNat
  else if off = 0x30200 then s.pcap.toNat
  else if off = 0x30300 then s.peerId.toNat
  else if 0x30308 ≤ off ∧ off < 0x30308 + 8 * 16 then
    match s.ports[(off - 0x30308) / 8]? with
    | some p => p.neighbour.toNat + (if p.up then 2 ^ 16 else 0)
    | none => 0
  else if 0x38000 ≤ off ∧ off < 0x39000 then
    (List.range 64).foldl (fun a i => a + (if kvGet false s.link1Map (8 * (off - 0x38000) + i) then 2 ^ i else 0)) 0
  else if 0x40000 ≤ off ∧ off < 0x40000 + 0x400 * 65 then
    let w := kvGet emptyWindow (s.func ((off - 0x40000) / 0x400)).windows (off % 0x400 / 16)
    if off % 16 = 0 then w.low else w.high
  else 0

/-- The eight bytes of function f's BAR0 at an offset that is a multiple of 8. -/
def State.barReg (s : State) (f off : Nat) : Nat :=
  if 0x10000 ≤ off ∧ off < 0x11000 then
    ((s.queue? f ((off - 0x10000) / 16)).getD (Queue.fresh f ((off - 0x10000) / 16))).reg (off % 16)
  else if off = 0x30000 then (s.func f).dptRoot.toNat
  else if off = 0x30010 then (if (s.func f).busy then 1 else 0) + (if (s.func f).drop then 2 else 0)
  else if f = 0 then s.physReg off
  else 0

/-- n bytes of function f's BAR0 from an offset on. -/
def State.barBytes (s : State) (f off n : Nat) : List Byte :=
  (List.range n).map (fun i => (toBytes 8 (s.barReg f ((off + i) / 8 * 8))).getD ((off + i) % 8) 0)

/-- n bytes of a queue's notify page from an offset on (R33): the accepted write index, the status word, and zeros. -/
def Queue.notifyBytes (x : Queue) (off n : Nat) : List Byte :=
  (List.range n).map (fun i => (toBytes 16 (x.widx % 2 ^ 64 + x.status.toNat * 2 ^ 64)).getD (off + i) 0)

/-- HOST_READ_IN (R29, R33, R319): device memory, or, as its port says, registers or a notify page. Reading DPTSTAT clears DROP (R246).
DESIGN CHOICE (log 14). -/
def execHostReadIn (s : State) : Host.Outcome State Fault Refusal :=
  .next (
    let f := s.input.fn; let a := s.input.addr; let n := s.input.size
    match s.input.port with
    | 0 => s.hostMemRead a n
    | 1 =>
      if 65 ≤ f then s
      else
        let t := if a ≤ 0x30010 ∧ 0x30010 < a + n then s.putFunc f { s.func f with drop := false } else s
        { t with hostOut := s.barBytes f a n :: s.hostOut }
    | 2 =>
      if 65 ≤ f ∨ 256 ≤ s.input.queue then s
      else { s with hostOut := ((s.queue? f s.input.queue).getD (Queue.fresh f s.input.queue)).notifyBytes a n :: s.hostOut }
    | _ => s)

/-- RESRIDX_WRITE (R92): records passed leave the directory, and waiting writers go on. -/
def execResridxWrite (s : State) : Host.Outcome State Fault Refusal :=
  .next (
    let n := s.input.part; let p := s.part n; let v := s.input.value.toNat
    if 16 ≤ n ∨ p.confidential ∨ v % 64 ≠ 0 ∨ p.resWidx.toNat < v then s
    else
      (s.putPart n { p with resRidx := s.input.value }).stirEstates n)

/-! ### Invalidation (R246, R379, R380) -/

/-- An invalidation by the physical function's driver, of a function of a confidential partition, is ignored (R400). -/
def State.dptBarred (s : State) (f : Nat) : Bool :=
  (f == 0 || s.input.write) && (s.func f).assigned && (s.part (s.func f).part).confidential

/-- The operations that own lines which stand dirty in an L1: their write-back waits (R321). -/
def State.dirtyOwners (s : State) : List Nat :=
  (s.ops.filter (fun o => s.l1.any (fun x => x.dirty != 0 && o.owned.contains x.line))).map (·.id)

/-- A run of n pages from lo on holds a page that was translated with PIN = 1 (R379), by an operation or into a translation buffer. -/
def State.rangePinned (s : State) (f lo n : Nat) : Bool :=
  s.ops.any (fun o => o.space.fn == f && !o.space.pv && o.pins.any (fun p => p.pin && decide (lo ≤ p.page) && decide (p.page < lo + n))) ||
  s.tlb.any (fun e => e.fn == f && e.page.pin && decide (e.first < lo + n) && decide (lo < e.first + e.pages))

/-- DPTINV of n pages from lo on (R246, R379): their translations leave every buffer. A range with a pinned page leaves them in force
for the tile operations in flight. BUSY stays set until these have completed, and every other access translated through the old
entries: stores that stand in an L1 are written back, requests to peers are answered, and posts of cards, which hold MISSED's address,
are made. DESIGN CHOICE (log 47). -/
def State.invalidatePages (s : State) (f lo n : Nat) : State :=
  let x := s.func f
  if 65 ≤ f ∨ s.dptBarred f then s
  else if x.busy then s.putFunc f { x with drop := true }
  else
    let within (p : Pin) : Bool := decide (lo ≤ p.page) && decide (p.page < lo + n)
    let pinned := s.rangePinned f lo n
    let tile (o : Op) : Bool := pinned && o.space.fn == f && !o.space.pv && o.pins.any within
    let waits := s.ops.filter (fun o => tile o || (o.space.fn == f && (s.ports.any (fun p => p.outstanding.contains o.id) ||
      (!o.space.pv && o.kind.holdsAddress))))
    let s := { s with tlb := s.tlb.filter (fun e => !(e.fn == f && decide (e.first < lo + n) && decide (lo < e.first + e.pages))),
                      ops := s.ops.map (fun (o : Op) =>
                        if tile o then { o with pins := o.pins.map (fun (p : Pin) => if within p then { p with held := true } else p) } else o) }
    let s := s.flushL1s
    (s.putFunc f { x with busy := true, busySince := s.dtime, busyOps := distinct (waits.map (·.id) ++ s.dirtyOwners) }).dueOnce
      .dptinvBusyClear { fn := f }

/-- DPTINV_PAGE (R246): SIZE 0 to 3. -/
def execDptinvPage (s : State) : Host.Outcome State Fault Refusal :=
  .next (
    let n := [1, 16, 512, 262144].getD s.input.size 0
    if n = 0 then s else s.invalidatePages s.input.fn (bitsOf s.input.value.toNat 56 12 / n * n) n)

/-- DPTINV_ALL (R246): SIZE 4. -/
def execDptinvAll (s : State) : Host.Outcome State Fault Refusal := .next (s.invalidatePages s.input.fn 0 (2 ^ 45))

/-- DPTINV_BUSY_CLEAR (R246, R379): what was waited for has completed, and no store that an engine holds up is left. -/
def execDptinvBusyClear (s : State) : Host.Outcome State Fault Refusal :=
  .next (
    let f := s.input.fn
    if f < 65 ∧ (s.func f).busy then
      let s := s.flushL1s
      let left := (s.func f).busyOps.filter (fun id => s.ops.any (fun o => o.id == id))
      let owners := s.dirtyOwners
      s.putFunc f { s.func f with busy := !(left ++ owners).isEmpty || s.l1.any (fun x => x.dirty != 0 && s.owned x.line),
                                  busyOps := distinct (left ++ owners) }
    else s)

/-- DPTSTAT_READ (R246): BUSY and DROP, which reading clears. -/
def execDptstatRead (s : State) : Host.Outcome State Fault Refusal :=
  .next (
    let f := s.input.fn; let x := s.func f
    if 65 ≤ f then s
    else { s.putFunc f { x with drop := false } with
      hostOut := toBytes 4 ((if x.busy then 1 else 0) + (if x.drop then 2 else 0)) :: s.hostOut })

/-- Every wave on the cores is halted with a record (R380); one that is PREEMPTED or saved cannot retire (R390). -/
def State.haltWaves (s : State) (t : Trap) : List Nat → State
  | [] => s
  | u :: r =>
    (match s.wave? u with
     | some w => if w.halted ∨ w.life = Life.preempted ∨ w.cx ≠ (s.part w.part).active then s else s.haltWave w.afterPark t
     | none => s).haltWaves t r

/-- PIN_FAULT (R380): 50,000 ticks after the DPTINV write. -/
def execPinFault (s : State) : Host.Outcome State Fault Refusal :=
  .next (
    let f := s.input.fn; let x := s.func f
    if f < 65 ∧ x.busy ∧ x.busySince.toNat + 50000 ≤ s.dtime.toNat then
      let stopped := s.ops.filter (fun o => x.busyOps.contains o.id && o.pins.any (·.held))
      let goes (q : Quarter) : Bool := !stopped.any (fun o => o.id == q.opId)
      let passes : List (Nat × List Quarter) := (s.passes.map (fun p => (p.1, p.2.filter goes))).filter (fun p => p.2 != [])
      let s := { s with quarters := s.quarters.filter goes, passes := passes }
      let s := s.haltWaves { cause := 0x09, fsub := 3 } ((s.waves.filter (fun w => w.part == x.part)).map (·.uid))
      let s := stopped.foldl State.finishOp s
      let s := (s.queues.filter (fun y => (s.func y.fn).part == x.part)).foldl (fun (s : State) (y : Queue) => s.queueError y.fn y.q 3) s
      s.putFunc f { s.func f with busy := false, busyOps := [] }
    else s)

/-! ### Trust (R400, R407) -/

/-- TDI_CONFIG_LOCKED (R400): the function's partition becomes confidential, and its slice has a key. -/
def execTdiConfigLocked (s : State) : Host.Outcome State Fault Refusal :=
  .next (
    let f := s.input.fn; let x := s.func f
    if 1 ≤ f ∧ f < 65 ∧ x.tdi = .unlocked then
      let s := s.putFunc f { x with tdi := .locked }
      if x.assigned then s.sealPart x.part else s
    else s)

/-- A queue is reset by the device (R54, R400). -/
def State.resetQueue (s : State) (x : Queue) : State :=
  match execQcmdReset { s with input := { s.input with fn := x.fn, queue := x.q } } with
  | .next s' => { s' with input := s.input }
  | _ => s

/-- The slice holds zeros, free of poison, and no cache holds a line of it. -/
def State.zeroSlice (s : State) (p : Part) : State :=
  let lo := p.dbase * 2 ^ 30; let hi := (p.dbase + p.dsize) * 2 ^ 30
  let within (line : Nat) : Bool := decide (lo ≤ line * 128) && decide (line * 128 < hi)
  { s with mem := s.mem.filter (fun c => !(decide (lo ≤ c.1) && decide (c.1 < hi))), poison := s.poison.filter (fun e => !within e.1),
           icv := s.icv.filter (fun e => !within e.1), ecc := s.ecc.filter (fun e => !within e.1),
           l1 := s.l1.filter (fun x => !within x.line), rdc := s.rdc.filter (fun x => !within x.line),
           holders := s.holders.filter (fun h => !within h.line) }

/-- Something of the partition can still write its slice: a wave that has not retired, an operation, a residue place to be written (R421), or
a block on its way to memory. -/
def State.stillWrites (s : State) (part : Nat) : Bool :=
  s.waves.any (fun w => w.part == part) || s.ops.any (fun o => o.part == part) || s.places.any (fun p => p.part == part && !p.written) ||
  s.blocks.any (fun b => b.part == part && s.blockDest b != [])

/-- TDI_LEAVE_RUN (R400): the partition's queues are reset; once nothing of it writes any more its slice is overwritten with zeros, and
the physical function has control again. -/
def execTdiLeaveRun (s : State) : Host.Outcome State Fault Refusal :=
  .next (
    let f := s.input.fn; let x := s.func f
    if 1 ≤ f ∧ f < 65 ∧ x.tdi ≠ .unlocked then
      if x.assigned then
        let s := (s.queues.filter (fun y => (s.func y.fn).assigned && (s.func y.fn).part == x.part)).foldl State.resetQueue s
        if s.stillWrites x.part then s.hold .tdiLeaveRun { s.input with op := 1 }
        else
          let s := (s.zeroSlice (s.part x.part)).putFunc f { s.func f with tdi := .unlocked }
          let still := s.funcs.any (fun g => g.assigned && g.part == x.part && g.tdi != .unlocked)
          s.putPart x.part { s.part x.part with confidential := still, sliceKey := if still then (s.part x.part).sliceKey else 0 }
      else s.putFunc f { x with tdi := .unlocked }
    else s)

/-- The registers of R400 of a partition, as an attestation report covers them. -/
def State.partRegisters (s : State) (n : Nat) : List (BitVec 64) :=
  let p := s.part n
  let mine := (List.range 65).filter (fun f => (s.func f).assigned && (s.func f).part == n)
  ((List.range 18).map (fun i => p.reg (8 * i)) ++ [p.active] ++ p.classes.flatMap (fun r => [r.low, r.high]) ++
    mine.flatMap (fun f => [f, (s.func f).fnpart] ++ (List.range 64).flatMap (fun i =>
      let w := kvGet emptyWindow (s.func f).windows i
      [w.low, w.high]))).map (BitVec.ofNat 64)

/-- Bytes 0 to 255 of the report (R407). -/
def State.reportHead (s : State) (x : FirmwareImage) (nonce : BitVec 256) : List Byte :=
  let conf := (List.range 16).filter (fun n => (s.part n).confidential)
  toBytes 4 0x50545341 ++ toBytes 32 nonce.toNat ++ toBytes 48 x.bodyDigest.toNat ++ toBytes 4 x.securityVersion.toNat ++
  toBytes 4 (conf.foldl (fun a n => a + 2 ^ n) 0) ++ toBytes 48 (Config.sha384 (Config.registerBytes (conf.map s.partRegisters))).toNat ++
  toBytes 8 s.dtime.toNat ++ List.replicate 108 0

/-- ATTESTATION_REQUEST (R407): the report, signed with both identity keys, goes to hostOut. -/
def execAttestationRequest (s : State) : Host.Outcome State Fault Refusal :=
  .next (match s.running with
    | some x =>
      let h := s.reportHead x s.input.nonce
      { s with hostOut := (h ++ toBytes 64 (Config.ed25519Sign x.bodyDigest h).toNat ++ toBytes 3309 (Config.mlDsaSign x.bodyDigest h).toNat) ::
        s.hostOut }
    | none => s)

end Sys2Proof.Machine
end

