-- ==== Sys2Proof/Machine/Vector.lean ====
section
/-! DEFINITION. Vector arithmetic, logic, compares and conversions (R212 to R225, R230): one meaning per instruction over
shared lane functions. -/

namespace Sys2Proof.Machine

/-! ### Lane functions -/

/-- `vadd` (R213). -/
def laneAdd (m : Mods) (mode : Mode) (a b : Word) : Word × Flags :=
  if tyFloat m.ty then m.outF mode ((m.aF a).add mode (m.bF b))
  else m.outI ((m.aI a).1 + (m.bI b).1) ((m.aI a).2 ||| (m.bI b).2)

/-- `vsub` (R213). -/
def laneSub (m : Mods) (mode : Mode) (a b : Word) : Word × Flags :=
  if tyFloat m.ty then m.outF mode ((m.aF a).add mode (m.bF b).negate)
  else m.outI ((m.aI a).1 - (m.bI b).1) ((m.aI a).2 ||| (m.bI b).2)

/-- `vmul` (R213). -/
def laneMul (m : Mods) (mode : Mode) (a b : Word) : Word × Flags :=
  if tyFloat m.ty then m.outF mode ((m.aF a).mul (m.bF b))
  else m.outI ((m.aI a).1 * (m.bI b).1) ((m.aI a).2 ||| (m.bI b).2)

/-- `vfma` (R213). -/
def laneFma (m : Mods) (mode : Mode) (a b c : Word) : Word × Flags :=
  if tyFloat m.ty then m.outF mode (FVal.fma mode (m.aF a) (m.bF b) (laneFloat m.ty c))
  else m.outI ((m.aI a).1 * (m.bI b).1 + laneInt m.ty c) ((m.aI a).2 ||| (m.bI b).2)

/-- `vmin` and `vmax` (R214): no flag. -/
def laneMinMax (m : Mods) (isMax : Bool) (a b : Word) : Word × Flags :=
  if tyFloat m.ty then ((m.outF .rne (FVal.minMax isMax (m.aF a) (m.bF b), 0)).1, 0)
  else
    let x := (m.aI a).1; let y := (m.bI b).1
    (intLane (if isMax then max x y else min x y), 0)

/-- `vmulh` and the scalar forms (R215, R185): bits 63:32 of a product. -/
def mulHigh (signed : Bool) (a b : Word) : Word :=
  if signed then BitVec.ofInt 32 (a.toInt * b.toInt / 2 ^ 32) else BitVec.ofNat 32 (a.toNat * b.toNat / 2 ^ 32)

/-- A one-source float form with nega and absa (R216, R217). -/
def laneUnary (m : Mods) (mode : Mode) (f : FVal → FVal × Flags) (a : Word) : Word × Flags := m.outF mode (f (m.aF a))

/-- `vrnd` (R218): rounded on the grid of the integers, the sign kept. -/
def laneRnd (m : Mods) (mode : Mode) (a : Word) : Word × Flags :=
  match m.aF a with
  | .fin neg x e s =>
    let (n, inexact) := FVal.toInt mode neg x e s
    (BitVec.ofNat 32 ((fmtOfTy m.ty).round .rne false (.fin neg n 0 false)).1, if inexact then fNX else 0)
  | v => (BitVec.ofNat 32 ((fmtOfTy m.ty).round .rne false v).1, 0)

/-- `vshl` (R220, R166): on the n bits of the type. -/
def laneShl (ty : Nat) (sat : Bool) (a b : Word) : Word × Flags :=
  let n := tyBits ty
  let x := laneInt ty a
  if b.toNat < n then
    let (v, f) := fitInt ty sat (x * 2 ^ b.toNat)
    (intLane v, f)
  else if sat && x != 0 then (intLane (if x < 0 then intMin ty else intMax ty), fSC)
  else (0, 0)

/-- `vshr` (R220): the n-bit pattern, zero-filled. -/
def laneShr (ty : Nat) (a b : Word) : Word :=
  let u := a.toNat % 2 ^ tyBits ty
  intLane (wrapInt ty (if b.toNat < tyBits ty then (u >>> b.toNat : Nat) else 0))

/-- `vsra` (R220, R166). -/
def laneSra (ty : Nat) (a b : Word) : Word :=
  let x := laneInt ty a
  intLane (if b.toNat < tyBits ty then x / 2 ^ b.toNat else if x < 0 then -1 else 0)

/-- The conditions of `vcmp` on floats (R222). -/
def cmpFloat (cc : Nat) (x y : FVal) : Bool :=
  let un := x.isNan || y.isNan
  match cc with
  | 0 => x.eq y
  | 1 => !x.eq y
  | 2 => !un && x.lt y
  | 3 => !un && !y.lt x
  | 4 => !un && y.lt x
  | 5 => !un && !x.lt y
  | 6 => !un
  | _ => un

/-- The condition of `vcmp` (R222). -/
def laneCmp (m : Mods) (cc : Nat) (a b : Word) : Bool :=
  if tyFloat m.ty then cmpFloat cc (m.aF a) (m.bF b)
  else
    let x := (m.aI a).1; let y := (m.bI b).1
    match cc with
    | 0 => decide (x = y)
    | 1 => decide (x ≠ y)
    | 2 => decide (x < y)
    | 3 => decide (x ≤ y)
    | 4 => decide (y < x)
    | _ => decide (y ≤ x)

def clz32 (x : Word) : Nat := 32 - bitLen x.toNat
def popc32 (x : Word) : Nat := ((List.range 32).filter (fun i => x.getLsbD i)).length
def brev32 (x : Word) : Word := BitVec.ofBoolListBE ((List.range 32).map (fun i => x.getLsbD i))
def ctz32 (x : Word) : Nat := ((List.range 32).find? (fun i => x.getLsbD i)).getD 32

/-- Elements i of 4 packed 8-bit values (R219). -/
def packed8 (w : Word) (i : Nat) : Word := BitVec.ofNat 32 (w.toNat / 2 ^ (8 * i) % 256)

/-- `vdot4` (R219): the exact sum, rounded or fitted once. -/
def laneDot4 (m : Mods) (mode : Mode) (at_ bt : Nat) (a b c : Word) : Word × Flags :=
  if m.ty = 2 then
    let prods := (List.range 4).map (fun i => (laneFloat at_ (packed8 a i)).mul (laneFloat bt (packed8 b i)))
    let anyNan := (laneFloat 2 c).isNan || (List.range 4).any (fun i => (laneFloat at_ (packed8 a i)).isNan || (laneFloat bt (packed8 b i)).isNan)
    if anyNan then m.outF mode (.nan, 0)
    else
      m.outF mode (prods.foldl (fun acc p => let (x, f) := acc.1.add mode p.1; (x, acc.2 ||| f ||| p.2)) (laneFloat 2 c, 0))
  else
    m.outI ((List.range 4).foldl (fun acc i => acc + laneInt at_ (packed8 a i) * laneInt bt (packed8 b i)) (laneInt 0 c)) 0

/-! ### Forms -/

/-- A V4 form of sources va, vb (and vc) and one destination. -/
def State.v4Lanes (s : State) (c : Bool) (p : V4) (i : Instr) (srcs : List Nat) (f : Wave → Word → Word → Word → Word × Flags) :
    Host.Outcome State Fault Refusal :=
  s.vec4 c p i srcs [p.vd.toNat] fun w act rd =>
    let a := rd p.va.toNat; let b := rd p.vb.toNat; let d := rd p.vc.toNat
    laneOut p.vd.toNat act (fun l => f w (laneOf a l) (laneOf b l) (laneOf d l))

/-- A VS form of va, the scalar and vd's own value. -/
def State.vsLanes (s : State) (c : Bool) (p : VS) (i : Instr) (srcs : List Nat) (f : Word → Word → Word → Word × Flags) :
    Host.Outcome State Fault Refusal :=
  s.vecS c p i srcs [p.vd.toNat] fun w act rd =>
    let a := rd p.va.toNat; let d := rd p.vd.toNat
    laneOut p.vd.toNat act (fun l => f (laneOf a l) (w.rs p.sb.toNat) (laneOf d l))

/-- A short form (R212): mask exec, round to nearest even. -/
def State.short (s : State) (c : Bool) (d : R8) (srcs : List Nat) (f : (Nat → VReg) → Nat → Word × Flags) :
    Host.Outcome State Fault Refusal :=
  s.onWave fun w => s.vector w srcs [d.toNat] w.exec false 1 c (fun rd => laneOut d.toNat w.exec (f rd))

def shortMods (ty : Nat) : Mods := { ty := ty, sat := false, nega := false, negb := false, absa := false }

def execVaddF32Short (c : Bool) (d a b : R8) (s : State) : Host.Outcome State Fault Refusal :=
  s.short c d [a.toNat, b.toNat] fun rd l => laneAdd (shortMods 2) .rne (laneOf (rd a.toNat) l) (laneOf (rd b.toNat) l)
def execVmulF32Short (c : Bool) (d a b : R8) (s : State) : Host.Outcome State Fault Refusal :=
  s.short c d [a.toNat, b.toNat] fun rd l => laneMul (shortMods 2) .rne (laneOf (rd a.toNat) l) (laneOf (rd b.toNat) l)
def execVaddI32Short (c : Bool) (d a b : R8) (s : State) : Host.Outcome State Fault Refusal :=
  s.short c d [a.toNat, b.toNat] fun rd l => laneAdd (shortMods 0) .rne (laneOf (rd a.toNat) l) (laneOf (rd b.toNat) l)
def execVmovShort (c : Bool) (d a : R8) (s : State) : Host.Outcome State Fault Refusal :=
  s.short c d [a.toNat] fun rd l => (laneOf (rd a.toNat) l, 0)

def execVadd (c : Bool) (p : V4) (s : State) : Host.Outcome State Fault Refusal :=
  s.v4Lanes c p (.vadd c p) p.abRs fun _ a b r => laneAdd p.modsOf (modeOf p.fnx p.rnd r) a b
def execVsub (c : Bool) (p : V4) (s : State) : Host.Outcome State Fault Refusal :=
  s.v4Lanes c p (.vsub c p) p.abRs fun _ a b r => laneSub p.modsOf (modeOf p.fnx p.rnd r) a b
def execVmul (c : Bool) (p : V4) (s : State) : Host.Outcome State Fault Refusal :=
  s.v4Lanes c p (.vmul c p) p.abRs fun _ a b r => laneMul p.modsOf (modeOf p.fnx p.rnd r) a b
def execVfma (c : Bool) (p : V4) (s : State) : Host.Outcome State Fault Refusal :=
  s.v4Lanes c p (.vfma c p) p.abc fun _ a b d => laneFma p.modsOf (Mode.ofRnd p.rnd.toNat) a b d
def execVmin (c : Bool) (p : V4) (s : State) : Host.Outcome State Fault Refusal :=
  s.v4Lanes c p (.vmin c p) p.ab fun _ a b _ => laneMinMax p.modsOf false a b
def execVmax (c : Bool) (p : V4) (s : State) : Host.Outcome State Fault Refusal :=
  s.v4Lanes c p (.vmax c p) p.ab fun _ a b _ => laneMinMax p.modsOf true a b
def execVmulh (c : Bool) (p : V4) (s : State) : Host.Outcome State Fault Refusal :=
  s.v4Lanes c p (.vmulh c p) p.ab fun _ a b _ => (mulHigh (p.ty == 0) a b, 0)
def execVrcp (c : Bool) (p : V4) (s : State) : Host.Outcome State Fault Refusal :=
  s.v4Lanes c p (.vrcp c p) [p.va.toNat] fun _ a _ _ => laneUnary p.modsOf (Mode.ofRnd p.rnd.toNat) FVal.recip a
def execVsqrt (c : Bool) (p : V4) (s : State) : Host.Outcome State Fault Refusal :=
  s.v4Lanes c p (.vsqrt c p) [p.va.toNat] fun _ a _ _ => laneUnary p.modsOf (Mode.ofRnd p.rnd.toNat) FVal.sqrt a
def execVrsqrt (c : Bool) (p : V4) (s : State) : Host.Outcome State Fault Refusal :=
  s.v4Lanes c p (.vrsqrt c p) [p.va.toNat] fun _ a _ _ => laneUnary p.modsOf (Mode.ofRnd p.rnd.toNat) FVal.rsqrt a
def execVlog2 (c : Bool) (p : V4) (s : State) : Host.Outcome State Fault Refusal :=
  s.v4Lanes c p (.vlog2 c p) [p.va.toNat] fun _ a _ _ => laneUnary p.modsOf .rne FVal.log2 a
def execVexp2 (c : Bool) (p : V4) (s : State) : Host.Outcome State Fault Refusal :=
  s.v4Lanes c p (.vexp2 c p) [p.va.toNat] fun _ a _ _ => laneUnary p.modsOf .rne FVal.exp2 a
def execVand (c : Bool) (p : V4) (s : State) : Host.Outcome State Fault Refusal :=
  s.v4Lanes c p (.vand c p) p.ab fun _ a b _ => (a &&& b, 0)
def execVor (c : Bool) (p : V4) (s : State) : Host.Outcome State Fault Refusal :=
  s.v4Lanes c p (.vor c p) p.ab fun _ a b _ => (a ||| b, 0)
def execVxor (c : Bool) (p : V4) (s : State) : Host.Outcome State Fault Refusal :=
  s.v4Lanes c p (.vxor c p) p.ab fun _ a b _ => (a ^^^ b, 0)
def execVshl (c : Bool) (p : V4) (s : State) : Host.Outcome State Fault Refusal :=
  s.v4Lanes c p (.vshl c p) p.ab fun _ a b _ => laneShl p.ty.toNat p.sat a b
def execVshr (c : Bool) (p : V4) (s : State) : Host.Outcome State Fault Refusal :=
  s.v4Lanes c p (.vshr c p) p.ab fun _ a b _ => (laneShr p.ty.toNat a b, 0)
def execVsra (c : Bool) (p : V4) (s : State) : Host.Outcome State Fault Refusal :=
  s.v4Lanes c p (.vsra c p) p.ab fun _ a b _ => (laneSra p.ty.toNat a b, 0)
def execVclz (c : Bool) (p : V4) (s : State) : Host.Outcome State Fault Refusal :=
  s.v4Lanes c p (.vclz c p) [p.va.toNat] fun _ a _ _ => (BitVec.ofNat 32 (clz32 a), 0)
def execVpopc (c : Bool) (p : V4) (s : State) : Host.Outcome State Fault Refusal :=
  s.v4Lanes c p (.vpopc c p) [p.va.toNat] fun _ a _ _ => (BitVec.ofNat 32 (popc32 a), 0)
def execVbrev (c : Bool) (p : V4) (s : State) : Host.Outcome State Fault Refusal :=
  s.v4Lanes c p (.vbrev c p) [p.va.toNat] fun _ a _ _ => (brev32 a, 0)
def execVrnd (c : Bool) (p : V4) (s : State) : Host.Outcome State Fault Refusal :=
  s.v4Lanes c p (.vrnd c p) (if p.fnx then p.ab else [p.va.toNat]) fun _ a b _ => laneRnd p.modsOf (modeOf p.fnx p.rnd b) a

/-- The element types of `vdot4` that fmt gives fit the form's type (R219). -/
def dotTypesOk (ty at_ bt : Nat) : Bool :=
  if ty = 0 then (at_ == 7 || at_ == 8) && (bt == 7 || bt == 8) else (at_ == 5 || at_ == 6) && (bt == 5 || bt == 6)

/-- `vdot4` (R219). The element types are looked at before the registers: the spec gives no order of that check and SPILL_FAULT or POISON of
a register in backing store. DESIGN CHOICE (log 102). -/
def execVdot4 (c : Bool) (p : V4) (s : State) : Host.Outcome State Fault Refusal :=
  s.onWave fun w =>
    if emulated p.ty then s.parkEmulate w (.vdot4 c p) c
    else if !dotTypesOk p.ty.toNat (bitsOf w.fmt.toNat 3 0) (bitsOf w.fmt.toNat 7 4) then s.takeTrap w illegalEncoding
    else
      s.vector w p.abc [p.vd.toNat] (w.active p.km.toNat) p.z 2 c fun rd =>
        laneOut p.vd.toNat (w.active p.km.toNat) fun l =>
          laneDot4 p.modsOf (Mode.ofRnd p.rnd.toNat) (bitsOf w.fmt.toNat 3 0) (bitsOf w.fmt.toNat 7 4)
            (laneOf (rd p.va.toNat) l) (laneOf (rd p.vb.toNat) l) (laneOf (rd p.vc.toNat) l)

/-! ### Vector–scalar forms (R230) -/

def execVaddVs (c : Bool) (p : VS) (s : State) : Host.Outcome State Fault Refusal :=
  s.vsLanes c p (.vaddVs c p) [p.va.toNat] fun a b _ => laneAdd p.modsOf (Mode.ofRnd p.rnd.toNat) a b
def execVsubVs (c : Bool) (p : VS) (s : State) : Host.Outcome State Fault Refusal :=
  s.vsLanes c p (.vsubVs c p) [p.va.toNat] fun a b _ => laneSub p.modsOf (Mode.ofRnd p.rnd.toNat) a b
def execVmulVs (c : Bool) (p : VS) (s : State) : Host.Outcome State Fault Refusal :=
  s.vsLanes c p (.vmulVs c p) [p.va.toNat] fun a b _ => laneMul p.modsOf (Mode.ofRnd p.rnd.toNat) a b
def execVfmaVs (c : Bool) (p : VS) (s : State) : Host.Outcome State Fault Refusal :=
  s.vsLanes c p (.vfmaVs c p) [p.va.toNat, p.vd.toNat] fun a b d => laneFma p.modsOf (Mode.ofRnd p.rnd.toNat) a b d
def execVminVs (c : Bool) (p : VS) (s : State) : Host.Outcome State Fault Refusal :=
  s.vsLanes c p (.vminVs c p) [p.va.toNat] fun a b _ => laneMinMax p.modsOf false a b
def execVmaxVs (c : Bool) (p : VS) (s : State) : Host.Outcome State Fault Refusal :=
  s.vsLanes c p (.vmaxVs c p) [p.va.toNat] fun a b _ => laneMinMax p.modsOf true a b
def execVrcpVs (c : Bool) (p : VS) (s : State) : Host.Outcome State Fault Refusal :=
  s.vsLanes c p (.vrcpVs c p) [p.va.toNat] fun a _ _ => laneUnary p.modsOf (Mode.ofRnd p.rnd.toNat) FVal.recip a
def execVsqrtVs (c : Bool) (p : VS) (s : State) : Host.Outcome State Fault Refusal :=
  s.vsLanes c p (.vsqrtVs c p) [p.va.toNat] fun a _ _ => laneUnary p.modsOf (Mode.ofRnd p.rnd.toNat) FVal.sqrt a
def execVrsqrtVs (c : Bool) (p : VS) (s : State) : Host.Outcome State Fault Refusal :=
  s.vsLanes c p (.vrsqrtVs c p) [p.va.toNat] fun a _ _ => laneUnary p.modsOf (Mode.ofRnd p.rnd.toNat) FVal.rsqrt a
def execVlog2Vs (c : Bool) (p : VS) (s : State) : Host.Outcome State Fault Refusal :=
  s.vsLanes c p (.vlog2Vs c p) [p.va.toNat] fun a _ _ => laneUnary p.modsOf .rne FVal.log2 a
def execVexp2Vs (c : Bool) (p : VS) (s : State) : Host.Outcome State Fault Refusal :=
  s.vsLanes c p (.vexp2Vs c p) [p.va.toNat] fun a _ _ => laneUnary p.modsOf .rne FVal.exp2 a
def execVandVs (c : Bool) (p : VS) (s : State) : Host.Outcome State Fault Refusal :=
  s.vsLanes c p (.vandVs c p) [p.va.toNat] fun a b _ => (a &&& b, 0)
def execVorVs (c : Bool) (p : VS) (s : State) : Host.Outcome State Fault Refusal :=
  s.vsLanes c p (.vorVs c p) [p.va.toNat] fun a b _ => (a ||| b, 0)
def execVxorVs (c : Bool) (p : VS) (s : State) : Host.Outcome State Fault Refusal :=
  s.vsLanes c p (.vxorVs c p) [p.va.toNat] fun a b _ => (a ^^^ b, 0)
def execVshlVs (c : Bool) (p : VS) (s : State) : Host.Outcome State Fault Refusal :=
  s.vsLanes c p (.vshlVs c p) [p.va.toNat] fun a b _ => laneShl p.ty.toNat p.sat a b
def execVshrVs (c : Bool) (p : VS) (s : State) : Host.Outcome State Fault Refusal :=
  s.vsLanes c p (.vshrVs c p) [p.va.toNat] fun a b _ => (laneShr p.ty.toNat a b, 0)
def execVsraVs (c : Bool) (p : VS) (s : State) : Host.Outcome State Fault Refusal :=
  s.vsLanes c p (.vsraVs c p) [p.va.toNat] fun a b _ => (laneSra p.ty.toNat a b, 0)

/-! ### Compare, select, convert -/

/-- `vcmp` (R222): bits of lanes outside Active() are cleared with z, else kept. -/
def execVcmp (c : Bool) (p : V4) (s : State) : Host.Outcome State Fault Refusal :=
  s.vec4 c p (.vcmp c p) p.ab [] fun w act rd =>
    let a := rd p.va.toNat; let b := rd p.vb.toNat; let kd := p.vd.toNat % 16
    let new := maskWhere (fun l => laneCmp p.modsOf p.vc.toNat (laneOf a l) (laneOf b l)) &&& act
    { regs := [], k := some (kd, if p.z then new else new ||| (w.rk kd &&& ~~~act)) }

/-- `vsel` (R223). -/
def execVsel (c : Bool) (p : V4) (s : State) : Host.Outcome State Fault Refusal :=
  s.vec4 c p (.vsel c p) p.ab [p.vd.toNat] fun w act rd =>
    let a := rd p.va.toNat; let b := rd p.vb.toNat; let sel := w.rk (p.vc.toNat % 16)
    laneOut p.vd.toNat act (fun l => (if sel.getLsbD l then laneOf a l else laneOf b l, 0))

/-- `vcvt` (R224): either type emulated parks for the firmware. -/
def execVcvt (c : Bool) (p : V4) (s : State) : Host.Outcome State Fault Refusal :=
  s.onWave fun w =>
    if emulated p.ty || p.srcTy == 13 || p.srcTy == 14 then s.parkEmulate w (.vcvt c p) c
    else
      s.vector w (if p.fnx then p.ab else [p.va.toNat]) [p.vd.toNat] (w.active p.km.toNat) p.z 2 c fun rd =>
        laneOut p.vd.toNat (w.active p.km.toNat) fun l =>
          convertLane (modeOf p.fnx p.rnd (laneOf (rd p.vb.toNat) l)) p.sat p.ty.toNat p.srcTy (laneOf (rd p.va.toNat) l)

/-- `vcvt.legacy` (R225). -/
def execVcvtLegacy (c : Bool) (p : V4) (s : State) : Host.Outcome State Fault Refusal :=
  s.onWave fun w =>
    if emulated p.ty || p.srcTy == 13 || p.srcTy == 14 then s.parkEmulate w (.vcvtLegacy c p) c
    else
      s.vector w [p.va.toNat] [p.vd.toNat] (w.active p.km.toNat) p.z 2 c fun rd =>
        laneOut p.vd.toNat (w.active p.km.toNat) fun l =>
          if p.ty == 2 then convertLane (Mode.ofRnd p.rnd.toNat) false 2 p.srcTy (laneOf (rd p.va.toNat) l)
          else
            let (v, f) := floatToInt (Mode.ofRnd p.rnd.toNat) p.ty.toNat true (laneFloat 2 (laneOf (rd p.va.toNat) l))
            (intLane v, f)

end Sys2Proof.Machine
end

