-- ==== Sys2Proof/Machine/Scalar.lean ====
section
/-! DEFINITION. Scalar instructions (R185 to R192), the special registers (R151 to R154), and `nop` (R22). -/

namespace Sys2Proof.Machine

/-! ### Operations on 32 and 64 bits (R185, R166) -/

def divSigned (a b : Word) : Word := if b = 0 then 0xFFFFFFFF else BitVec.ofInt 32 (Int.tdiv a.toInt b.toInt)
def divUnsigned (a b : Word) : Word := if b = 0 then 0xFFFFFFFF else a / b
def remSigned (a b : Word) : Word := if b = 0 then a else BitVec.ofInt 32 (Int.tmod a.toInt b.toInt)
def remUnsigned (a b : Word) : Word := if b = 0 then a else a % b
/-- Shifts by a whole unsigned operand, of any width. -/
def shiftLeft {n : Nat} (a : BitVec n) (k : Nat) : BitVec n := if k < n then a <<< k else 0
def shiftRight {n : Nat} (a : BitVec n) (k : Nat) : BitVec n := if k < n then a >>> k else 0
def shiftArith {n : Nat} (a : BitVec n) (k : Nat) : BitVec n := a.sshiftRight (min k n)
def minSigned (a b : Word) : Word := if b.slt a then b else a
def maxSigned (a b : Word) : Word := if a.slt b then b else a
def minUnsigned (a b : Word) : Word := if b < a then b else a
def maxUnsigned (a b : Word) : Word := if a < b then b else a

/-- A scalar instruction of n words changes the wave by f. -/
def State.scalar (s : State) (n : Nat) (c : Bool) (f : Wave → Wave) : Host.Outcome State Fault Refusal :=
  s.onWave fun w => s.putWave ((f w).advance n c .S)

/-- A register form (R185). -/
def State.s3 (s : State) (c : Bool) (d a b : R8) (f : Word → Word → Word) : Host.Outcome State Fault Refusal :=
  s.scalar 1 c fun w => w.setS d.toNat (f (w.rs a.toNat) (w.rs b.toNat))
/-- An immediate form of OP 0x15 (R186). -/
def State.si (s : State) (c : Bool) (d a : R8) (imm : BitVec 24) (f : Word → Word → Word) : Host.Outcome State Fault Refusal :=
  s.scalar 2 c fun w => w.setS d.toNat (f (w.rs a.toNat) (immS imm))
/-- An immediate form of OP 0x16 (R186): three words, so it ends its packet and its group. -/
def State.si32 (s : State) (d a : R8) (imm : Word) (f : Word → Word → Word) : Host.Outcome State Fault Refusal :=
  s.scalar 3 false fun w => w.setS d.toNat (f (w.rs a.toNat) imm)

def execNop (c : Bool) (s : State) : Host.Outcome State Fault Refusal :=
  s.onWave fun w => s.putWave (w.advance 1 c .none)
/-- A header word executes as a `nop` (R22). -/
def execNopHeader (_budget _mstk : BitVec 6) (s : State) : Host.Outcome State Fault Refusal :=
  s.onWave fun w => s.putWave (w.advance 1 false .none)

def execSadd (c : Bool) (d a b : R8) (s : State) : Host.Outcome State Fault Refusal := s.s3 c d a b (· + ·)
def execSsub (c : Bool) (d a b : R8) (s : State) : Host.Outcome State Fault Refusal := s.s3 c d a b (· - ·)
def execSmul (c : Bool) (d a b : R8) (s : State) : Host.Outcome State Fault Refusal := s.s3 c d a b (· * ·)
def execSmulh (c : Bool) (d a b : R8) (s : State) : Host.Outcome State Fault Refusal := s.s3 c d a b (mulHigh true)
def execSmulhu (c : Bool) (d a b : R8) (s : State) : Host.Outcome State Fault Refusal := s.s3 c d a b (mulHigh false)
def execSdiv (c : Bool) (d a b : R8) (s : State) : Host.Outcome State Fault Refusal := s.s3 c d a b divSigned
def execSdivu (c : Bool) (d a b : R8) (s : State) : Host.Outcome State Fault Refusal := s.s3 c d a b divUnsigned
def execSrem (c : Bool) (d a b : R8) (s : State) : Host.Outcome State Fault Refusal := s.s3 c d a b remSigned
def execSremu (c : Bool) (d a b : R8) (s : State) : Host.Outcome State Fault Refusal := s.s3 c d a b remUnsigned
def execSand (c : Bool) (d a b : R8) (s : State) : Host.Outcome State Fault Refusal := s.s3 c d a b (· &&& ·)
def execSor (c : Bool) (d a b : R8) (s : State) : Host.Outcome State Fault Refusal := s.s3 c d a b (· ||| ·)
def execSxor (c : Bool) (d a b : R8) (s : State) : Host.Outcome State Fault Refusal := s.s3 c d a b (· ^^^ ·)
def execSshl (c : Bool) (d a b : R8) (s : State) : Host.Outcome State Fault Refusal := s.s3 c d a b (fun a b => shiftLeft a b.toNat)
def execSshr (c : Bool) (d a b : R8) (s : State) : Host.Outcome State Fault Refusal := s.s3 c d a b (fun a b => shiftRight a b.toNat)
def execSsra (c : Bool) (d a b : R8) (s : State) : Host.Outcome State Fault Refusal := s.s3 c d a b (fun a b => shiftArith a b.toNat)
def execSmin (c : Bool) (d a b : R8) (s : State) : Host.Outcome State Fault Refusal := s.s3 c d a b minSigned
def execSmax (c : Bool) (d a b : R8) (s : State) : Host.Outcome State Fault Refusal := s.s3 c d a b maxSigned
def execSminu (c : Bool) (d a b : R8) (s : State) : Host.Outcome State Fault Refusal := s.s3 c d a b minUnsigned
def execSmaxu (c : Bool) (d a b : R8) (s : State) : Host.Outcome State Fault Refusal := s.s3 c d a b maxUnsigned

def execSaddSi (c : Bool) (d a : R8) (imm : BitVec 24) (s : State) : Host.Outcome State Fault Refusal := s.si c d a imm (· + ·)
def execSaddSi32 (d a : R8) (imm : Word) (s : State) : Host.Outcome State Fault Refusal := s.si32 d a imm (· + ·)
def execSsubSi (c : Bool) (d a : R8) (imm : BitVec 24) (s : State) : Host.Outcome State Fault Refusal := s.si c d a imm (· - ·)
def execSsubSi32 (d a : R8) (imm : Word) (s : State) : Host.Outcome State Fault Refusal := s.si32 d a imm (· - ·)
def execSmulSi (c : Bool) (d a : R8) (imm : BitVec 24) (s : State) : Host.Outcome State Fault Refusal := s.si c d a imm (· * ·)
def execSmulSi32 (d a : R8) (imm : Word) (s : State) : Host.Outcome State Fault Refusal := s.si32 d a imm (· * ·)
def execSmulhSi (c : Bool) (d a : R8) (imm : BitVec 24) (s : State) : Host.Outcome State Fault Refusal := s.si c d a imm (mulHigh true)
def execSmulhSi32 (d a : R8) (imm : Word) (s : State) : Host.Outcome State Fault Refusal := s.si32 d a imm (mulHigh true)
def execSmulhuSi (c : Bool) (d a : R8) (imm : BitVec 24) (s : State) : Host.Outcome State Fault Refusal := s.si c d a imm (mulHigh false)
def execSmulhuSi32 (d a : R8) (imm : Word) (s : State) : Host.Outcome State Fault Refusal := s.si32 d a imm (mulHigh false)
def execSdivSi (c : Bool) (d a : R8) (imm : BitVec 24) (s : State) : Host.Outcome State Fault Refusal := s.si c d a imm divSigned
def execSdivSi32 (d a : R8) (imm : Word) (s : State) : Host.Outcome State Fault Refusal := s.si32 d a imm divSigned
def execSdivuSi (c : Bool) (d a : R8) (imm : BitVec 24) (s : State) : Host.Outcome State Fault Refusal := s.si c d a imm divUnsigned
def execSdivuSi32 (d a : R8) (imm : Word) (s : State) : Host.Outcome State Fault Refusal := s.si32 d a imm divUnsigned
def execSremSi (c : Bool) (d a : R8) (imm : BitVec 24) (s : State) : Host.Outcome State Fault Refusal := s.si c d a imm remSigned
def execSremSi32 (d a : R8) (imm : Word) (s : State) : Host.Outcome State Fault Refusal := s.si32 d a imm remSigned
def execSremuSi (c : Bool) (d a : R8) (imm : BitVec 24) (s : State) : Host.Outcome State Fault Refusal := s.si c d a imm remUnsigned
def execSremuSi32 (d a : R8) (imm : Word) (s : State) : Host.Outcome State Fault Refusal := s.si32 d a imm remUnsigned
def execSandSi (c : Bool) (d a : R8) (imm : BitVec 24) (s : State) : Host.Outcome State Fault Refusal := s.si c d a imm (· &&& ·)
def execSandSi32 (d a : R8) (imm : Word) (s : State) : Host.Outcome State Fault Refusal := s.si32 d a imm (· &&& ·)
def execSorSi (c : Bool) (d a : R8) (imm : BitVec 24) (s : State) : Host.Outcome State Fault Refusal := s.si c d a imm (· ||| ·)
def execSorSi32 (d a : R8) (imm : Word) (s : State) : Host.Outcome State Fault Refusal := s.si32 d a imm (· ||| ·)
def execSxorSi (c : Bool) (d a : R8) (imm : BitVec 24) (s : State) : Host.Outcome State Fault Refusal := s.si c d a imm (· ^^^ ·)
def execSxorSi32 (d a : R8) (imm : Word) (s : State) : Host.Outcome State Fault Refusal := s.si32 d a imm (· ^^^ ·)
def execSshlSi (c : Bool) (d a : R8) (imm : BitVec 24) (s : State) : Host.Outcome State Fault Refusal := s.si c d a imm (fun a b => shiftLeft a b.toNat)
def execSshlSi32 (d a : R8) (imm : Word) (s : State) : Host.Outcome State Fault Refusal := s.si32 d a imm (fun a b => shiftLeft a b.toNat)
def execSshrSi (c : Bool) (d a : R8) (imm : BitVec 24) (s : State) : Host.Outcome State Fault Refusal := s.si c d a imm (fun a b => shiftRight a b.toNat)
def execSshrSi32 (d a : R8) (imm : Word) (s : State) : Host.Outcome State Fault Refusal := s.si32 d a imm (fun a b => shiftRight a b.toNat)
def execSsraSi (c : Bool) (d a : R8) (imm : BitVec 24) (s : State) : Host.Outcome State Fault Refusal := s.si c d a imm (fun a b => shiftArith a b.toNat)
def execSsraSi32 (d a : R8) (imm : Word) (s : State) : Host.Outcome State Fault Refusal := s.si32 d a imm (fun a b => shiftArith a b.toNat)
def execSminSi (c : Bool) (d a : R8) (imm : BitVec 24) (s : State) : Host.Outcome State Fault Refusal := s.si c d a imm minSigned
def execSminSi32 (d a : R8) (imm : Word) (s : State) : Host.Outcome State Fault Refusal := s.si32 d a imm minSigned
def execSmaxSi (c : Bool) (d a : R8) (imm : BitVec 24) (s : State) : Host.Outcome State Fault Refusal := s.si c d a imm maxSigned
def execSmaxSi32 (d a : R8) (imm : Word) (s : State) : Host.Outcome State Fault Refusal := s.si32 d a imm maxSigned
def execSminuSi (c : Bool) (d a : R8) (imm : BitVec 24) (s : State) : Host.Outcome State Fault Refusal := s.si c d a imm minUnsigned
def execSminuSi32 (d a : R8) (imm : Word) (s : State) : Host.Outcome State Fault Refusal := s.si32 d a imm minUnsigned
def execSmaxuSi (c : Bool) (d a : R8) (imm : BitVec 24) (s : State) : Host.Outcome State Fault Refusal := s.si c d a imm maxUnsigned
def execSmaxuSi32 (d a : R8) (imm : Word) (s : State) : Host.Outcome State Fault Refusal := s.si32 d a imm maxUnsigned
def execSmovSi (c : Bool) (d : R8) (imm : BitVec 24) (s : State) : Host.Outcome State Fault Refusal :=
  s.scalar 2 c fun w => w.setS d.toNat (immS imm)
def execSmovSi32 (d : R8) (imm : Word) (s : State) : Host.Outcome State Fault Refusal :=
  s.scalar 3 false fun w => w.setS d.toNat imm

/-! ### Compare, select, bit fields (R187 to R190) -/

/-- The conditions of `scmp` (R187). -/
def condition (cc : Nat) (a b : Word) : Bool :=
  match cc with
  | 0 => a == b
  | 1 => a != b
  | 2 => a.slt b
  | 3 => a.sle b
  | 4 => b.slt a
  | 5 => b.sle a
  | 6 => a.ult b
  | 7 => a.ule b
  | 8 => b.ult a
  | _ => b.ule a

def execScmp (c : Bool) (d a : R8) (cc : BitVec 4) (i : Bool) (imm : BitVec 24) (s : State) : Host.Outcome State Fault Refusal :=
  s.scalar 2 c fun w =>
    let t := condition cc.toNat (w.rs a.toNat) (w.operand32 i imm)
    { w.setS d.toNat (if t then 1 else 0) with scc := setBit32 w.scc 0 t }

def execSsel (c : Bool) (d a b : R8) (s : State) : Host.Outcome State Fault Refusal :=
  s.scalar 1 c fun w => w.setS d.toNat (if w.sccT then w.rs a.toNat else w.rs b.toNat)

/-- Bits pos + len - 1 : pos of a word (R189). -/
def bitField (x : Word) (pos len : Nat) : Nat := x.toNat / 2 ^ pos % 2 ^ len

def execSbfe (c : Bool) (d a : R8) (pos : BitVec 5) (len : BitVec 6) (s : State) : Host.Outcome State Fault Refusal :=
  s.scalar 2 c fun w => w.setS d.toNat (BitVec.ofInt 32 (signedOf (bitField (w.rs a.toNat) pos.toNat len.toNat) len.toNat))
def execSbfeu (c : Bool) (d a : R8) (pos : BitVec 5) (len : BitVec 6) (s : State) : Host.Outcome State Fault Refusal :=
  s.scalar 2 c fun w => w.setS d.toNat (BitVec.ofNat 32 (bitField (w.rs a.toNat) pos.toNat len.toNat))
def execSbfi (c : Bool) (d a : R8) (pos : BitVec 5) (len : BitVec 6) (s : State) : Host.Outcome State Fault Refusal :=
  s.scalar 2 c fun w =>
    let m : Word := BitVec.ofNat 32 ((2 ^ len.toNat - 1) * 2 ^ pos.toNat)
    w.setS d.toNat ((w.rs d.toNat &&& ~~~m) ||| ((w.rs a.toNat <<< pos.toNat) &&& m))

/-- A one-source form (R190). -/
def State.s1 (s : State) (c : Bool) (d a : R8) (f : Word → Word) : Host.Outcome State Fault Refusal :=
  s.scalar 1 c fun w => w.setS d.toNat (f (w.rs a.toNat))

def execSclz (c : Bool) (d a : R8) (s : State) : Host.Outcome State Fault Refusal := s.s1 c d a fun x => BitVec.ofNat 32 (clz32 x)
def execSctz (c : Bool) (d a : R8) (s : State) : Host.Outcome State Fault Refusal := s.s1 c d a fun x => BitVec.ofNat 32 (ctz32 x)
def execSpopc (c : Bool) (d a : R8) (s : State) : Host.Outcome State Fault Refusal := s.s1 c d a fun x => BitVec.ofNat 32 (popc32 x)
def execSbrev (c : Bool) (d a : R8) (s : State) : Host.Outcome State Fault Refusal := s.s1 c d a brev32
def execSext8 (c : Bool) (d a : R8) (s : State) : Host.Outcome State Fault Refusal := s.s1 c d a fun x => (x.truncate 8).signExtend 32
def execSext16 (c : Bool) (d a : R8) (s : State) : Host.Outcome State Fault Refusal := s.s1 c d a fun x => (x.truncate 16).signExtend 32

/-! ### 64-bit pairs (R191) -/

def State.s64 (s : State) (c : Bool) (d a : R8) (i : Bool) (imm : BitVec 24) (f : DWord → DWord → DWord) :
    Host.Outcome State Fault Refusal :=
  s.scalar 2 c fun w => w.setPair d.toNat (f (w.pair a.toNat) (w.operand64 i imm))

def execSadd64 (c : Bool) (d a : R8) (i : Bool) (imm : BitVec 24) (s : State) : Host.Outcome State Fault Refusal := s.s64 c d a i imm (· + ·)
def execSsub64 (c : Bool) (d a : R8) (i : Bool) (imm : BitVec 24) (s : State) : Host.Outcome State Fault Refusal := s.s64 c d a i imm (· - ·)
def execSmul64 (c : Bool) (d a : R8) (i : Bool) (imm : BitVec 24) (s : State) : Host.Outcome State Fault Refusal := s.s64 c d a i imm (· * ·)
def execSshl64 (c : Bool) (d a : R8) (i : Bool) (imm : BitVec 24) (s : State) : Host.Outcome State Fault Refusal := s.s64 c d a i imm (fun x y => shiftLeft x y.toNat)
def execSshr64 (c : Bool) (d a : R8) (i : Bool) (imm : BitVec 24) (s : State) : Host.Outcome State Fault Refusal := s.s64 c d a i imm (fun x y => shiftRight x y.toNat)
def execSsra64 (c : Bool) (d a : R8) (i : Bool) (imm : BitVec 24) (s : State) : Host.Outcome State Fault Refusal := s.s64 c d a i imm (fun x y => shiftArith x y.toNat)
def execSmov64 (c : Bool) (d : R8) (i : Bool) (imm : BitVec 24) (s : State) : Host.Outcome State Fault Refusal :=
  s.scalar 2 c fun w => w.setPair d.toNat (w.operand64 i imm)

/-! ### fmt and the special registers (R192, R152) -/

/-- The control fields of fmt that `setfmt` may write (R179): RND, ACCT, BTYPE and ATYPE hold no reserved code. -/
def fmtControlOk (x : Nat) : Bool :=
  bitsOf x 14 12 < 4 && (bitsOf x 11 8 == 0 || bitsOf x 11 8 == 2) &&
  5 ≤ bitsOf x 7 4 && bitsOf x 7 4 ≤ 8 && 5 ≤ bitsOf x 3 0 && bitsOf x 3 0 ≤ 8

/-- `setfmt` (R192): the checks of R179 on the fields that the form writes come first. -/
def execSetfmt (c : Bool) (src a : R8) (imm : BitVec 24) (s : State) : Host.Outcome State Fault Refusal :=
  s.onWave fun w =>
    let x := w.rs a.toNat
    let ctl : Word := if src = 0 then imm.truncate 32 &&& 0xFFFF else x &&& 0xFFFF
    let flg : Word := if src = 0 then ((imm >>> (16 : Nat)).truncate 32 &&& 0x3F) else ((x >>> (20 : Nat)) &&& 0x3F)
    let wflg := imm.getLsbD 23; let wctl := imm.getLsbD 22
    if (wctl && !fmtControlOk ctl.toNat) || (src != 0 && (x &&& 0xFC0F0000) != 0) then s.takeTrap w illegalEncoding
    else
      let f := if wctl then (w.fmt &&& 0xFFFF0000) ||| ctl else w.fmt
      let f := if wflg then (f &&& 0xFC0FFFFF) ||| (flg <<< (20 : Nat)) else f
      s.putWave ({ w with fmt := f }.advance 2 c .C)

/-- cnt (R154). -/
def State.cnt (s : State) (w : Wave) : Nat :=
  s.classCount w.uid .LD + s.classCount w.uid .ST * 2 ^ 6 + s.classCount w.uid .CP * 2 ^ 12 + s.classCount w.uid .MM * 2 ^ 18

/-- The value of a special register (R151). -/
def State.sreg (s : State) (w : Wave) (n : Nat) : DWord :=
  match n with
  | 0x00 => w.pc
  | 0x01 => w.wid.truncate 64
  | 0x02 => 64
  | 0x03 => w.ibase
  | 0x04 => w.icount
  | 0x05 => w.args
  | 0x06 => w.ctaglo.truncate 64
  | 0x07 => w.ctaghi.truncate 64
  | 0x08 => BitVec.ofNat 64 w.sdepth
  | 0x09 => BitVec.ofNat 64 w.inld
  | 0x0A => w.tbudget.truncate 64
  | 0x0B => s.dtime
  | 0x0C => BitVec.ofNat 64 w.ebase
  | 0x0D => BitVec.ofNat 64 (w.ebase + w.foot.ewin)
  | 0x0E => BitVec.ofNat 64 w.wbase
  | 0x0F => BitVec.ofNat 64 (w.wbase + w.foot.wwin)
  | 0x10 => w.exec
  | 0x11 => w.fmt.truncate 64
  | 0x12 => w.scc.truncate 64
  | 0x13 => BitVec.ofNat 64 w.maskStack.length
  | 0x14 => BitVec.ofNat 64 w.callStack.length
  | 0x15 => w.desc.kid
  | 0x16 => BitVec.ofNat 64 (s.cnt w)
  | _ => BitVec.ofNat 64 w.prio

/-- `sget` (R152). -/
def execSget (c : Bool) (d n : R8) (s : State) : Host.Outcome State Fault Refusal :=
  s.scalar 1 c fun w =>
    if sregWidth n = 64 then w.setPair d.toNat (s.sreg w n.toNat) else w.setS d.toNat (loWord (s.sreg w n.toNat))

/-- `sput` (R152): inld only falls, and of scc only bits 4:0 are written. -/
def execSput (c : Bool) (n a : R8) (s : State) : Host.Outcome State Fault Refusal :=
  s.scalar 1 c fun w =>
    match n.toNat with
    | 0x09 => { w with inld := min (w.rs a.toNat).toNat w.inld }
    | 0x0A => { w with tbudget := w.rs a.toNat }
    | 0x10 => { w with exec := w.pair a.toNat }
    | 0x12 => { w with scc := (w.scc &&& ~~~(0x1F : Word)) ||| (w.rs a.toNat &&& 0x1F) }
    | _ => w

end Sys2Proof.Machine
end

