-- ==== Sys2Proof/Machine/VectorMove.lean ====
section
/-! DEFINITION. Packing, moves between lanes, reductions, scans, sampling (R226 to R235), and the firmware's emulation of
f64 (R182, R183). -/

namespace Sys2Proof.Machine

/-! ### Packing (R226, R227) -/

def execVpack (c : Bool) (p : V4) (s : State) : Host.Outcome State Fault Refusal :=
  let w := tyBits p.ty.toNat
  s.vec4 c p (.vpack c p) (runFrom p.va.toNat (32 / w)) [p.vd.toNat] fun _ act rd =>
    laneOut p.vd.toNat act fun l =>
      ((List.range (32 / w)).foldl (fun acc i =>
        acc ||| (BitVec.ofNat 32 ((laneOf (rd (p.va.toNat + i)) l).toNat % 2 ^ w) <<< (w * i))) 0, 0)

def execVunpack (c : Bool) (p : V4) (s : State) : Host.Outcome State Fault Refusal :=
  let w := tyBits p.ty.toNat; let h := if p.fnx then 16 else 0
  s.vec4 c p (.vunpack c p) [p.va.toNat] (runFrom p.vd.toNat (16 / w)) fun _ act rd =>
    let a := rd p.va.toNat
    { regs := (List.range (16 / w)).map (fun j =>
        (p.vd.toNat + j, (runLanes act (fun l => (extendField p.ty.toNat ((laneOf a l).toNat / 2 ^ (h + w * j) % 2 ^ w), 0))).1)) }

/-! ### Lane moves (R228, R229) -/

def execVperm (c : Bool) (p : V4) (s : State) : Host.Outcome State Fault Refusal :=
  s.vec4 c p (.vperm c p) p.ab [p.vd.toNat] fun _ act rd =>
    let a := rd p.va.toNat; let b := rd p.vb.toNat
    laneOut p.vd.toNat act (fun l => (laneOf a ((laneOf b l).toNat % 64), 0))

/-- A move whose lane l takes what f gives of va and n = s[sb]. -/
def State.moveLanes (s : State) (c : Bool) (p : VS) (i : Instr) (f : VReg → Nat → Nat → Word) : Host.Outcome State Fault Refusal :=
  s.vecS c p i [p.va.toNat] [p.vd.toNat] fun w act rd =>
    let a := rd p.va.toNat
    laneOut p.vd.toNat act (fun l => (f a (w.rs p.sb.toNat).toNat l, 0))

def execVbcast (c : Bool) (p : VS) (s : State) : Host.Outcome State Fault Refusal :=
  s.moveLanes c p (.vbcast c p) fun a n _ => laneOf a (n % 64)
def execVrot (c : Bool) (p : VS) (s : State) : Host.Outcome State Fault Refusal :=
  s.moveLanes c p (.vrot c p) fun a n l => laneOf a ((l + n) % 64)
def execVshup (c : Bool) (p : VS) (s : State) : Host.Outcome State Fault Refusal :=
  s.moveLanes c p (.vshup c p) fun a n l => if n ≤ l then laneOf a (l - n) else 0
def execVshdn (c : Bool) (p : VS) (s : State) : Host.Outcome State Fault Refusal :=
  s.moveLanes c p (.vshdn c p) fun a n l => if l + n < 64 then laneOf a (l + n) else 0
def execVsplat (c : Bool) (p : VS) (s : State) : Host.Outcome State Fault Refusal :=
  s.vecS c p (.vsplat c p) [] [p.vd.toNat] fun w act _ => laneOut p.vd.toNat act (fun _ => (w.rs p.sb.toNat, 0))

/-! ### Reductions and scans (R231, R232) -/

/-- One step of a reduction: sum, min, max, and, or, xor by vc. The last three act on all 32 bits of the lanes, whatever the type (R231);
what lies above a narrow type stays. DEDUCED (log 89). -/
def redStep (p : V4) (acc x : Word) : Word × Flags :=
  let m := p.modsOf
  match p.vc.toNat with
  | 0 => laneAdd m (Mode.ofRnd p.rnd.toNat) acc x
  | 1 => laneMinMax m false acc x
  | 2 => laneMinMax m true acc x
  | 3 => (acc &&& x, 0)
  | 4 => (acc ||| x, 0)
  | _ => (acc ^^^ x, 0)

/-- The first lane's value: a float is rounded, which makes a NaN canonical, and an integer stands in its lane as
R164 writes it; and, or, xor take the lane's 32 bits (R231). DEDUCED (log 89). -/
def redFirst (p : V4) (x : Word) : Word × Flags :=
  if tyFloat p.ty.toNat then p.modsOf.outF (Mode.ofRnd p.rnd.toNat) (laneFloat p.ty.toNat x, 0)
  else if p.vc.toNat < 3 then (intLane (laneInt p.ty.toNat x), 0)
  else (x, 0)

/-- The running values of a reduction along lanes: before each lane, and after it. -/
def scanLanes (p : V4) (a : VReg) : Option (Word × Flags) → List Nat → List (Nat × Option Word × Word) × Flags
  | acc, [] => ([], (acc.getD (0, 0)).2)
  | none, l :: r =>
    let x := redFirst p (laneOf a l)
    let (rest, f) := scanLanes p a (some x) r
    ((l, none, x.1) :: rest, f)
  | some acc, l :: r =>
    let y := redStep p acc.1 (laneOf a l)
    let x := (y.1, acc.2 ||| y.2)
    let (rest, f) := scanLanes p a (some x) r
    ((l, some acc.1, x.1) :: rest, f)

/-- With no active lane nothing is written, z or not (R231). -/
def execVred (c : Bool) (p : V4) (s : State) : Host.Outcome State Fault Refusal :=
  s.vec4 c p (.vred c p) [p.va.toNat] [p.vd.toNat] fun _ act rd =>
    let (steps, f) := scanLanes p (rd p.va.toNat) none (lanesOf act)
    let v := (steps.getLast?.map (fun e => e.2.2)).getD 0
    { regs := if act = 0 then [] else [(p.vd.toNat, List.replicate 64 v)], flags := f }

/-- The identity of an exclusive scan (R232). -/
def scanIdentity (ty op : Nat) : Word :=
  if tyFloat ty then
    match op with
    | 0 => BitVec.ofNat 32 ((fmtOfTy ty).signBit true)
    | 1 => BitVec.ofNat 32 ((fmtOfTy ty).infBits false)
    | _ => BitVec.ofNat 32 ((fmtOfTy ty).infBits true)
  else
    match op with
    | 1 => intLane (intMax ty)
    | 2 => intLane (intMin ty)
    | 3 => intLane (wrapInt ty (-1))
    | _ => 0

def execVscan (c : Bool) (p : V4) (s : State) : Host.Outcome State Fault Refusal :=
  s.vec4 c p (.vscan c p) [p.va.toNat] [p.vd.toNat] fun _ act rd =>
    let ident := scanIdentity p.ty.toNat p.vc.toNat
    let (steps, f) := scanLanes p (rd p.va.toNat) (if p.fnx then some (ident, 0) else none) (lanesOf (if p.fnx then act &&& ~~~ BitVec.ofNat 64 (2 ^ (lanesOf act).getLastD 0) else act))
    let last := (steps.getLast?.map (fun e => e.2.2)).getD ident
    laneOut p.vd.toNat act fun l =>
      match steps.find? (fun e => e.1 == l) with
      | some e => (if p.fnx then e.2.1.getD ident else e.2.2, f)
      | none => (last, f)

/-! ### Sampling (R233 to R235) -/

/-- The search of `vredmaxi` (R233): the winner's bits, value and index. -/
def maxIndex (ty : Nat) (a b : VReg) (ls : List Nat) : Option (Word × FVal × Word) :=
  ls.foldl (fun best l =>
    let x := laneFloat ty (laneOf a l)
    let i := laneOf b l
    if x.isNan || x == .inf true then best
    else
      match best with
      | none => some (laneOf a l, x, i)
      | some (_, bv, bi) => if bv.lt x || (x.eq bv && i.ult bi) then some (laneOf a l, x, i) else best) none

/-- With no active lane only NOMAX is written (R233). The winner's bits are written as a value of the type (R164). DEDUCED (log 24). -/
def execVredmaxi (c : Bool) (p : V4) (s : State) : Host.Outcome State Fault Refusal :=
  s.vec4 c p (.vredmaxi c p) p.ab (runFrom p.vd.toNat 2) fun w act rd =>
    let best := maxIndex p.ty.toNat (rd p.va.toNat) (rd p.vb.toNat) (lanesOf act)
    let val := match best with | some (bw, _, _) => BitVec.ofNat 32 (bw.toNat % 2 ^ tyBits p.ty.toNat) | none => BitVec.ofNat 32 ((fmtOfTy p.ty.toNat).infBits true)
    let idx := match best with | some (_, _, bi) => bi | none => 0xFFFFFFFF
    { regs := if act = 0 then [] else [(p.vd.toNat, List.replicate 64 val), (p.vd.toNat + 1, List.replicate 64 idx)],
      scc := some (setBit32 w.scc 4 best.isNone) }

/-- One lane of `vtopk` (R234): the list of (score, index) pairs and the count. -/
def topkLane (k : Nat) (cur : List (Word × Word)) (n : Word) (sc ix : Word) : List (Word × Word) × Word :=
  let x := laneFloat 2 sc
  if x.isNan || x == .inf true then (cur, n)
  else
    match (List.range k).find? (fun j =>
        let e := cur.getD j (0, 0)
        (laneFloat 2 e.1).lt x || (x.eq (laneFloat 2 e.1) && ix.ult e.2)) with
    | none => (cur, n)
    | some pos => ((cur.take pos ++ (sc, ix) :: cur.drop pos).take k, if n.toNat + 1 < k then n + 1 else BitVec.ofNat 32 k)

def execVtopk (c : Bool) (p : V4) (s : State) : Host.Outcome State Fault Refusal :=
  let k := p.vc.toNat % 16; let d := p.vd.toNat
  s.vec4 c p (.vtopk c p) (p.ab ++ (if p.fnx then [] else runFrom d (2 * k + 1))) (runFrom d (2 * k + 1)) fun _ act rd =>
    let a := rd p.va.toNat; let b := rd p.vb.toNat
    let old := (runFrom d (2 * k + 1)).map rd
    let one (l : Nat) := topkLane k
      ((List.range k).map (fun j => if p.fnx then (0xFF800000, 0xFFFFFFFF) else (laneOf (old.getD j zeroV) l, laneOf (old.getD (k + j) zeroV) l)))
      (if p.fnx then 0 else laneOf (old.getD (2 * k) zeroV) l) (laneOf a l) (laneOf b l)
    let res := allLanes.map (fun l => if act.getLsbD l then one l else ([], 0))
    { regs := (List.range k).map (fun j => (d + j, res.map (fun e => (e.1.getD j (0, 0)).1))) ++
        (List.range k).map (fun j => (d + k + j, res.map (fun e => (e.1.getD j (0, 0)).2))) ++ [(d + 2 * k, res.map (fun e => e.2))] }

/-- The mixing of `vrand` (R235). -/
def mixRounds : Nat → Word → Word
  | 0, x => x
  | n + 1, x => let y := x * 0x2C1B3C6D; mixRounds n (y ^^^ (y >>> (16 : Nat)))

def laneRand (ty : Nat) (ctr key : Word) : Word :=
  let x := mixRounds 4 (ctr ^^^ key)
  if ty = 1 then x else BitVec.ofNat 32 (fmtF32.round .rtz false (.fin false (2 * (x.toNat / 256) + 1) (-25) false)).1

/-- `vrand` is experimental (R25): without the key it is an illegal opcode. -/
def execVrand (c : Bool) (p : V4) (s : State) : Host.Outcome State Fault Refusal :=
  s.onWave fun w =>
    if !w.desc.permits then s.takeTrap w illegalOpcode
    else if emulated p.ty then s.parkEmulate w (.vrand c p) c
    else
      s.vector w p.ab [p.vd.toNat] (w.active p.km.toNat) p.z 2 c fun rd =>
        laneOut p.vd.toNat (w.active p.km.toNat) fun l => (laneRand p.ty.toNat (laneOf (rd p.va.toNat) l) (laneOf (rd p.vb.toNat) l), 0)

/-! ### Emulation of f64 (R182, R183) -/

/-- An emulated form: its sources and destinations, each a pair of registers when f64, and the lanes' results. -/
structure EmulForm where
  /-- Registers that hold f64 values, checked for evenness. -/
  f64 : List Nat
  srcs : List Nat
  dsts : List Nat
  z : Bool
  km : Nat
  run : Wave → LaneMask → (Nat → VReg) → VecOut

/-- The f64 value of a lane (R182). -/
def lane64 (rd : Nat → VReg) (n l : Nat) : FVal := fmtF64.decode (pairOf (laneOf (rd n) l) (laneOf (rd (n + 1)) l)).toNat

def pairRegs (ns : List Nat) : List Nat := ns.flatMap (fun n => [n, n + 1])

/-- An f64 result in a pair of registers. -/
def out64 (d : Nat) (act : LaneMask) (f : Nat → Nat × Flags) : VecOut :=
  let r := allLanes.map (fun l => if act.getLsbD l then f l else (0, 0))
  { regs := [(d, r.map (fun e => BitVec.ofNat 32 e.1)), (d + 1, r.map (fun e => BitVec.ofNat 32 (e.1 / 2 ^ 32)))],
    flags := r.foldl (fun acc e => acc ||| e.2) 0 }

/-- A binary64 arithmetic form of va, vb and vc, one rounding. -/
def emulArith (p : V4) (ns : List Nat) (f : Mode → FVal → FVal → FVal → FVal × Flags) : EmulForm :=
  { f64 := p.vd.toNat :: ns, srcs := pairRegs ns, dsts := pairRegs [p.vd.toNat], z := p.z, km := p.km.toNat,
    run := fun _ act rd => out64 p.vd.toNat act fun l =>
      let (x, g) := f (Mode.ofRnd p.rnd.toNat) (modFloat p.absa p.nega (lane64 rd p.va.toNat l))
        (modFloat false p.negb (lane64 rd p.vb.toNat l)) (lane64 rd p.vc.toNat l)
      let (b, h) := fmtF64.round (Mode.ofRnd p.rnd.toNat) false x
      (b, g ||| h) }

/-- `vcvt` with f64 on one side (R182), absa and nega applied to the source value first (R120, R166). -/
def emulCvt (p : V4) : Option EmulForm :=
  let d := p.ty.toNat; let a := p.va.toNat; let m := Mode.ofRnd p.rnd.toNat
  let src64 := fun (rd : Nat → VReg) (l : Nat) => modFloat p.absa p.nega (lane64 rd a l)
  if d = 13 ∧ p.srcTy = 13 then
    some { f64 := [p.vd.toNat, a], srcs := pairRegs [a], dsts := pairRegs [p.vd.toNat], z := p.z, km := p.km.toNat,
           run := fun _ act rd => out64 p.vd.toNat act fun l => ((fmtF64.round m false (src64 rd l)).1, 0) }
  else if d = 13 ∧ (p.srcTy = 0 ∨ p.srcTy = 1 ∨ p.srcTy = 2) then
    some { f64 := [p.vd.toNat], srcs := [a], dsts := pairRegs [p.vd.toNat], z := p.z, km := p.km.toNat,
           run := fun _ act rd => out64 p.vd.toNat act fun l =>
             fmtF64.round m false (if p.srcTy = 2 then modFloat p.absa p.nega (laneFloat 2 (laneOf (rd a) l))
               else intVal (modInt p.srcTy false p.absa p.nega (laneInt p.srcTy (laneOf (rd a) l))).1) }
  else if p.srcTy = 13 ∧ (d = 0 ∨ d = 1 ∨ d = 2) then
    some { f64 := [a], srcs := pairRegs [a], dsts := [p.vd.toNat], z := p.z, km := p.km.toNat,
           run := fun _ act rd => laneOut p.vd.toNat act fun l =>
             if d = 2 then let (b, f) := fmtF32.round m false (src64 rd l); (BitVec.ofNat 32 b, f)
             else let (v, f) := floatToInt m d false (src64 rd l); (intLane v, f) }
  else none

/-- The forms that the firmware emulates (R182): none for the others. -/
def emulForm : Instr → Option EmulForm
  | .vadd _ p => if p.ty == 13 then some (emulArith p p.ab (fun m x y _ => x.add m y)) else none
  | .vsub _ p => if p.ty == 13 then some (emulArith p p.ab (fun m x y _ => x.add m y.negate)) else none
  | .vmul _ p => if p.ty == 13 then some (emulArith p p.ab (fun _ x y _ => x.mul y)) else none
  | .vfma _ p => if p.ty == 13 then some (emulArith p p.abc (fun m x y z => FVal.fma m x y z)) else none
  | .vmin _ p => if p.ty == 13 then some (emulArith p p.ab (fun _ x y _ => (FVal.minMax false x y, 0))) else none
  | .vmax _ p => if p.ty == 13 then some (emulArith p p.ab (fun _ x y _ => (FVal.minMax true x y, 0))) else none
  | .vsqrt _ p => if p.ty == 13 then some (emulArith p [p.va.toNat] (fun _ x _ _ => x.sqrt)) else none
  | .vcmp _ p =>
    if p.ty == 13 then
      some { f64 := p.ab, srcs := pairRegs p.ab, dsts := [], z := p.z, km := p.km.toNat,
             run := fun w act rd =>
               let kd := p.vd.toNat % 16
               let new := maskWhere (fun l => cmpFloat p.vc.toNat (modFloat p.absa p.nega (lane64 rd p.va.toNat l))
                 (modFloat false p.negb (lane64 rd p.vb.toNat l))) &&& act
               { regs := [], k := some (kd, if p.z then new else new ||| (w.rk kd &&& ~~~act)) } }
    else none
  | .vcvt _ p => if p.ty == 14 || p.srcTy == 14 then none else emulCvt p
  | _ => none

/-- FIRMWARE_EMULATE_DONE (R183): the parked instruction's whole effect in one step, or a halt of the wave. EMULOPS counts it before
its backing-store registers are found readable. DESIGN CHOICE (log 77). -/
def execFirmwareEmulateDone (s : State) : Host.Outcome State Fault Refusal :=
  match s.wave? s.input.uid with
  | none => .next s
  | some w =>
    match w.life with
    | .parked (.emulate i) =>
      match emulForm i with
      | none => .next (s.haltWave w { cause := 0x07, fw := true })
      | some f =>
        if f.f64.any (fun n => n % 2 == 1) then .next (s.haltWave w { illegalEncoding with fw := true })
        else
          let w := { w with life := .ready }
          let s := { s with emulOps := s.emulOps + 1 }.putWave w
          .next (s.vector w f.srcs f.dsts (w.active f.km) f.z 2 w.parkC (f.run w (w.active f.km)))
    | _ => .next s

end Sys2Proof.Machine
end

