-- ==== Sys2Proof/Machine/Dispatch.lean ====
section
/-! DEFINITION. The dispatch: one arm per constructor of Instr, each a direct call of its meaning. -/

namespace Sys2Proof.Machine

def exec (i : Instr) (s : State) : Host.Outcome State Fault Refusal :=
  match i with
  | .nop c => Sys2Proof.Machine.execNop c s
  | .nopHeader budget mstk => Sys2Proof.Machine.execNopHeader budget mstk s
  | .sadd c d a b => Sys2Proof.Machine.execSadd c d a b s
  | .ssub c d a b => Sys2Proof.Machine.execSsub c d a b s
  | .smul c d a b => Sys2Proof.Machine.execSmul c d a b s
  | .smulh c d a b => Sys2Proof.Machine.execSmulh c d a b s
  | .smulhu c d a b => Sys2Proof.Machine.execSmulhu c d a b s
  | .sdiv c d a b => Sys2Proof.Machine.execSdiv c d a b s
  | .sdivu c d a b => Sys2Proof.Machine.execSdivu c d a b s
  | .srem c d a b => Sys2Proof.Machine.execSrem c d a b s
  | .sremu c d a b => Sys2Proof.Machine.execSremu c d a b s
  | .sand c d a b => Sys2Proof.Machine.execSand c d a b s
  | .sor c d a b => Sys2Proof.Machine.execSor c d a b s
  | .sxor c d a b => Sys2Proof.Machine.execSxor c d a b s
  | .sshl c d a b => Sys2Proof.Machine.execSshl c d a b s
  | .sshr c d a b => Sys2Proof.Machine.execSshr c d a b s
  | .ssra c d a b => Sys2Proof.Machine.execSsra c d a b s
  | .smin c d a b => Sys2Proof.Machine.execSmin c d a b s
  | .smax c d a b => Sys2Proof.Machine.execSmax c d a b s
  | .sminu c d a b => Sys2Proof.Machine.execSminu c d a b s
  | .smaxu c d a b => Sys2Proof.Machine.execSmaxu c d a b s
  | .saddSi c d a imm => Sys2Proof.Machine.execSaddSi c d a imm s
  | .saddSi32 d a imm => Sys2Proof.Machine.execSaddSi32 d a imm s
  | .ssubSi c d a imm => Sys2Proof.Machine.execSsubSi c d a imm s
  | .ssubSi32 d a imm => Sys2Proof.Machine.execSsubSi32 d a imm s
  | .smulSi c d a imm => Sys2Proof.Machine.execSmulSi c d a imm s
  | .smulSi32 d a imm => Sys2Proof.Machine.execSmulSi32 d a imm s
  | .smulhSi c d a imm => Sys2Proof.Machine.execSmulhSi c d a imm s
  | .smulhSi32 d a imm => Sys2Proof.Machine.execSmulhSi32 d a imm s
  | .smulhuSi c d a imm => Sys2Proof.Machine.execSmulhuSi c d a imm s
  | .smulhuSi32 d a imm => Sys2Proof.Machine.execSmulhuSi32 d a imm s
  | .sdivSi c d a imm => Sys2Proof.Machine.execSdivSi c d a imm s
  | .sdivSi32 d a imm => Sys2Proof.Machine.execSdivSi32 d a imm s
  | .sdivuSi c d a imm => Sys2Proof.Machine.execSdivuSi c d a imm s
  | .sdivuSi32 d a imm => Sys2Proof.Machine.execSdivuSi32 d a imm s
  | .sremSi c d a imm => Sys2Proof.Machine.execSremSi c d a imm s
  | .sremSi32 d a imm => Sys2Proof.Machine.execSremSi32 d a imm s
  | .sremuSi c d a imm => Sys2Proof.Machine.execSremuSi c d a imm s
  | .sremuSi32 d a imm => Sys2Proof.Machine.execSremuSi32 d a imm s
  | .sandSi c d a imm => Sys2Proof.Machine.execSandSi c d a imm s
  | .sandSi32 d a imm => Sys2Proof.Machine.execSandSi32 d a imm s
  | .sorSi c d a imm => Sys2Proof.Machine.execSorSi c d a imm s
  | .sorSi32 d a imm => Sys2Proof.Machine.execSorSi32 d a imm s
  | .sxorSi c d a imm => Sys2Proof.Machine.execSxorSi c d a imm s
  | .sxorSi32 d a imm => Sys2Proof.Machine.execSxorSi32 d a imm s
  | .sshlSi c d a imm => Sys2Proof.Machine.execSshlSi c d a imm s
  | .sshlSi32 d a imm => Sys2Proof.Machine.execSshlSi32 d a imm s
  | .sshrSi c d a imm => Sys2Proof.Machine.execSshrSi c d a imm s
  | .sshrSi32 d a imm => Sys2Proof.Machine.execSshrSi32 d a imm s
  | .ssraSi c d a imm => Sys2Proof.Machine.execSsraSi c d a imm s
  | .ssraSi32 d a imm => Sys2Proof.Machine.execSsraSi32 d a imm s
  | .sminSi c d a imm => Sys2Proof.Machine.execSminSi c d a imm s
  | .sminSi32 d a imm => Sys2Proof.Machine.execSminSi32 d a imm s
  | .smaxSi c d a imm => Sys2Proof.Machine.execSmaxSi c d a imm s
  | .smaxSi32 d a imm => Sys2Proof.Machine.execSmaxSi32 d a imm s
  | .sminuSi c d a imm => Sys2Proof.Machine.execSminuSi c d a imm s
  | .sminuSi32 d a imm => Sys2Proof.Machine.execSminuSi32 d a imm s
  | .smaxuSi c d a imm => Sys2Proof.Machine.execSmaxuSi c d a imm s
  | .smaxuSi32 d a imm => Sys2Proof.Machine.execSmaxuSi32 d a imm s
  | .smovSi c d imm => Sys2Proof.Machine.execSmovSi c d imm s
  | .smovSi32 d imm => Sys2Proof.Machine.execSmovSi32 d imm s
  | .scmp c d a cc x_i imm => Sys2Proof.Machine.execScmp c d a cc x_i imm s
  | .ssel c d a b => Sys2Proof.Machine.execSsel c d a b s
  | .sbfe c d a pos len => Sys2Proof.Machine.execSbfe c d a pos len s
  | .sbfeu c d a pos len => Sys2Proof.Machine.execSbfeu c d a pos len s
  | .sbfi c d a pos len => Sys2Proof.Machine.execSbfi c d a pos len s
  | .sclz c d a => Sys2Proof.Machine.execSclz c d a s
  | .sctz c d a => Sys2Proof.Machine.execSctz c d a s
  | .spopc c d a => Sys2Proof.Machine.execSpopc c d a s
  | .sbrev c d a => Sys2Proof.Machine.execSbrev c d a s
  | .sext8 c d a => Sys2Proof.Machine.execSext8 c d a s
  | .sext16 c d a => Sys2Proof.Machine.execSext16 c d a s
  | .sadd64 c d a x_i imm => Sys2Proof.Machine.execSadd64 c d a x_i imm s
  | .ssub64 c d a x_i imm => Sys2Proof.Machine.execSsub64 c d a x_i imm s
  | .smul64 c d a x_i imm => Sys2Proof.Machine.execSmul64 c d a x_i imm s
  | .sshl64 c d a x_i imm => Sys2Proof.Machine.execSshl64 c d a x_i imm s
  | .sshr64 c d a x_i imm => Sys2Proof.Machine.execSshr64 c d a x_i imm s
  | .ssra64 c d a x_i imm => Sys2Proof.Machine.execSsra64 c d a x_i imm s
  | .smov64 c d x_i imm => Sys2Proof.Machine.execSmov64 c d x_i imm s
  | .setfmt c src a imm => Sys2Proof.Machine.execSetfmt c src a imm s
  | .sget c d n => Sys2Proof.Machine.execSget c d n s
  | .sput c n a => Sys2Proof.Machine.execSput c n a s
  | .b c off => Sys2Proof.Machine.execB c off s
  | .bc c cond off => Sys2Proof.Machine.execBc c cond off s
  | .bu c ka off => Sys2Proof.Machine.execBu c ka off s
  | .loop c a imm => Sys2Proof.Machine.execLoop c a imm s
  | .call off => Sys2Proof.Machine.execCall off s
  | .callp a => Sys2Proof.Machine.execCallp a s
  | .ret => Sys2Proof.Machine.execRet s
  | .stub ident => Sys2Proof.Machine.execStub ident s
  | .mpush c ka => Sys2Proof.Machine.execMpush c ka s
  | .melse c ka => Sys2Proof.Machine.execMelse c ka s
  | .mpop c => Sys2Proof.Machine.execMpop c s
  | .kand c kd ka kb => Sys2Proof.Machine.execKand c kd ka kb s
  | .kor c kd ka kb => Sys2Proof.Machine.execKor c kd ka kb s
  | .kxor c kd ka kb => Sys2Proof.Machine.execKxor c kd ka kb s
  | .kandn c kd ka kb => Sys2Proof.Machine.execKandn c kd ka kb s
  | .knot c kd ka => Sys2Proof.Machine.execKnot c kd ka s
  | .kmov c kd ka => Sys2Proof.Machine.execKmov c kd ka s
  | .kshl c kd ka n => Sys2Proof.Machine.execKshl c kd ka n s
  | .kshr c kd ka n => Sys2Proof.Machine.execKshr c kd ka n s
  | .kpopc c ka x_s => Sys2Proof.Machine.execKpopc c ka x_s s
  | .kffs c ka x_s => Sys2Proof.Machine.execKffs c ka x_s s
  | .kfroms c kd x_s => Sys2Proof.Machine.execKfroms c kd x_s s
  | .ktos c ka x_s => Sys2Proof.Machine.execKtos c ka x_s s
  | .voteK c kd ka kb => Sys2Proof.Machine.execVoteK c kd ka kb s
  | .voteF c ka kb => Sys2Proof.Machine.execVoteF c ka kb s
  | .voteKf c kd ka kb => Sys2Proof.Machine.execVoteKf c kd ka kb s
  | .spawn d a b => Sys2Proof.Machine.execSpawn d a b s
  | .tnext c d a => Sys2Proof.Machine.execTnext c d a s
  | .hpush c d a => Sys2Proof.Machine.execHpush c d a s
  | .hadmit c d a b => Sys2Proof.Machine.execHadmit c d a b s
  | .hadmitMulti c d a b => Sys2Proof.Machine.execHadmitMulti c d a b s
  | .vaddF32Short c d a b => Sys2Proof.Machine.execVaddF32Short c d a b s
  | .vmulF32Short c d a b => Sys2Proof.Machine.execVmulF32Short c d a b s
  | .vaddI32Short c d a b => Sys2Proof.Machine.execVaddI32Short c d a b s
  | .vmovShort c d a => Sys2Proof.Machine.execVmovShort c d a s
  | .vadd c p => Sys2Proof.Machine.execVadd c p s
  | .vsub c p => Sys2Proof.Machine.execVsub c p s
  | .vmul c p => Sys2Proof.Machine.execVmul c p s
  | .vfma c p => Sys2Proof.Machine.execVfma c p s
  | .vmin c p => Sys2Proof.Machine.execVmin c p s
  | .vmax c p => Sys2Proof.Machine.execVmax c p s
  | .vmulh c p => Sys2Proof.Machine.execVmulh c p s
  | .vrcp c p => Sys2Proof.Machine.execVrcp c p s
  | .vsqrt c p => Sys2Proof.Machine.execVsqrt c p s
  | .vrsqrt c p => Sys2Proof.Machine.execVrsqrt c p s
  | .vlog2 c p => Sys2Proof.Machine.execVlog2 c p s
  | .vexp2 c p => Sys2Proof.Machine.execVexp2 c p s
  | .vand c p => Sys2Proof.Machine.execVand c p s
  | .vor c p => Sys2Proof.Machine.execVor c p s
  | .vxor c p => Sys2Proof.Machine.execVxor c p s
  | .vshl c p => Sys2Proof.Machine.execVshl c p s
  | .vshr c p => Sys2Proof.Machine.execVshr c p s
  | .vsra c p => Sys2Proof.Machine.execVsra c p s
  | .vaddVs c p => Sys2Proof.Machine.execVaddVs c p s
  | .vsubVs c p => Sys2Proof.Machine.execVsubVs c p s
  | .vmulVs c p => Sys2Proof.Machine.execVmulVs c p s
  | .vfmaVs c p => Sys2Proof.Machine.execVfmaVs c p s
  | .vminVs c p => Sys2Proof.Machine.execVminVs c p s
  | .vmaxVs c p => Sys2Proof.Machine.execVmaxVs c p s
  | .vrcpVs c p => Sys2Proof.Machine.execVrcpVs c p s
  | .vsqrtVs c p => Sys2Proof.Machine.execVsqrtVs c p s
  | .vrsqrtVs c p => Sys2Proof.Machine.execVrsqrtVs c p s
  | .vlog2Vs c p => Sys2Proof.Machine.execVlog2Vs c p s
  | .vexp2Vs c p => Sys2Proof.Machine.execVexp2Vs c p s
  | .vandVs c p => Sys2Proof.Machine.execVandVs c p s
  | .vorVs c p => Sys2Proof.Machine.execVorVs c p s
  | .vxorVs c p => Sys2Proof.Machine.execVxorVs c p s
  | .vshlVs c p => Sys2Proof.Machine.execVshlVs c p s
  | .vshrVs c p => Sys2Proof.Machine.execVshrVs c p s
  | .vsraVs c p => Sys2Proof.Machine.execVsraVs c p s
  | .vcmp c p => Sys2Proof.Machine.execVcmp c p s
  | .vsel c p => Sys2Proof.Machine.execVsel c p s
  | .vcvt c p => Sys2Proof.Machine.execVcvt c p s
  | .vcvtLegacy c p => Sys2Proof.Machine.execVcvtLegacy c p s
  | .vpack c p => Sys2Proof.Machine.execVpack c p s
  | .vunpack c p => Sys2Proof.Machine.execVunpack c p s
  | .vperm c p => Sys2Proof.Machine.execVperm c p s
  | .vbcast c p => Sys2Proof.Machine.execVbcast c p s
  | .vrot c p => Sys2Proof.Machine.execVrot c p s
  | .vshup c p => Sys2Proof.Machine.execVshup c p s
  | .vshdn c p => Sys2Proof.Machine.execVshdn c p s
  | .vsplat c p => Sys2Proof.Machine.execVsplat c p s
  | .vred c p => Sys2Proof.Machine.execVred c p s
  | .vscan c p => Sys2Proof.Machine.execVscan c p s
  | .vredmaxi c p => Sys2Proof.Machine.execVredmaxi c p s
  | .vtopk c p => Sys2Proof.Machine.execVtopk c p s
  | .vdot4 c p => Sys2Proof.Machine.execVdot4 c p s
  | .vrand c p => Sys2Proof.Machine.execVrand c p s
  | .vclz c p => Sys2Proof.Machine.execVclz c p s
  | .vpopc c p => Sys2Proof.Machine.execVpopc c p s
  | .vbrev c p => Sys2Proof.Machine.execVbrev c p s
  | .vrnd c p => Sys2Proof.Machine.execVrnd c p s
  | .ld c p => Sys2Proof.Machine.execLd c p s
  | .st c p => Sys2Proof.Machine.execSt c p s
  | .sld c p => Sys2Proof.Machine.execSld c p s
  | .sst c p => Sys2Proof.Machine.execSst c p s
  | .ldp c p => Sys2Proof.Machine.execLdp c p s
  | .stp c p => Sys2Proof.Machine.execStp c p s
  | .lds16 c p => Sys2Proof.Machine.execLds16 c p s
  | .ldt p => Sys2Proof.Machine.execLdt p s
  | .stt p => Sys2Proof.Machine.execStt p s
  | .cpy p => Sys2Proof.Machine.execCpy p s
  | .cpyt p => Sys2Proof.Machine.execCpyt p s
  | .atom c p => Sys2Proof.Machine.execAtom c p s
  | .hinc c p => Sys2Proof.Machine.execHinc c p s
  | .ldv c p => Sys2Proof.Machine.execLdv c p s
  | .valset c d a => Sys2Proof.Machine.execValset c d a s
  | .valst c d a sv => Sys2Proof.Machine.execValst c d a sv s
  | .casv c p => Sys2Proof.Machine.execCasv c p s
  | .chunk c d a => Sys2Proof.Machine.execChunk c d a s
  | .waitc c nl ns nc nm => Sys2Proof.Machine.execWaitc c nl ns nc nm s
  | .prefL1 c a n => Sys2Proof.Machine.execPrefL1 c a n s
  | .prefL2 c a n => Sys2Proof.Machine.execPrefL2 c a n s
  | .cwb c a n => Sys2Proof.Machine.execCwb c a n s
  | .cinv c a n => Sys2Proof.Machine.execCinv c a n s
  | .mmq p => Sys2Proof.Machine.execMmq p s
  | .mmqSp p => Sys2Proof.Machine.execMmqSp p s
  | .bload p => Sys2Proof.Machine.execBload p s
  | .accz p => Sys2Proof.Machine.execAccz p s
  | .accrd p => Sys2Proof.Machine.execAccrd p s
  | .accwr p => Sys2Proof.Machine.execAccwr p s
  | .mwalk c p => Sys2Proof.Machine.execMwalk c p s
  | .mfence c d => Sys2Proof.Machine.execMfence c d s
  | .mwait c a => Sys2Proof.Machine.execMwait c a s
  | .mparam c p => Sys2Proof.Machine.execMparam c p s
  | .fence c order scope => Sys2Proof.Machine.execFence c order scope s
  | .join c name => Sys2Proof.Machine.execJoin c name s
  | .leave c => Sys2Proof.Machine.execLeave c s
  | .barr c d a lvl name => Sys2Proof.Machine.execBarr c d a lvl name s
  | .bwait c a lvl name => Sys2Proof.Machine.execBwait c a lvl name s
  | .barrw c d a lvl name => Sys2Proof.Machine.execBarrw c d a lvl name s
  | .barOld c name count => Sys2Proof.Machine.execBarOld c name count s
  | .binit c a expected => Sys2Proof.Machine.execBinit c a expected s
  | .bfree c a => Sys2Proof.Machine.execBfree c a s
  | .sarr c d a => Sys2Proof.Machine.execSarr c d a s
  | .swait c d a sb => Sys2Proof.Machine.execSwait c d a sb s
  | .semacq c d a n x_i amount => Sys2Proof.Machine.execSemacq c d a n x_i amount s
  | .semadd c a n x_i amount => Sys2Proof.Machine.execSemadd c a n x_i amount s
  | .semaddW c d a n x_i amount => Sys2Proof.Machine.execSemaddW c d a n x_i amount s
  | .gbind p => Sys2Proof.Machine.execGbind p s
  | .gstep c p => Sys2Proof.Machine.execGstep c p s
  | .gmask p => Sys2Proof.Machine.execGmask p s
  | .gmaskDelta p => Sys2Proof.Machine.execGmaskDelta p s
  | .gfork c p => Sys2Proof.Machine.execGfork c p s
  | .groll c p => Sys2Proof.Machine.execGroll c p s
  | .gcommit c p => Sys2Proof.Machine.execGcommit c p s
  | .gfree c p => Sys2Proof.Machine.execGfree c p s
  | .trap a code => Sys2Proof.Machine.execTrap a code s
  | .ecall a code => Sys2Proof.Machine.execEcall a code s
  | .sleep a sem => Sys2Proof.Machine.execSleep a sem s
  | .rte => Sys2Proof.Machine.execRte s
  | .ckpt vb sb sg vm => Sys2Proof.Machine.execCkpt vb sb sg vm s
  | .will c p => Sys2Proof.Machine.execWill c p s
  | .claim c p => Sys2Proof.Machine.execClaim c p s
  | .eprobe c p => Sys2Proof.Machine.execEprobe c p s
  | .exit => Sys2Proof.Machine.execExit s
  | .powerOn => Sys2Proof.Machine.execPowerOn s
  | .recoveryImageLoad => Sys2Proof.Machine.execRecoveryImageLoad s
  | .powerDown => Sys2Proof.Machine.execPowerDown s
  | .lifeCommit => Sys2Proof.Machine.execLifeCommit s
  | .thermalThrottle => Sys2Proof.Machine.execThermalThrottle s
  | .thermalTrip => Sys2Proof.Machine.execThermalTrip s
  | .pcieLinkTrain => Sys2Proof.Machine.execPcieLinkTrain s
  | .peerPortTrain => Sys2Proof.Machine.execPeerPortTrain s
  | .peerPortDown => Sys2Proof.Machine.execPeerPortDown s
  | .peerDownTimeout => Sys2Proof.Machine.execPeerDownTimeout s
  | .peerRequestIn => Sys2Proof.Machine.execPeerRequestIn s
  | .hostWriteIn => Sys2Proof.Machine.execHostWriteIn s
  | .hostReadIn => Sys2Proof.Machine.execHostReadIn s
  | .pageResponse => Sys2Proof.Machine.execPageResponse s
  | .atsInvalidation => Sys2Proof.Machine.execAtsInvalidation s
  | .tdiConfigLocked => Sys2Proof.Machine.execTdiConfigLocked s
  | .tdiLeaveRun => Sys2Proof.Machine.execTdiLeaveRun s
  | .attestationRequest => Sys2Proof.Machine.execAttestationRequest s
  | .qcmdEnable => Sys2Proof.Machine.execQcmdEnable s
  | .qcmdDisable => Sys2Proof.Machine.execQcmdDisable s
  | .qcmdReset => Sys2Proof.Machine.execQcmdReset s
  | .qcmdClear => Sys2Proof.Machine.execQcmdClear s
  | .notify => Sys2Proof.Machine.execNotify s
  | .pctlCreate => Sys2Proof.Machine.execPctlCreate s
  | .pctlDestroy => Sys2Proof.Machine.execPctlDestroy s
  | .pcsw => Sys2Proof.Machine.execPcsw s
  | .dptinvPage => Sys2Proof.Machine.execDptinvPage s
  | .dptinvAll => Sys2Proof.Machine.execDptinvAll s
  | .dptinvBusyClear => Sys2Proof.Machine.execDptinvBusyClear s
  | .pinFault => Sys2Proof.Machine.execPinFault s
  | .dptstatRead => Sys2Proof.Machine.execDptstatRead s
  | .resridxWrite => Sys2Proof.Machine.execResridxWrite s
  | .registerWrite => Sys2Proof.Machine.execRegisterWrite s
  | .packetConsume => Sys2Proof.Machine.execPacketConsume s
  | .launch => Sys2Proof.Machine.execLaunch s
  | .tilelaunch => Sys2Proof.Machine.execTilelaunch s
  | .tilelaunchFeed => Sys2Proof.Machine.execTilelaunchFeed s
  | .tileCountPoll => Sys2Proof.Machine.execTileCountPoll s
  | .barrierAnd => Sys2Proof.Machine.execBarrierAnd s
  | .barrierOr => Sys2Proof.Machine.execBarrierOr s
  | .barrierDepPoll => Sys2Proof.Machine.execBarrierDepPoll s
  | .signalStore => Sys2Proof.Machine.execSignalStore s
  | .signalAdd => Sys2Proof.Machine.execSignalAdd s
  | .estateClose => Sys2Proof.Machine.execEstateClose s
  | .copy => Sys2Proof.Machine.execCopy s
  | .grammarBind => Sys2Proof.Machine.execGrammarBind s
  | .packetDeadlineExpire => Sys2Proof.Machine.execPacketDeadlineExpire s
  | .packetComplete => Sys2Proof.Machine.execPacketComplete s
  | .placementPass => Sys2Proof.Machine.execPlacementPass s
  | .affinityHoldExpire => Sys2Proof.Machine.execAffinityHoldExpire s
  | .backfillLimitExpire => Sys2Proof.Machine.execBackfillLimitExpire s
  | .taskCardBirth => Sys2Proof.Machine.execTaskCardBirth s
  | .estateTake => Sys2Proof.Machine.execEstateTake s
  | .estateTransferDone => Sys2Proof.Machine.execEstateTransferDone s
  | .waveBirthDone => Sys2Proof.Machine.execWaveBirthDone s
  | .estateEvictDone => Sys2Proof.Machine.execEstateEvictDone s
  | .residueRecordWritten => Sys2Proof.Machine.execResidueRecordWritten s
  | .estateCloseStep => Sys2Proof.Machine.execEstateCloseStep s
  | .domainTimerExpire => Sys2Proof.Machine.execDomainTimerExpire s
  | .asyncWriteLands => Sys2Proof.Machine.execAsyncWriteLands s
  | .copyComplete => Sys2Proof.Machine.execCopyComplete s
  | .bloadComplete => Sys2Proof.Machine.execBloadComplete s
  | .bSlotReloadDone => Sys2Proof.Machine.execBSlotReloadDone s
  | .matrixPassDepart => Sys2Proof.Machine.execMatrixPassDepart s
  | .matrixPassDone => Sys2Proof.Machine.execMatrixPassDone s
  | .mwalkComplete => Sys2Proof.Machine.execMwalkComplete s
  | .brambleComplete => Sys2Proof.Machine.execBrambleComplete s
  | .watchdogExpire => Sys2Proof.Machine.execWatchdogExpire s
  | .waveOverdue => Sys2Proof.Machine.execWaveOverdue s
  | .sleepExpire => Sys2Proof.Machine.execSleepExpire s
  | .firmwareEmulateDone => Sys2Proof.Machine.execFirmwareEmulateDone s
  | .ecallDone => Sys2Proof.Machine.execEcallDone s
  | .waveTakeOff => Sys2Proof.Machine.execWaveTakeOff s
  | .waveRestartDone => Sys2Proof.Machine.execWaveRestartDone s
  | .contextSliceExpire => Sys2Proof.Machine.execContextSliceExpire s
  | .contextHaltDone => Sys2Proof.Machine.execContextHaltDone s
  | .contextRestoreDone => Sys2Proof.Machine.execContextRestoreDone s
  | .waveRetire => Sys2Proof.Machine.execWaveRetire s
  | .l1Evict => Sys2Proof.Machine.execL1Evict s
  | .l2Evict => Sys2Proof.Machine.execL2Evict s
  | .storeApplied => Sys2Proof.Machine.execStoreApplied s
  | .walkBLoadDone => Sys2Proof.Machine.execWalkBLoadDone s
  | .powerOnHour => Sys2Proof.Machine.execPowerOnHour s

end Sys2Proof.Machine
end

