-- ==== Sys2Proof/Machine/Timers.lean ====
section
/-! DEFINITION. What the passing of device time makes due: the ends of sleeps, sealed stretches, domains, holds, slices and
timeouts, the polls of R47 and R51, and the commits and hours of R408. -/

namespace Sys2Proof.Machine

/-- A wave whose sleep (R387) or whose sealed stretch (R373) has reached its end, or that waits to be taken off (R376). -/
def State.waveTimers (s : State) (w : Wave) : State :=
  let s := match w.life with
    | .parked (.sleep t _) => if t.toNat ≤ s.dtime.toNat then s.dueOnce .sleepExpire { uid := w.uid } else s
    | _ => s
  let s := if s.overstayed w then s.dueOnce .watchdogExpire { uid := w.uid } else s
  if w.chosen then s.dueOnce .waveTakeOff { uid := w.uid } else s

/-- A launch whose waves' holds have ended (R65), or whose blocked wave has waited PBFLIM ticks (R60). -/
def State.launchTimers (s : State) (l : Launch) : State :=
  let s := (l.holds.filter (fun h => decide (h.2.2.toNat ≤ s.dtime.toNat))).foldl
    (fun (s : State) h => s.dueOnce .affinityHoldExpire { part := l.part, idx := l.id, slot := h.1 }) s
  if l.blocked.any (fun b => !b.2.2 && decide (b.2.1.toNat ≤ s.dtime.toNat)) then s.dueOnce .backfillLimitExpire { part := l.part } else s

/-- A restarting wave blocked for PBFLIM ticks (R60). -/
def State.restartTimers (s : State) (w : Wave) : State :=
  match w.blocked with
  | some (t, false) => if t.toNat ≤ s.dtime.toNat then s.dueOnce .backfillLimitExpire { part := w.part } else s
  | _ => s

/-- An OPEN domain whose time has come (R103). -/
def State.domainTimers (s : State) (e : Nat × Domain) : State :=
  if e.2.state = .open ∧ e.2.timer ≠ 0 ∧ e.2.openTime.toNat + e.2.timer ≤ s.dtime.toNat ∧ e.2.cx = (s.part (e.1 / 4096)).active then
    s.dueOnce .domainTimerExpire { part := e.1 / 4096, dom := e.1 % 4096 }
  else s

/-- A partition whose active context has had its slice, while another has work (R381). -/
def State.sliceTimer (s : State) (n : Nat) : State :=
  let p := s.part n
  if p.live ∧ p.slice ≠ 0 ∧ p.switching = none ∧ p.activeSince.toNat + p.slice.toNat ≤ s.dtime.toNat ∧
      (s.hasWork n ((p.active + 1) % 3) ∨ s.hasWork n ((p.active + 2) % 3)) then
    s.dueOnce .contextSliceExpire { part := n }
  else s

/-- A function whose DPTINV has been under way for 50 µs (R380). -/
def State.pinTimer (s : State) (f : Nat) : State :=
  if (s.func f).busy ∧ (s.func f).busySince.toNat + 50000 ≤ s.dtime.toNat then s.dueOnce .pinFault { fn := f } else s

/-- Requests that a peer port lost 50 µs ago (R405). -/
def State.portTimer (s : State) (n : Nat) : State :=
  match s.ports[n]? with
  | some p =>
    if p.lost.any (fun e => decide (e.2.toNat ≤ s.dtime.toNat)) then s.dueOnce .peerDownTimeout { port := n } else s
  | none => s

/-- Packets not yet started whose DEADLINE has passed (R40). -/
def State.deadlineTimers (s : State) (x : Queue) : State :=
  (x.packets.filter (fun p => p.stage == .consumed && p.late s.dtime)).foldl
    (fun (s : State) p => s.dueOnce .packetDeadlineExpire { fn := x.fn, queue := x.q, idx := p.idx }) s

/-- A multiple of `period` lies in the ticks from `was` to now. -/
def State.crossed (s : State) (was : DWord) (period : Nat) : Bool := was.toNat / period != s.dtime.toNat / period

/-- Power-on hours that have ended (R408): the hottest junction of each is a free value. -/
def State.hours (s : State) : Nat → State
  | 0 => s
  | n + 1 => (({ s with draws := s.draws + 1 }).due .powerOnHour { size := (Config.freeWord s.draws).toNat % 256 }).hours n

/-- Everything that the time since `was` made due. The polls come once each 1 µs (R47, R51), and a halt under way is looked at. -/
def State.timers (s : State) (was : DWord) : State :=
  let s := s.waves.foldl State.waveTimers s
  let s := s.waves.foldl State.restartTimers s
  let s := s.launches.foldl State.launchTimers s
  let s := s.domains.foldl State.domainTimers s
  let s := (List.range 16).foldl State.sliceTimer s
  let s := (List.range 65).foldl State.pinTimer s
  let s := ((List.range 16).filter (fun n => (s.part n).switching.any (fun x => !x.2))).foldl (fun s n => s.dueOnce .contextHaltDone { part := n }) s
  let s := (List.range 16).foldl State.portTimer s
  let s := s.queues.foldl State.deadlineTimers s
  let s := if s.crossed was 1000 then s.queues.foldl State.stirQueue s else s
  let s := if s.crossed was 600000000000 then s.dueOnce .lifeCommit {} else s
  s.hours (s.dtime.toNat / 3600000000000 - was.toNat / 3600000000000)

/-- n ticks of device time pass. -/
def State.passTime (s : State) (n : Nat) : State :=
  { s with dtime := s.dtime + BitVec.ofNat 64 n }.timers s.dtime

/-- Events of the opcode table: the steps of the device that no instruction word encodes. -/
def Instr.isEvent : Instr → Bool
  | .powerOn | .recoveryImageLoad | .powerDown | .lifeCommit | .thermalThrottle | .thermalTrip | .pcieLinkTrain | .peerPortTrain
  | .peerPortDown | .peerDownTimeout | .peerRequestIn | .hostWriteIn | .hostReadIn | .pageResponse | .atsInvalidation | .tdiConfigLocked
  | .tdiLeaveRun | .attestationRequest | .qcmdEnable | .qcmdDisable | .qcmdReset | .qcmdClear | .notify | .pctlCreate | .pctlDestroy
  | .pcsw | .dptinvPage | .dptinvAll | .dptinvBusyClear | .pinFault | .dptstatRead | .resridxWrite | .registerWrite | .packetConsume
  | .launch | .tilelaunch | .tilelaunchFeed | .tileCountPoll | .barrierAnd | .barrierOr | .barrierDepPoll | .signalStore | .signalAdd
  | .estateClose | .copy | .grammarBind | .packetDeadlineExpire | .packetComplete | .placementPass | .affinityHoldExpire
  | .backfillLimitExpire | .taskCardBirth | .estateTake | .estateTransferDone | .waveBirthDone | .estateEvictDone | .residueRecordWritten
  | .estateCloseStep | .domainTimerExpire | .asyncWriteLands | .copyComplete | .bloadComplete | .bSlotReloadDone | .matrixPassDepart
  | .matrixPassDone | .mwalkComplete | .brambleComplete | .watchdogExpire | .waveOverdue | .sleepExpire | .firmwareEmulateDone | .ecallDone
  | .waveTakeOff | .waveRestartDone | .contextSliceExpire | .contextHaltDone | .contextRestoreDone | .waveRetire | .l1Evict | .l2Evict
  | .storeApplied | .walkBLoadDone | .powerOnHour => true
  | _ => false

def State.linkUp (s : State) : Bool := (s.links[0]?).any (·.trained)

/-- A host write that waits for an engine (R319, R321). -/
def Turn.isHostWrite : Turn → Bool
  | .ev .hostWriteIn _ => true
  | _ => false

def Turn.isPowerOn : Turn → Bool
  | .ev .powerOn _ => true
  | _ => false

/-- Bits of a line of device DRAM flip (R249): the next read at its home finds it. -/
def State.upset (s : State) (line : Nat) (found : Ecc) : State :=
  if isDramPa (line * 128) then { s with ecc := kvPut .good s.ecc line found } else s

/-- The device with an instruction's bytes where the next step fetches: at the pc of a READY wave of partition 0 on core 0 with
the values of its birth, whose scheduler has the next turn, in the space of pasid 0, page 0 being host page 0. DESIGN CHOICE (log 2). -/
def State.loaded (s : State) (bytes : List Byte) : State :=
  let desc : KDesc :=
    { addr := 0, entry := 0, step := Config.stepping, gen := 1, exp := true, dep := false, inld := 0, sema := 16, acc := 32,
      spad := 256, ewin := 0, wwin := 32, tv := false, trapEntry := 0, ninh := 0, nbeq := 0, beqlist := [], inhmap := [], kid := 0, mstk := 32 }
  let foot : Footprint := { ewin := 0, wwin := 32, spad := 256, acc := 32, sema := 16 }
  let at_ : Site := { core := 0, slot := 0, ebase := 0, wbase := 0, spadBase := 0, accBase := 0, semBase := 0 }
  let origin : Origin :=
    { part := 0, cx := 0, fn := 0, queue := 0, launch := 0, index := 0, space := { fn := 0, pv := true, pasid := 0 }, prio := 0 }
  let w : Wave := { Wave.born s.nextUid origin at_ desc foot 0 with life := .ready, exec := BitVec.allOnes 64 }
  let grant : PageGrant := { hostPage := 0, w := true, x := true }
  let p : Part := { s.part 0 with live := true, clusters := (s.part 0).clusters ||| 1, active := 0, switching := none }
  let line := Config.sysBase / 128
  { s with icache := s.icache.filter (fun x => x.line != line), holders := s.holders.filter (fun h => h.line != line),
           ecc := kvPut .good s.ecc line .good, ops := s.ops.map (fun (o : Op) => { o with owned := o.owned.filter (· != line) }),
           cur := none, agenda := [], nextUid := s.nextUid + 1, lastSched := 767, waves := w :: s.waves.filter (fun x => x.sched != 0),
           mem := memPutAll s.mem Config.sysBase bytes,
           proxy := s.proxy.filter (fun x => x.line != line), poison := kvPut false s.poison line false,
           ats := ((0, 0), grant) :: s.ats, parts := s.parts.set 0 p }

end Sys2Proof.Machine
end

