-- ==== Sys2Proof/Machine/Step.lean ====
section
/-! DEFINITION. One step of the device: the next turn of the schedule, or, with none due, the next scheduler in turn that
has an eligible wave, or one tick of device time. -/

namespace Sys2Proof.Machine

/-- A scheduler's turn (R158, R159): one instruction of the wave that it chooses, or nothing. -/
def issueTurn (s : State) (sched : Nat) : Host.Outcome State Fault Refusal :=
  match s.issueFrom sched with
  | .done s => .next s
  | .run i s => s.replayed (exec i s)

/-- An event happens. One that the host sends arrives only over link 0 (R399), and after a write that still waits (R319). -/
def takeEvent (s : State) (i : Instr) (inp : Input) : Host.Outcome State Fault Refusal :=
  if !Instr.isEvent i ∨ (Instr.overLink i inp && !s.linkUp) then .next s
  else if Instr.overLink i inp && s.waiting.any Turn.isHostWrite then .next (s.hold i inp)
  else exec i { s with cur := none, input := inp }

/-- One turn of the schedule. Without power only POWER_ON does anything (R409). -/
def takeTurn (s : State) (t : Turn) : Host.Outcome State Fault Refusal :=
  if s.power = .off ∧ !t.isPowerOn then .next s
  else
    match t with
    | .ev i inp => takeEvent s i inp
    | .tick n => .next (s.passTime n)
    | .issue core sched => issueTurn s (4 * core + sched)
    | .refusalOver pasid page => .next (s.refusalOver pasid page)
    | .upset line found => .next (s.upset line found)
    | .spadUpset word => .next { s with spadPoison := kvPut false s.spadPoison word true }

/-- One step of the device. DESIGN CHOICE (log 1). -/
def step (s : State) : Host.Outcome State Fault Refusal :=
  let s := s.calm
  match s.agenda with
  | t :: rest => takeTurn { s with agenda := rest } t
  | [] =>
    match s.nextSched with
    | some sched => issueTurn s sched
    | none => takeTurn s (.tick 1)

/-- The device with the words of a table row where the next step fetches; every bit above nbits is 0. DESIGN CHOICE (log 2). -/
def State.withFetchWord (s : State) (nbits w : Nat) : State := s.loaded ((tableWords nbits w).flatMap bytesOfWord)

end Sys2Proof.Machine
end

