-- ==== Sys2Proof/Safety.lean ====
section
/-! DEFINITION. What a good run is: no step ever stops, and the state keeps its form. -/

namespace Sys2Proof.Machine

/-- The step answers a next state: no rule of the spec stops the device. -/
def Steps (s : State) : Prop := ∃ t, step s = .next t

/-- A state from which a number of steps reaches another. -/
inductive Reaches : State → State → Prop where
  | refl (s : State) : Reaches s s
  | tail {s t u : State} : Reaches s t → step t = .next u → Reaches s u

end Sys2Proof.Machine
end

