-- ==== Sys2Proof/Certificates/Slice0/Obligations.lean ====
section
/-! DEFINITION. The statements for the provers, from the numbered rules of spec/, with the small vocabulary that they share. -/

open Sys2Proof Sys2Proof.Machine

namespace Sys2Proof.Claims

/-- The device in which the issuing wave has become w' and nothing else has changed. -/
def becomes (s : State) (w' : Wave) : Host.Outcome State Fault Refusal := .next (s.putWave w')

/-- The word that a 24-bit immediate stands for (R186). -/
def extended (imm : BitVec 24) : Word := BitVec.ofInt 32 imm.toInt

/-- The table of R185 by OP. -/
def scalarOp (op : Nat) (x y : Word) : Word :=
  match op with
  | 0x02 => BitVec.ofInt 32 (x.toInt + y.toInt)
  | 0x03 => BitVec.ofInt 32 (x.toInt - y.toInt)
  | 0x04 => BitVec.ofInt 32 (x.toInt * y.toInt)
  | 0x05 => BitVec.ofInt 32 (x.toInt * y.toInt / 2 ^ 32)
  | 0x06 => BitVec.ofNat 32 (x.toNat * y.toNat / 2 ^ 32)
  | 0x07 => if y = 0 then 0xFFFFFFFF else BitVec.ofInt 32 (x.toInt.tdiv y.toInt)
  | 0x08 => if y = 0 then 0xFFFFFFFF else BitVec.ofNat 32 (x.toNat / y.toNat)
  | 0x09 => if y = 0 then x else BitVec.ofInt 32 (x.toInt.tmod y.toInt)
  | 0x0A => if y = 0 then x else BitVec.ofNat 32 (x.toNat % y.toNat)
  | 0x0B => x &&& y
  | 0x0C => x ||| y
  | 0x0D => x ^^^ y
  | 0x0E => if y.toNat < 32 then BitVec.ofNat 32 (x.toNat * 2 ^ y.toNat) else 0
  | 0x0F => if y.toNat < 32 then BitVec.ofNat 32 (x.toNat / 2 ^ y.toNat) else 0
  | 0x10 => if y.toNat < 32 then BitVec.ofInt 32 (x.toInt / 2 ^ y.toNat) else if x.toInt < 0 then 0xFFFFFFFF else 0
  | 0x11 => if x.toInt ≤ y.toInt then x else y
  | 0x12 => if x.toInt ≤ y.toInt then y else x
  | 0x13 => if x.toNat ≤ y.toNat then x else y
  | _ => if x.toNat ≤ y.toNat then y else x

/-- The register form with an OP (R185). -/
def registerForm (op : Nat) (c : Bool) (d a b : R8) : Instr :=
  match op with
  | 0x02 => .sadd c d a b
  | 0x03 => .ssub c d a b
  | 0x04 => .smul c d a b
  | 0x05 => .smulh c d a b
  | 0x06 => .smulhu c d a b
  | 0x07 => .sdiv c d a b
  | 0x08 => .sdivu c d a b
  | 0x09 => .srem c d a b
  | 0x0A => .sremu c d a b
  | 0x0B => .sand c d a b
  | 0x0C => .sor c d a b
  | 0x0D => .sxor c d a b
  | 0x0E => .sshl c d a b
  | 0x0F => .sshr c d a b
  | 0x10 => .ssra c d a b
  | 0x11 => .smin c d a b
  | 0x12 => .smax c d a b
  | 0x13 => .sminu c d a b
  | _ => .smaxu c d a b

/-- The immediate form of OP 0x15 with a function code (R186). -/
def immForm (fn : Nat) (c : Bool) (d a : R8) (imm : BitVec 24) : Instr :=
  match fn with
  | 0x02 => .saddSi c d a imm
  | 0x03 => .ssubSi c d a imm
  | 0x04 => .smulSi c d a imm
  | 0x05 => .smulhSi c d a imm
  | 0x06 => .smulhuSi c d a imm
  | 0x07 => .sdivSi c d a imm
  | 0x08 => .sdivuSi c d a imm
  | 0x09 => .sremSi c d a imm
  | 0x0A => .sremuSi c d a imm
  | 0x0B => .sandSi c d a imm
  | 0x0C => .sorSi c d a imm
  | 0x0D => .sxorSi c d a imm
  | 0x0E => .sshlSi c d a imm
  | 0x0F => .sshrSi c d a imm
  | 0x10 => .ssraSi c d a imm
  | 0x11 => .sminSi c d a imm
  | 0x12 => .smaxSi c d a imm
  | 0x13 => .sminuSi c d a imm
  | _ => .smaxuSi c d a imm

/-- The immediate form of OP 0x16 with a function code (R186). -/
def imm32Form (fn : Nat) (d a : R8) (imm : Word) : Instr :=
  match fn with
  | 0x02 => .saddSi32 d a imm
  | 0x03 => .ssubSi32 d a imm
  | 0x04 => .smulSi32 d a imm
  | 0x05 => .smulhSi32 d a imm
  | 0x06 => .smulhuSi32 d a imm
  | 0x07 => .sdivSi32 d a imm
  | 0x08 => .sdivuSi32 d a imm
  | 0x09 => .sremSi32 d a imm
  | 0x0A => .sremuSi32 d a imm
  | 0x0B => .sandSi32 d a imm
  | 0x0C => .sorSi32 d a imm
  | 0x0D => .sxorSi32 d a imm
  | 0x0E => .sshlSi32 d a imm
  | 0x0F => .sshrSi32 d a imm
  | 0x10 => .ssraSi32 d a imm
  | 0x11 => .sminSi32 d a imm
  | 0x12 => .smaxSi32 d a imm
  | 0x13 => .sminuSi32 d a imm
  | _ => .smaxuSi32 d a imm

/-- The condition that `bc` and the table of R187 name. -/
def holds (cc : Nat) (x y : Word) : Bool :=
  match cc with
  | 0 => decide (x = y)
  | 1 => decide (x ≠ y)
  | 2 => decide (x.toInt < y.toInt)
  | 3 => decide (x.toInt ≤ y.toInt)
  | 4 => decide (y.toInt < x.toInt)
  | 5 => decide (y.toInt ≤ x.toInt)
  | 6 => decide (x.toNat < y.toNat)
  | 7 => decide (x.toNat ≤ y.toNat)
  | 8 => decide (y.toNat < x.toNat)
  | _ => decide (y.toNat ≤ x.toNat)

/-- The results of R191 by function code. -/
def pairOp (fn : Nat) (x y : DWord) : DWord :=
  match fn with
  | 0 => BitVec.ofNat 64 (x.toNat + y.toNat)
  | 1 => BitVec.ofInt 64 (x.toInt - y.toInt)
  | 2 => BitVec.ofNat 64 (x.toNat * y.toNat)
  | 3 => if y.toNat < 64 then BitVec.ofNat 64 (x.toNat * 2 ^ y.toNat) else 0
  | 4 => if y.toNat < 64 then BitVec.ofNat 64 (x.toNat / 2 ^ y.toNat) else 0
  | 5 => if y.toNat < 64 then BitVec.ofInt 64 (x.toInt / 2 ^ y.toNat) else if x.toInt < 0 then BitVec.allOnes 64 else 0
  | _ => y

def pairForm (fn : Nat) (c : Bool) (d a : R8) (i : Bool) (imm : BitVec 24) : Instr :=
  match fn with
  | 0 => .sadd64 c d a i imm
  | 1 => .ssub64 c d a i imm
  | 2 => .smul64 c d a i imm
  | 3 => .sshl64 c d a i imm
  | 4 => .sshr64 c d a i imm
  | 5 => .ssra64 c d a i imm
  | _ => .smov64 c d i imm

/-- Scalar registers that a scalar instruction may write: none for an instruction that is no scalar form. -/
def scalarDests : Instr → Option (List Nat)
  | .sadd _ d _ _ | .ssub _ d _ _ | .smul _ d _ _ | .smulh _ d _ _ | .smulhu _ d _ _ | .sdiv _ d _ _ | .sdivu _ d _ _ | .srem _ d _ _
  | .sremu _ d _ _ | .sand _ d _ _ | .sor _ d _ _ | .sxor _ d _ _ | .sshl _ d _ _ | .sshr _ d _ _ | .ssra _ d _ _ | .smin _ d _ _
  | .smax _ d _ _ | .sminu _ d _ _ | .smaxu _ d _ _ | .ssel _ d _ _ => some [d.toNat]
  | .saddSi _ d _ _ | .ssubSi _ d _ _ | .smulSi _ d _ _ | .smulhSi _ d _ _ | .smulhuSi _ d _ _ | .sdivSi _ d _ _ | .sdivuSi _ d _ _
  | .sremSi _ d _ _ | .sremuSi _ d _ _ | .sandSi _ d _ _ | .sorSi _ d _ _ | .sxorSi _ d _ _ | .sshlSi _ d _ _ | .sshrSi _ d _ _
  | .ssraSi _ d _ _ | .sminSi _ d _ _ | .smaxSi _ d _ _ | .sminuSi _ d _ _ | .smaxuSi _ d _ _ | .smovSi _ d _ => some [d.toNat]
  | .saddSi32 d _ _ | .ssubSi32 d _ _ | .smulSi32 d _ _ | .smulhSi32 d _ _ | .smulhuSi32 d _ _ | .sdivSi32 d _ _ | .sdivuSi32 d _ _
  | .sremSi32 d _ _ | .sremuSi32 d _ _ | .sandSi32 d _ _ | .sorSi32 d _ _ | .sxorSi32 d _ _ | .sshlSi32 d _ _ | .sshrSi32 d _ _
  | .ssraSi32 d _ _ | .sminSi32 d _ _ | .smaxSi32 d _ _ | .sminuSi32 d _ _ | .smaxuSi32 d _ _ | .smovSi32 d _ => some [d.toNat]
  | .sclz _ d _ | .sctz _ d _ | .spopc _ d _ | .sbrev _ d _ | .sext8 _ d _ | .sext16 _ d _ | .sbfe _ d _ _ _ | .sbfeu _ d _ _ _
  | .sbfi _ d _ _ _ | .scmp _ d _ _ _ _ => some [d.toNat]
  | .sadd64 _ d _ _ _ | .ssub64 _ d _ _ _ | .smul64 _ d _ _ _ | .sshl64 _ d _ _ _ | .sshr64 _ d _ _ _ | .ssra64 _ d _ _ _
  | .smov64 _ d _ _ => some [d.toNat, d.toNat + 1]
  | .sget _ d n => if sregWidth n = 64 then some [d.toNat, d.toNat + 1] else some [d.toNat]
  | .nop _ | .nopHeader _ _ => some []
  | _ => none

/-- Of the wave nothing but scalar registers of `ds`, scc.T and its place in the code has changed. -/
structure ScalarFrame (w w' : Wave) (ds : List Nat) : Prop where
  rest : w' = { w with s := w'.s, scc := w'.scc, pc := w'.pc, grp := w'.grp, xfer := w'.xfer }
  regs : ∀ r, r ∉ ds → w'.rs r = w.rs r
  scc : w'.scc >>> (1 : Nat) = w.scc >>> (1 : Nat)

/-- The mask operations of R202 with a mask result. -/
def maskOp : Instr → Option (Bool × K4 × (Wave → LaneMask))
  | .kand c kd ka kb => some (c, kd, fun w => w.rk ka.toNat &&& w.rk kb.toNat)
  | .kor c kd ka kb => some (c, kd, fun w => w.rk ka.toNat ||| w.rk kb.toNat)
  | .kxor c kd ka kb => some (c, kd, fun w => w.rk ka.toNat ^^^ w.rk kb.toNat)
  | .kandn c kd ka kb => some (c, kd, fun w => w.rk ka.toNat &&& ~~~ w.rk kb.toNat)
  | .knot c kd ka => some (c, kd, fun w => ~~~ w.rk ka.toNat)
  | .kmov c kd ka => some (c, kd, fun w => w.rk ka.toNat)
  | .kshl c kd ka n => some (c, kd, fun w => BitVec.ofNat 64 ((w.rk ka.toNat).toNat * 2 ^ n.toNat))
  | .kshr c kd ka n => some (c, kd, fun w => BitVec.ofNat 64 ((w.rk ka.toNat).toNat / 2 ^ n.toNat))
  | .kfroms c kd a => some (c, kd, fun w => pairOf (w.rs a.toNat) (w.rs (a.toNat + 1)))
  | .voteK c kd ka kb => some (c, kd, fun w => w.rk ka.toNat &&& w.rk kb.toNat &&& w.exec)
  | _ => none

/-- The bits ANY, ALL and UNI of scc after a vote (R203). -/
def votes (scc : Word) (lanes cond : LaneMask) : Word :=
  (scc &&& ~~~ (0xE : Word)) ||| (if cond ≠ 0 then 2 else 0) ||| (if lanes ≠ 0 ∧ cond = lanes then 4 else 0) |||
    (if cond = 0 ∨ cond = lanes then 8 else 0)

/-- A vector register of the wave lies in its windows. -/
def inWindows (w : Wave) (n : Nat) : Prop := n < 8 * (w.foot.ewin + w.foot.wwin)

/-- Register d of the wave after a vector instruction (R209): the value f in the active lanes; the other lanes keep what
they held, or become zero with z. -/
def lanesBecome (s t : State) (w : Wave) (act : LaneMask) (z : Bool) (d : Nat) (f : Nat → Word) : Prop :=
  ∃ w', t.wave? w.uid = some w' ∧
    ∀ l, l < 64 → laneOf (t.readV w' d) l = if act.getLsbD l then f l else if z then 0 else laneOf (s.readV w d) l

/-- Outside the issuing wave and the register file's rows of `ds` the device is as it was. -/
structure DeviceFrame (s t : State) (w : Wave) (ds : List Nat) : Prop where
  rows : ∀ key, (∀ n ∈ ds, s.vloc w n ≠ .row key) → kvGet zeroV t.rf key = kvGet zeroV s.rf key
  device : t = { s with waves := t.waves, rf := t.rf }
  waves : ∀ u, u ≠ w.uid → t.wave? u = s.wave? u

/-- A wave whose sticky flags may have been added to (R174). -/
def flagged (w : Wave) (f : Flags) : Wave := { w with fmt := w.fmt ||| ((f.zeroExtend 32) <<< (20 : Nat)) }

/-- The frame of a vector instruction of n words: but for its registers `ds`, flags added to the sticky ones and its going on to the
next word, the wave is as it was, and so is the device. -/
structure VectorFrame (s t : State) (w : Wave) (ds : List Nat) (n : Nat) (c : Bool) : Prop where
  dev : DeviceFrame s t w ds
  wave : ∃ f : Flags, t.wave? w.uid = some (flagged (w.advance n c .V) f)

/-- The windows of a wave lie apart in the register file. -/
def windowsApart (w : Wave) : Prop := w.ebase + w.foot.ewin ≤ w.wbase ∨ w.wbase + w.foot.wwin ≤ w.ebase

/-- A one-destination V4 form: C, the fields, its sources, and its result in a lane from those of va, vb and vc. -/
structure LaneForm where
  c : Bool
  p : V4
  srcs : List Nat
  lane : Word → Word → Word → Word

/-- The forms of R213 to R221 with one result register, by the lane functions of Flags and Vector. -/
def laneForm : Instr → Option LaneForm
  | .vadd c p => some ⟨c, p, p.abRs, fun a b r => (laneAdd p.modsOf (modeOf p.fnx p.rnd r) a b).1⟩
  | .vsub c p => some ⟨c, p, p.abRs, fun a b r => (laneSub p.modsOf (modeOf p.fnx p.rnd r) a b).1⟩
  | .vmul c p => some ⟨c, p, p.abRs, fun a b r => (laneMul p.modsOf (modeOf p.fnx p.rnd r) a b).1⟩
  | .vfma c p => some ⟨c, p, p.abc, fun a b x => (laneFma p.modsOf (Mode.ofRnd p.rnd.toNat) a b x).1⟩
  | .vmin c p => some ⟨c, p, p.ab, fun a b _ => (laneMinMax p.modsOf false a b).1⟩
  | .vmax c p => some ⟨c, p, p.ab, fun a b _ => (laneMinMax p.modsOf true a b).1⟩
  | .vmulh c p => some ⟨c, p, p.ab, fun a b _ => mulHigh (p.ty == 0) a b⟩
  | .vrcp c p => some ⟨c, p, [p.va.toNat], fun a _ _ => (laneUnary p.modsOf (Mode.ofRnd p.rnd.toNat) FVal.recip a).1⟩
  | .vsqrt c p => some ⟨c, p, [p.va.toNat], fun a _ _ => (laneUnary p.modsOf (Mode.ofRnd p.rnd.toNat) FVal.sqrt a).1⟩
  | .vrsqrt c p => some ⟨c, p, [p.va.toNat], fun a _ _ => (laneUnary p.modsOf (Mode.ofRnd p.rnd.toNat) FVal.rsqrt a).1⟩
  | .vlog2 c p => some ⟨c, p, [p.va.toNat], fun a _ _ => (laneUnary p.modsOf .rne FVal.log2 a).1⟩
  | .vexp2 c p => some ⟨c, p, [p.va.toNat], fun a _ _ => (laneUnary p.modsOf .rne FVal.exp2 a).1⟩
  | .vand c p => some ⟨c, p, p.ab, fun a b _ => a &&& b⟩
  | .vor c p => some ⟨c, p, p.ab, fun a b _ => a ||| b⟩
  | .vxor c p => some ⟨c, p, p.ab, fun a b _ => a ^^^ b⟩
  | .vshl c p => some ⟨c, p, p.ab, fun a b _ => (laneShl p.ty.toNat p.sat a b).1⟩
  | .vshr c p => some ⟨c, p, p.ab, fun a b _ => laneShr p.ty.toNat a b⟩
  | .vsra c p => some ⟨c, p, p.ab, fun a b _ => laneSra p.ty.toNat a b⟩
  | .vclz c p => some ⟨c, p, [p.va.toNat], fun a _ _ => BitVec.ofNat 32 (clz32 a)⟩
  | .vpopc c p => some ⟨c, p, [p.va.toNat], fun a _ _ => BitVec.ofNat 32 (popc32 a)⟩
  | .vbrev c p => some ⟨c, p, [p.va.toNat], fun a _ _ => brev32 a⟩
  | .vrnd c p => some ⟨c, p, if p.fnx then p.ab else [p.va.toNat], fun a b _ => (laneRnd p.modsOf (modeOf p.fnx p.rnd b) a).1⟩
  | _ => none

/-- A VS form: C, the fields, and its result in lane l from va, s[sb] and vd as they stand. -/
structure ScalarLaneForm where
  c : Bool
  p : VS
  lane : VReg → Word → VReg → Nat → Word

/-- The forms of R229 and R230. -/
def scalarLaneForm : Instr → Option ScalarLaneForm
  | .vaddVs c p => some ⟨c, p, fun a b _ l => (laneAdd p.modsOf (Mode.ofRnd p.rnd.toNat) (laneOf a l) b).1⟩
  | .vsubVs c p => some ⟨c, p, fun a b _ l => (laneSub p.modsOf (Mode.ofRnd p.rnd.toNat) (laneOf a l) b).1⟩
  | .vmulVs c p => some ⟨c, p, fun a b _ l => (laneMul p.modsOf (Mode.ofRnd p.rnd.toNat) (laneOf a l) b).1⟩
  | .vfmaVs c p => some ⟨c, p, fun a b d l => (laneFma p.modsOf (Mode.ofRnd p.rnd.toNat) (laneOf a l) b (laneOf d l)).1⟩
  | .vminVs c p => some ⟨c, p, fun a b _ l => (laneMinMax p.modsOf false (laneOf a l) b).1⟩
  | .vmaxVs c p => some ⟨c, p, fun a b _ l => (laneMinMax p.modsOf true (laneOf a l) b).1⟩
  | .vrcpVs c p => some ⟨c, p, fun a _ _ l => (laneUnary p.modsOf (Mode.ofRnd p.rnd.toNat) FVal.recip (laneOf a l)).1⟩
  | .vsqrtVs c p => some ⟨c, p, fun a _ _ l => (laneUnary p.modsOf (Mode.ofRnd p.rnd.toNat) FVal.sqrt (laneOf a l)).1⟩
  | .vrsqrtVs c p => some ⟨c, p, fun a _ _ l => (laneUnary p.modsOf (Mode.ofRnd p.rnd.toNat) FVal.rsqrt (laneOf a l)).1⟩
  | .vlog2Vs c p => some ⟨c, p, fun a _ _ l => (laneUnary p.modsOf .rne FVal.log2 (laneOf a l)).1⟩
  | .vexp2Vs c p => some ⟨c, p, fun a _ _ l => (laneUnary p.modsOf .rne FVal.exp2 (laneOf a l)).1⟩
  | .vandVs c p => some ⟨c, p, fun a b _ l => laneOf a l &&& b⟩
  | .vorVs c p => some ⟨c, p, fun a b _ l => laneOf a l ||| b⟩
  | .vxorVs c p => some ⟨c, p, fun a b _ l => laneOf a l ^^^ b⟩
  | .vshlVs c p => some ⟨c, p, fun a b _ l => (laneShl p.ty.toNat p.sat (laneOf a l) b).1⟩
  | .vshrVs c p => some ⟨c, p, fun a b _ l => laneShr p.ty.toNat (laneOf a l) b⟩
  | .vsraVs c p => some ⟨c, p, fun a b _ l => laneSra p.ty.toNat (laneOf a l) b⟩
  | .vbcast c p => some ⟨c, p, fun a b _ _ => laneOf a (b.toNat % 64)⟩
  | .vrot c p => some ⟨c, p, fun a b _ l => laneOf a ((l + b.toNat) % 64)⟩
  | .vshup c p => some ⟨c, p, fun a b _ l => if b.toNat ≤ l then laneOf a (l - b.toNat) else 0⟩
  | .vshdn c p => some ⟨c, p, fun a b _ l => if l + b.toNat < 64 then laneOf a (l + b.toNat) else 0⟩
  | .vsplat c p => some ⟨c, p, fun _ b _ _ => b⟩
  | _ => none

/-- The plain i32 forms of R213 to R220: no modifier, no saturation. -/
def plainI32 (p : V4) : Prop := p.ty = 0 ∧ p.sat = false ∧ p.nega = false ∧ p.negb = false ∧ p.absa = false ∧ p.fnx = false

/-- A float type with infinities, by the widths of R167, its canonical NaN beside them. -/
structure FloatType where
  eb : Nat
  mb : Nat
  nan : Nat
deriving DecidableEq, Repr

/-- The float types with infinities: f32, bf16, f16 and e5m2 (R125, R167). -/
def floatType : Nat → Option FloatType
  | 2 => some { eb := 8, mb := 23, nan := 0x7FC00000 }
  | 3 => some { eb := 8, mb := 7, nan := 0x7FC0 }
  | 4 => some { eb := 5, mb := 10, nan := 0x7E00 }
  | 6 => some { eb := 5, mb := 2, nan := 0x7F }
  | _ => none

namespace FloatType

/-- E and M of an encoding as one number: in this order the magnitudes stand. -/
def mag (f : FloatType) (x : Word) : Nat := x.toNat % 2 ^ (f.eb + f.mb)
def sign (f : FloatType) (x : Word) : Bool := x.getLsbD (f.eb + f.mb)
def infMag (f : FloatType) : Nat := (2 ^ f.eb - 1) * 2 ^ f.mb
def isNan (f : FloatType) (x : Word) : Prop := f.infMag < f.mag x
def isInf (f : FloatType) (x : Word) : Prop := f.mag x = f.infMag
def isFinite (f : FloatType) (x : Word) : Prop := f.mag x < f.infMag
/-- The least subnormal value is 2^-unit (R167). -/
def unit (f : FloatType) : Nat := 2 ^ (f.eb - 1) - 2 + f.mb
/-- The magnitude of a finite encoding in least subnormal values (R168). -/
def units (f : FloatType) (x : Word) : Nat :=
  let e := f.mag x / 2 ^ f.mb
  if e = 0 then f.mag x else (2 ^ f.mb + f.mag x % 2 ^ f.mb) * 2 ^ (e - 1)
/-- The value of a finite encoding in least subnormal values. -/
def value (f : FloatType) (x : Word) : Int := if f.sign x then -(f.units x : Int) else f.units x
/-- The lane that holds an encoding. -/
def code (f : FloatType) (neg : Bool) (m : Nat) : Word := BitVec.ofNat 32 ((if neg then 2 ^ (f.eb + f.mb) else 0) + m)
/-- An infinite result: with sat the largest finite value (R173). -/
def big (f : FloatType) (sat neg : Bool) : Word := f.code neg (if sat then f.infMag - 1 else f.infMag)
def nanCode (f : FloatType) : Word := BitVec.ofNat 32 f.nan

/-- Whether a mode of R172 (0 rne, 1 rtz, 2 rup, 3 rdn) takes the grid value beyond lo, what is left of x being rem of step parts. -/
def goesUp (rnd : Nat) (neg : Bool) (lo rem step : Nat) : Bool :=
  match rnd with
  | 0 => decide (step < 2 * rem ∨ (2 * rem = step ∧ lo % 2 = 1))
  | 1 => false
  | 2 => decide (0 < rem) && !neg
  | _ => decide (0 < rem) && neg

/-- r is Round (R172, R173) of a value of n · 2^-k least subnormal values, n not 0, and of a sign. -/
def rounds (f : FloatType) (rnd : Nat) (sat neg : Bool) (n k : Nat) (r : Word) : Prop :=
  let step := 2 ^ max (n.log2 - f.mb) k
  let lo := n / step
  let y := (if goesUp rnd neg lo (n % step) step then lo + 1 else lo) * step
  let most := (2 ^ (f.mb + 1) - 1) * 2 ^ (2 ^ f.eb - 3) * 2 ^ k
  if y ≤ most then f.units r * 2 ^ k = y ∧ r = f.code neg (f.mag r)
  else r = f.code neg (if sat ∨ rnd = 1 ∨ (rnd = 2 ∧ neg = true) ∨ (rnd = 3 ∧ neg = false) then f.infMag - 1 else f.infMag)

/-- r is Round of v · 2^-k least subnormal values; a zero has the sign zneg (R169). -/
def result (f : FloatType) (rnd : Nat) (sat : Bool) (v : Int) (k : Nat) (zneg : Bool) (r : Word) : Prop :=
  if v = 0 then r = f.code zneg 0 else f.rounds rnd sat (decide (v < 0)) v.natAbs k r

/-- The sign of a zero sum of values with these signs (R169). -/
def zeroSign (rnd : Nat) (a b : Bool) : Bool := if a = b then a else rnd == 3

/-- a lies below b, −0 below +0 (R214). -/
def below (f : FloatType) (a b : Word) : Prop := f.value a < f.value b ∨ (f.value a = f.value b ∧ f.sign a = true ∧ f.sign b = false)

/-- r is no farther than half of its last place from y0 / den, squares of them with `sq` (R172, rne). -/
def close (f : FloatType) (sq : Bool) (num den : Nat) (r : Word) : Prop :=
  let y := f.units r
  let g := 2 ^ (y.log2 - f.mb)
  let e := if sq then 2 else 1
  (2 * y - g) ^ e * den ≤ 2 ^ e * num ∧ 2 ^ e * num ≤ (2 * y + g) ^ e * den

end FloatType

/-- The integer types (R125, R164): bits, and whether signed. -/
def intType : Nat → Option (Nat × Bool)
  | 0 => some (32, true)
  | 1 => some (32, false)
  | 7 => some (8, true)
  | 8 => some (8, false)
  | 9 => some (16, true)
  | 10 => some (16, false)
  | _ => none

/-- The value of a lane's low n bits (R164). -/
def intValue (n : Nat) (signed : Bool) (w : Word) : Int := if signed then w.toInt.bmod (2 ^ n) else (w.toNat % 2 ^ n : Nat)

/-- The lane of an exact integer result (R164, R165): taken modulo 2^n, or held in the range of the type with sat. -/
def intResult (n : Nat) (signed sat : Bool) (v : Int) : Word :=
  BitVec.ofInt 32 (if sat then max (if signed then -(2 ^ (n - 1)) else 0) (min (if signed then 2 ^ (n - 1) - 1 else 2 ^ n - 1) v)
    else if signed then v.bmod (2 ^ n) else v % 2 ^ n)

/-- A plain form: no modifier, no stochastic rounding. -/
def plain (p : V4) : Prop := p.nega = false ∧ p.negb = false ∧ p.absa = false ∧ p.fnx = false

/-- A virtual address at which n bytes inside one line are device DRAM that the wave may use (and write, where `write`), with no
engine to wait for (R321), and whose data are good (R250, R251). -/
structure Plain (s : State) (w : Wave) (a n : Nat) (write : Bool) (pg : Page) : Prop where
  range : a < 2 ^ 57
  aligned : a % n = 0
  page : s.translate w.view a = .ok pg
  dram : pg.pa + n ≤ Config.dramBytes
  line : pg.pa % 128 + n ≤ 128
  writable : write = true → pg.w = true
  free : s.homeHeld none (pg.pa / 128) (some w.core) = false
  clean : s.lineBad (pg.pa / 128) = false

/-- The device once an access of lane l that reads has reached its line: its translation is cached, the line checked. -/
def reached (s : State) (w : Wave) (l a : Nat) (pg : Page) : State := s.reach w [{ lane := l, va := a, page := pg }] true

/-- The wave after it has written: a fence that was pending is used up (R313). -/
def fenceless (w : Wave) (wrote : Bool) : Wave := { w with fence := if wrote then 0 else w.fence }

/-- An operation of the wave has gone out: it is the newest in flight, and its completion is due. -/
def wentOut (s t : State) (w : Wave) (cls : Option Cls) (kind : OpKind) : Prop :=
  (∃ o, t.ops = s.ops ++ [o] ∧ o.id = s.nextOp ∧ o.uid = w.uid ∧ o.cls = cls ∧ o.kind = kind) ∧
  Turn.ev kind.event { op := s.nextOp, core := w.cc } ∈ t.agenda

/-- The words of n · 4 bytes, or one extended element, that a load of a width puts into its registers (R257). -/
def loadedWords (width : BitVec 3) (bytes : List Byte) : List Word :=
  if width.toNat = 5 then [BitVec.ofInt 32 ((BitVec.ofNat 8 (leNat bytes)).toInt)]
  else if width.toNat = 6 ∨ width.toNat = 7 then [BitVec.ofInt 32 ((BitVec.ofNat 16 (leNat bytes)).toInt)]
  else wordsFrom (regsOf width) bytes

/-- New(op, m, x, x2) of R272 on n bits for the operations that add, compare, exchange or count. -/
def atomic (op n m x x2 : Nat) : Nat :=
  match op with
  | 0 => (m + x) % 2 ^ n
  | 1 => m &&& x
  | 2 => m ||| x
  | 3 => m ^^^ x
  | 4 => if (BitVec.ofNat n m).toInt ≤ (BitVec.ofNat n x).toInt then m else x
  | 5 => if (BitVec.ofNat n m).toInt ≤ (BitVec.ofNat n x).toInt then x else m
  | 6 => if m ≤ x then m else x
  | 7 => if m ≤ x then x else m
  | 8 => x
  | 9 => if m = x then x2 else m
  | _ => if x ≤ m then 0 else m + 1

/-- n bytes inside a line as a load of the core finds them: one that acquires reads them at the home (R311). -/
def seen (s : State) (core : Nat) (pg : Page) (n : Nat) (acquires : Bool) : List Byte :=
  (if acquires then s.acquireLoad core pg.pa n else s.coreLoad core pg.pa n pg.nol1).2

/-- The core's own view of n bytes inside a line, as a plain load reads it. -/
def coreView (s : State) (core pa n : Nat) : List Byte := (s.coreLoad core pa n false).2

/-- What the core's own loads find after it has stored the bytes of accesses, one after another: of two at one byte the later
(R260). -/
def viewed (t : State) (core n : Nat) (ws : List (Acc × List Byte)) : Prop :=
  ∀ pre e post i, ws = pre ++ e :: post → i < n → isPeerPa e.1.page.pa = false →
    (∀ x ∈ post, ¬ (x.1.page.pa ≤ e.1.page.pa + i ∧ e.1.page.pa + i < x.1.page.pa + n)) →
    coreView t core (e.1.page.pa + i) 1 = [e.2.getD i 0]

/-- What the scratchpad holds after n bytes have been put at each key, one after another. -/
def keyed (t : State) (n : Nat) (ws : List (Nat × List Byte)) : Prop :=
  ∀ pre e post i, ws = pre ++ e :: post → i < n → (∀ x ∈ post, ¬ (x.1 ≤ e.1 + i ∧ e.1 + i < x.1 + n)) →
    kvGet 0 t.scratch (e.1 + i) = e.2.getD i 0

/-- An operation of the wave has gone out with a completion target: it is in flight, and its completion is due. -/
def sent (s t : State) (w : Wave) (cls : Option Cls) (kind : OpKind) (done : Completion) : Prop :=
  (∃ o ∈ t.ops, o.id = s.nextOp ∧ o.uid = w.uid ∧ o.cls = cls ∧ o.kind = kind ∧ o.done = done) ∧
  Turn.ev kind.event { op := s.nextOp, core := w.cc } ∈ t.agenda

/-- A page that an engine may use for an address: n bytes of device DRAM inside one line that no earlier operation owns, with good
data. -/
structure EnginePage (s : State) (o : Op) (va n : Nat) (write : Bool) (pg : Page) : Prop where
  page : s.page o.view va write = .ok pg
  dram : pg.pa + n ≤ Config.dramBytes
  va : va % 128 + n ≤ 128
  line : pg.pa % 128 + n ≤ 128
  free : s.homeHeld (some o.id) (pg.pa / 128) none = false
  clean : s.lineBad (pg.pa / 128) = false

/-- A barrier word of R330 from its fields. -/
def barrierWordOf (flags gen expected count : Nat) : Nat := flags * 2 ^ 48 + gen * 2 ^ 32 + expected * 2 ^ 16 + count

/-- The signed 8-bit value of an element code. -/
def signed8 (x : Nat) : Int := (BitVec.ofNat 8 x).toInt

/-- The element that `accwr` writes of a lane (R301): i32 and f32 bits copied, a narrower float widened, its NaNs canonical. -/
def written (ty : Nat) (x : Word) : Word :=
  match ty with
  | 0 | 2 => x
  | _ => BitVec.ofNat 32 (fmtF32.round .rne false ((fmtOfTy ty).decode (x.toNat % 2 ^ tyBits ty))).1

/-- What `accrd` delivers of an element (R301), ACCT 0 being i32 and any other f32. -/
def delivered (acct ty rnd : Nat) (sat : Bool) (x : Word) : Word :=
  match acct, ty with
  | 0, 0 => x
  | 0, _ => BitVec.ofNat 32 (fmtF32.round (Mode.ofRnd rnd) sat (intVal x.toInt)).1
  | _, 2 => x
  | _, 0 => BitVec.ofInt 32 (floatToInt (Mode.ofRnd rnd) 0 false (fmtF32.decode x.toNat)).1
  | _, _ => BitVec.ofNat 32 ((fmtOfTy ty).round (Mode.ofRnd rnd) sat (fmtF32.decode x.toNat)).1

/-- A wave's parameter copy lets a row see a column (R296). -/
def sees (p : ParamCopy) (row col : Int) : Bool :=
  (List.range p.nrows).any (fun i => decide (row = (p.rowbase + i : Nat)) &&
    match p.rows[i]? with
    | none => false
    | some (ancestors, position) =>
      if col < (p.clen : Int) then decide (col ≤ (position : Int))
      else decide (col - p.clen < 64) && ancestors.getLsbD (col - p.clen).toNat)

/-- The code of an output element of a walk (R295), from its accumulator, the bias of its column, its row and its column. -/
def outCode (j : WalkJob) (acc : Word) (bias : Option Word) (row col : Int) : Nat :=
  let mode := Mode.ofRnd j.rnd
  let real (x : Word) : FVal := fmtF32.decode x.toNat
  let sum := if j.acct = 0 then intVal acc.toInt else real acc
  let scaled := if j.scv then (sum.mul (real j.scale)).1 else sum
  let biased := match bias with | some b => (scaled.add mode (real b)).1 | none => scaled
  let seen_ := match j.params with | some p => sees p row col | none => false
  let y := if j.mask && !seen_ then .inf true else biased
  if j.cRec.ty = 0 then (BitVec.ofInt 32 (floatToInt mode 0 false y).1).toNat else ((fmtOfTy j.cRec.ty).round mode j.sat y).1

/-- n bytes at a spot are device DRAM inside one line. -/
def spotInDram (x : Spot) (n : Nat) : Prop := ∃ p, x = .mem p ∧ p.pa + n ≤ Config.dramBytes ∧ p.pa % 128 + n ≤ 128

/-- The physical address of a spot in memory. -/
def spotPa : Spot → Nat
  | .mem p => p.pa
  | .spad k => k

/-- What memory holds after n bytes have been put at each address, one after another: those bytes, and every other byte as before. -/
def putInMem (s t : State) (n : Nat) (ws : List (Nat × List Byte)) : Prop :=
  (∀ pre e post i, ws = pre ++ e :: post → i < n → (∀ x ∈ post, ¬ (x.1 ≤ e.1 + i ∧ e.1 + i < x.1 + n)) → memByte t.mem (e.1 + i) = e.2.getD i 0) ∧
  ∀ a, (∀ e ∈ ws, a < e.1 ∨ e.1 + n ≤ a) → memByte t.mem a = memByte s.mem a

/-- The matrix operations that a wave counts as open (R292) after operation id has gone out. -/
def opened (w : Wave) (id : Nat) : Wave := { w with openOps := w.openOps ++ [id] }


/-- A Bramble form (R356) with its operation, its second operand, its word count and its alignment and limit of that operand. -/
structure BrambleForm where
  i : Instr
  second : GSecond
  imm : Int
  align : Nat
  limit : Nat
  n : Nat
  c : Bool

/-- The form of a Bramble operation with the fields p, the chain bit and the immediate of a three-word form. -/
def brambleForm (fn : BrambleFn) (c : Bool) (p : A2) (imm : BitVec 24) : BrambleForm :=
  let p3 : A3 := { aa := p.aa, ab := p.ab, ac := p.ac, cm := p.cm, ct := p.ct, scope := p.scope, order := p.order, fl := p.fl, imm := imm }
  match fn with
  | .gbind => ⟨.gbind p3, .pair, imm.toNat, 128, 2 ^ 64, 3, false⟩
  | .gmask => ⟨.gmask p3, .pair, imm.toInt, 128, 2 ^ 64, 3, false⟩
  | .gmaskDelta => ⟨.gmaskDelta p3, .pair, imm.toInt, 128, 2 ^ 64, 3, false⟩
  | .gstep => ⟨.gstep c p, .one, 0, 1, 524288, 2, c⟩
  | .gfork => ⟨.gfork c p, .pair, 0, 64, 2 ^ 64, 2, c⟩
  | .groll => ⟨.groll c p, .one, 0, 1, 65, 2, c⟩
  | .gcommit => ⟨.gcommit c p, .one, 0, 1, 65, 2, c⟩
  | .gfree => ⟨.gfree c p, .none, 0, 1, 2 ^ 64, 2, c⟩

/-- n bytes at an address of a process lie in one line of host memory that no engine holds, with good data. -/
structure HostSpot (s : State) (e : View) (va n pa : Nat) : Prop where
  process : e.sp.pv = true
  page : ∃ p, s.page e va true = .ok p ∧ p.pa = pa
  host : Config.sysBase ≤ pa ∧ pa + n ≤ Config.peerBase
  line : pa % 128 + n ≤ 128
  inPage : va % 4096 + n ≤ 4096
  free : s.homeHeld e.op (pa / 128) none = false
  clean : s.lineBad (pa / 128) = false

/-- Nothing is to be recalled, and the slices have room for a few lines more. -/
def quiet (s : State) : Prop := s.holders = [] ∧ s.proxy.length + 16 ≤ 524288

/-- The number that n bytes hold at their home. -/
def homeNat (s : State) (pa n : Nat) : Nat := leNat ((List.range n).map (fun i => (s.homeData ((pa + i) / 128)).getD ((pa + i) % 128) 0))

/-- Two runs of bytes do not meet. -/
def apart (a n b m : Nat) : Prop := a + n ≤ b ∨ b + m ≤ a

/-- The fields of a context record (R350); flags is ACTIVE + 2 · REJECTED + 4 · ERROR. -/
structure CtxFields where
  pool : Nat
  hist : Nat
  image : Nat
  stkseg : Nat
  depth : Nat
  state : Nat
  steps : Nat
  commit : Nat
  flags : Nat
deriving DecidableEq, Repr

def ctxFields (v : Nat) : CtxFields :=
  { pool := v / 2 ^ 432 % 2 ^ 57, hist := v / 2 ^ 368 % 2 ^ 57, image := v / 2 ^ 304 % 2 ^ 57, stkseg := v / 2 ^ 240 % 2 ^ 57,
    depth := v / 2 ^ 224 % 2 ^ 11, state := v / 2 ^ 208 % 2 ^ 16, steps := v / 2 ^ 168 % 2 ^ 40, commit := v / 2 ^ 128 % 2 ^ 40, flags := v % 8 }

/-- A stack segment at an address, none being 0, that other references keep when one is given up. -/
def sharedSegment (s : State) (e : View) (seg pa : Nat) : Prop := seg = 0 ∨ (HostSpot s e seg 64 pa ∧ 2 ≤ homeNat s (pa + 40) 4)

/-- A grammar header whose fields pass R357's checks (R345). -/
def goodHeader (v : Nat) : Prop :=
  let fld (lo n : Nat) : Nat := v / 2 ^ lo % 2 ^ n
  fld 0 32 = 0xB7A13E03 ∧ fld 64 8 = 1 ∧ fld 32 32 = 0 ∧ fld 72 8 = 0 ∧ fld 115 13 = 0 ∧ fld 148 12 = 0 ∧ fld 180 12 = 0 ∧ fld 256 768 = 0 ∧
  (1 ≤ fld 128 20 ∧ fld 128 20 ≤ 524288) ∧ fld 102 13 ≤ 4096 ∧ (1 ≤ fld 85 17 ∧ fld 85 17 ≤ 65536) ∧ (4 ≤ fld 80 5 ∧ fld 80 5 ≤ 24) ∧
  fld 224 32 % 16 = 0 ∧ fld 192 32 % 32 = 0

/-- The event is due. -/
def comes (t : State) (i : Instr) (inp : Input) : Prop := Turn.ev i inp ∈ t.agenda

/-- The wave of a number, as an event finds it. -/
def eventWave (s : State) (w : Wave) : Prop := s.wave? s.input.uid = some w ∧ w.uid = s.input.uid

/-- The word r registers after a, as a step leaves it. -/
def leaves (t : State) (uid : Nat) (p : Wave → Prop) : Prop := ∃ w', t.wave? uid = some w' ∧ p w'


/-- Every proxy line is a line of system memory (R253): the caches of host memory never hold device DRAM. -/
def ProxiesOk (s : State) : Prop := ∀ p ∈ s.proxy, isSysLine p.line = true

/-- The queue that an event names exists. -/
def eventQueue (s : State) (x : Queue) : Prop :=
  s.input.fn < 65 ∧ s.input.queue < 256 ∧ s.queue? s.input.fn s.input.queue = some x

/-- A queue descriptor that fails a check of R31: QLOG, IFL, PASID without PV, an address's alignment, a reserved field. -/
def refusedDescriptor (v : Nat) : Prop :=
  let fld (lo n : Nat) : Nat := v / 2 ^ lo % 2 ^ n
  fld 192 5 < 6 ∨ 16 < fld 192 5 ∨ fld 233 4 ≠ 1 ∨ (fld 220 1 = 0 ∧ fld 200 20 ≠ 0) ∨
  fld 0 57 % 4096 ≠ 0 ∨ fld 0 57 % (64 * 2 ^ fld 192 5) ≠ 0 ∨ fld 64 57 % 8 ≠ 0 ∨ fld 128 57 % 8 ≠ 0 ∨ fld 256 57 % 8 ≠ 0 ∨ fld 320 57 % 128 ≠ 0 ∨
  fld 57 7 ≠ 0 ∨ fld 121 7 ≠ 0 ∨ fld 185 7 ≠ 0 ∨ fld 237 19 ≠ 0 ∨ fld 313 7 ≠ 0 ∨ fld 377 647 ≠ 0

/-- The event's queue as a step leaves it. -/
def queueAfter (s t : State) (p : Queue → Prop) : Prop := ∃ y, t.queue? s.input.fn s.input.queue = some y ∧ p y

/-- The event's queue serves its first packet, of a type, which can start (R39). -/
def starts (s : State) (x : Queue) (p : Packet) (i : Instr) : Prop :=
  eventQueue s x ∧ x.first = some p ∧ s.served x.fn = true ∧ p.startEvent = i ∧ x.canStart p s.dtime = true

/-- A packet stands at a stage in the event's queue. -/
def packetStands (s t : State) (idx : Nat) (stage : PStage) : Prop :=
  queueAfter s t (fun y => ∃ p ∈ y.packets, p.idx = idx ∧ p.stage = stage)

/-- The device with the wave that a scheduler chose at the issue stage (R159, R160): it is no longer overdue, and the caches hold the
rest of its packet (R115). -/
def atIssue (s : State) (sched : Nat) (w : Wave) : State :=
  ({ s with lastSched := sched, lastSlots := kvPut 0 s.lastSlots sched (w.slot + 1), cur := some w.uid }.putWave
    { w with overdueAt := 0 }).fetchPacket { w with overdueAt := 0 }

/-- The destination's and the source's type of a vector form that names types (R125). -/
def vectorTypes : Instr → Option (BitVec 4 × BitVec 4)
  | .vadd _ p | .vsub _ p | .vmul _ p | .vfma _ p | .vmin _ p | .vmax _ p | .vmulh _ p | .vrcp _ p | .vsqrt _ p | .vrsqrt _ p
  | .vlog2 _ p | .vexp2 _ p | .vand _ p | .vor _ p | .vxor _ p | .vshl _ p | .vshr _ p | .vsra _ p | .vcmp _ p | .vsel _ p
  | .vpack _ p | .vunpack _ p | .vperm _ p | .vred _ p | .vscan _ p | .vredmaxi _ p | .vtopk _ p | .vdot4 _ p | .vrand _ p
  | .vclz _ p | .vpopc _ p | .vbrev _ p | .vrnd _ p => some (p.ty, p.ty)
  | .vcvt _ p | .vcvtLegacy _ p => some (p.ty, BitVec.ofNat 4 p.srcTy)
  | .vaddVs _ p | .vsubVs _ p | .vmulVs _ p | .vfmaVs _ p | .vminVs _ p | .vmaxVs _ p | .vrcpVs _ p | .vsqrtVs _ p
  | .vrsqrtVs _ p | .vlog2Vs _ p | .vexp2Vs _ p | .vandVs _ p | .vorVs _ p | .vxorVs _ p | .vshlVs _ p | .vshrVs _ p
  | .vsraVs _ p | .vbcast _ p | .vrot _ p | .vshup _ p | .vshdn _ p | .vsplat _ p => some (p.ty, p.ty)
  | _ => none

/-- The forms of R182's table that are arithmetic, with their exact values. -/
def arith64 : Instr → Option (V4 × (Mode → FVal → FVal → FVal → FVal))
  | .vadd _ p => some (p, fun m x y _ => (x.add m y).1)
  | .vsub _ p => some (p, fun m x y _ => (x.add m y.negate).1)
  | .vmul _ p => some (p, fun _ x y _ => (x.mul y).1)
  | .vfma _ p => some (p, fun m x y z => (FVal.fma m x y z).1)
  | .vmin _ p => some (p, fun _ x y _ => FVal.minMax false x y)
  | .vmax _ p => some (p, fun _ x y _ => FVal.minMax true x y)
  | .vsqrt _ p => some (p, fun _ x _ _ => x.sqrt.1)
  | _ => none

/-- R182's table: what the firmware emulates. -/
def listed64 : Instr → Bool
  | .vadd _ p | .vsub _ p | .vmul _ p | .vfma _ p | .vmin _ p | .vmax _ p | .vsqrt _ p | .vcmp _ p => p.ty == 13
  | .vcvt _ p => (p.ty == 13 && (p.srcTy == 13 || p.srcTy == 2 || p.srcTy == 0 || p.srcTy == 1)) ||
      (p.srcTy == 13 && (p.ty == 2 || p.ty == 0 || p.ty == 1))
  | _ => false

/-- The registers of a listed form that hold f64 values (R182). -/
def pairs64 : Instr → List Nat
  | .vadd _ p | .vsub _ p | .vmul _ p | .vmin _ p | .vmax _ p => [p.vd.toNat, p.va.toNat, p.vb.toNat]
  | .vfma _ p => [p.vd.toNat, p.va.toNat, p.vb.toNat, p.vc.toNat]
  | .vsqrt _ p => [p.vd.toNat, p.va.toNat]
  | .vcmp _ p => [p.va.toNat, p.vb.toNat]
  | .vcvt _ p => (if p.ty = 13 then [p.vd.toNat] else []) ++ (if p.srcTy = 13 then [p.va.toNat] else [])
  | _ => []

end Sys2Proof.Claims

open Sys2Proof.Claims

/-! ### Scalar forms -/

/-- R185: the register forms, OPs 0x02 to 0x14 in format S3 and pipe S, complete with the result of R185's table in s[sd]; so do both
immediate forms with function codes 2 to 20, the immediate of OP 0x15 being sign-extended; nothing else changes. -/
def Obligations.ScalarArithmeticResults : Prop :=
  (∀ (s : State) (w : Wave) (op : Nat) (c : Bool) (d a b : R8) (imm : BitVec 24) (imm32 : Word),
    s.issuing = some w → 2 ≤ op → op ≤ 20 →
    exec (registerForm op c d a b) s = becomes s ((w.setS d.toNat (scalarOp op (w.rs a.toNat) (w.rs b.toNat))).advance 1 c .S) ∧
    exec (immForm op c d a imm) s = becomes s ((w.setS d.toNat (scalarOp op (w.rs a.toNat) (extended imm))).advance 2 c .S) ∧
    exec (imm32Form op d a imm32) s = becomes s ((w.setS d.toNat (scalarOp op (w.rs a.toNat) imm32)).advance 3 false .S)) ∧
  (∀ (op : Nat) (d a b : R8) (after : Word), 2 ≤ op → op ≤ 20 → opPipe op = .S ∧
    decodeWords false [] [leadW false op (p3 d a b)] = .ok (registerForm op false d a b) 1 ∧
    (chainOk [.S] [after] = true → decodeWords false [] [leadW true op (p3 d a b), after] = .ok (registerForm op true d a b) 1)) ∧
  decodeWords false [] [0x07020304] = .ok (.sdiv false 2 3 4) 1

/-- R186, R187, R189 to R191: `smov`, `scmp`, bit fields, the bit counts, reversal and extensions, and the seven pair forms with the
result in both halves of sd: each completes with the result of its table. A bit field that is empty or does not lie in the register, a
condition code above 9 and a set bit that must be zero are no instruction. -/
def Obligations.ScalarMoveCompareBitResults : Prop :=
  (∀ (s : State) (w : Wave) (c i : Bool) (d a : R8) (cc : BitVec 4) (imm : BitVec 24) (imm32 : Word) (pos : BitVec 5) (len : BitVec 6),
    s.issuing = some w → cc.toNat < 10 → 1 ≤ len.toNat → pos.toNat + len.toNat ≤ 32 →
    let x := w.rs a.toNat
    let y := if i then extended imm else w.rs (imm.toNat % 256)
    let t := holds cc.toNat x y
    let gives (n : Nat) (v : Word) := becomes s ((w.setS d.toNat v).advance n c .S)
    exec (.smovSi c d imm) s = gives 2 (extended imm) ∧
    exec (.smovSi32 d imm32) s = becomes s ((w.setS d.toNat imm32).advance 3 false .S) ∧
    exec (.scmp c d a cc i imm) s =
      becomes s ({ w.setS d.toNat (if t then 1 else 0) with scc := (w.scc &&& ~~~(1 : Word)) ||| (if t then 1 else 0) }.advance 2 c .S) ∧
    (∃ v, exec (.sbfe c d a pos len) s = gives 2 v ∧ v.toInt = ((x.toNat / 2 ^ pos.toNat : Nat) : Int).bmod (2 ^ len.toNat)) ∧
    (∃ v, exec (.sbfeu c d a pos len) s = gives 2 v ∧ v.toNat = x.toNat / 2 ^ pos.toNat % 2 ^ len.toNat) ∧
    (∃ v, exec (.sbfi c d a pos len) s = gives 2 v ∧ ∀ j, j < 32 →
      v.getLsbD j = if pos.toNat ≤ j ∧ j < pos.toNat + len.toNat then x.getLsbD (j - pos.toNat) else (w.rs d.toNat).getLsbD j) ∧
    (∃ v, exec (.sclz c d a) s = gives 1 v ∧ (x = 0 → v = 32) ∧ (x ≠ 0 → v.toNat < 32 ∧ 2 ^ (31 - v.toNat) ≤ x.toNat ∧ x.toNat < 2 ^ (32 - v.toNat))) ∧
    (∃ v, exec (.sctz c d a) s = gives 1 v ∧ (x = 0 → v = 32) ∧ (x ≠ 0 → x.getLsbD v.toNat = true ∧ ∀ j, j < v.toNat → x.getLsbD j = false)) ∧
    (∃ v, exec (.spopc c d a) s = gives 1 v ∧ v.toNat = ((List.range 32).filter (fun j => x.getLsbD j)).length) ∧
    (∃ v, exec (.sbrev c d a) s = gives 1 v ∧ ∀ j, j < 32 → v.getLsbD (31 - j) = x.getLsbD j) ∧
    exec (.sext8 c d a) s = gives 1 (BitVec.ofInt 32 (x.truncate 8).toInt) ∧
    exec (.sext16 c d a) s = gives 1 (BitVec.ofInt 32 (x.truncate 16).toInt)) ∧
  (∀ (s : State) (w : Wave) (fn : Nat) (c i : Bool) (d a : R8) (imm : BitVec 24), s.issuing = some w → fn < 7 →
    let x := pairOf (w.rs a.toNat) (w.rs (a.toNat + 1))
    let y := if i then BitVec.ofInt 64 imm.toInt else pairOf (w.rs (imm.toNat % 256)) (w.rs (imm.toNat % 256 + 1))
    exec (pairForm fn c d a i imm) s =
      becomes s (((w.setS d.toNat (loWord (pairOp fn x y))).setS (d.toNat + 1) (hiWord (pairOp fn x y))).advance 2 c .S)) ∧
  (∀ (d a fn : R8) (imm : BitVec 24),
    let pos := imm.toNat % 32
    let len := imm.toNat / 32 % 64
    let field := 1 ≤ len ∧ pos + len ≤ 32 ∧ imm.toNat / 2048 = 0
    let bits := decodeWords false [] [leadW false 0x19 (p3 d a fn), extW false imm]
    let cc := fn.toNat % 16
    let zeros := fn.toNat / 32 = 0 ∧ (fn.toNat / 16 = 1 ∨ imm.toNat / 256 = 0)
    let compare := decodeWords false [] [leadW false 0x17 (p3 d a fn), extW false imm]
    (fn.toNat ≤ 2 → ¬ field → bits = .illegalEncoding) ∧
    (fn.toNat ≤ 2 → field → bits = .ok (match fn.toNat with
      | 0 => .sbfe false d a (BitVec.ofNat 5 pos) (BitVec.ofNat 6 len)
      | 1 => .sbfeu false d a (BitVec.ofNat 5 pos) (BitVec.ofNat 6 len)
      | _ => .sbfi false d a (BitVec.ofNat 5 pos) (BitVec.ofNat 6 len)) 2) ∧
    (10 ≤ cc → compare = .illegalOpcode) ∧
    (cc < 10 → ¬ zeros → compare = .illegalEncoding) ∧
    (cc < 10 → zeros → compare = .ok (.scmp false d a (BitVec.ofNat 4 cc) (fn.getLsbD 4) imm) 2))

/-- R188 whole: format S3, OP 0x18, pipe S; s[sa] when scc.T = 1, else s[sb]; the example's word. -/
def Obligations.SselChoosesByT : Prop :=
  (∀ (s : State) (w : Wave) (c : Bool) (d a b : R8), s.issuing = some w →
    exec (.ssel c d a b) s =
      becomes s ((w.setS d.toNat (if w.scc.getLsbD 0 then w.rs a.toNat else w.rs b.toNat)).advance 1 c .S)) ∧
  (∀ d a b : R8, decodeWords false [] [leadW false 0x18 (p3 d a b)] = .ok (.ssel false d a b) 1) ∧
  decodeWords false [] [0x18060708] = .ok (.ssel false 6 7 8) 1 ∧ opPipe 0x18 = .S

/-- R151: `sget` copies the special register of each number to s[sd], or to a pair where it is 64 bits wide; `sput` writes the four
that may be written, inld only downwards and of scc only bits 4:0; every other number is reserved, and a write of a read-only one is
no instruction. R22: `nop` and a header word change nothing. -/
def Obligations.SpecialRegisterResults : Prop :=
  (∀ (s : State) (w : Wave) (c : Bool) (d a : R8) (b m : BitVec 6), s.issuing = some w →
    let word (n : R8) (v : Word) : Prop := exec (.sget c d n) s = becomes s ((w.setS d.toNat v).advance 1 c .S)
    let wide (n : R8) (v : DWord) : Prop := exec (.sget c d n) s = becomes s ((w.setPair d.toNat v).advance 1 c .S)
    exec (.nop c) s = becomes s (w.advance 1 c .none) ∧
    exec (.nopHeader b m) s = becomes s (w.advance 1 false .none) ∧
    wide 0x00 w.pc ∧ word 0x01 w.wid ∧ word 0x02 64 ∧ wide 0x03 w.ibase ∧ wide 0x04 w.icount ∧ wide 0x05 w.args ∧ word 0x06 w.ctaglo ∧
    word 0x07 w.ctaghi ∧ word 0x08 (BitVec.ofNat 32 w.sdepth) ∧ word 0x09 (BitVec.ofNat 32 w.inld) ∧ word 0x0A w.tbudget ∧ wide 0x0B s.dtime ∧
    word 0x0C (BitVec.ofNat 32 w.ebase) ∧ word 0x0D (BitVec.ofNat 32 (w.ebase + w.foot.ewin)) ∧ word 0x0E (BitVec.ofNat 32 w.wbase) ∧
    word 0x0F (BitVec.ofNat 32 (w.wbase + w.foot.wwin)) ∧ wide 0x10 w.exec ∧ word 0x11 w.fmt ∧ word 0x12 w.scc ∧
    word 0x13 (BitVec.ofNat 32 w.maskStack.length) ∧ word 0x14 (BitVec.ofNat 32 w.callStack.length) ∧ wide 0x15 w.desc.kid ∧
    word 0x16 (BitVec.ofNat 32 (s.cnt w)) ∧ word 0x17 (BitVec.ofNat 32 w.prio) ∧
    exec (.sput c 0x09 a) s = becomes s ({ w with inld := min (w.rs a.toNat).toNat w.inld }.advance 1 c .S) ∧
    exec (.sput c 0x0A a) s = becomes s ({ w with tbudget := w.rs a.toNat }.advance 1 c .S) ∧
    exec (.sput c 0x10 a) s = becomes s ({ w with exec := pairOf (w.rs a.toNat) (w.rs (a.toNat + 1)) }.advance 1 c .S) ∧
    exec (.sput c 0x12 a) s = becomes s ({ w with scc := (w.scc &&& 0xFFFFFFE0) ||| (w.rs a.toNat &&& 0x1F) }.advance 1 c .S)) ∧
  (∀ n r : R8,
    (0x18 ≤ n.toNat → decodeWords false [] [leadW false 0x2E (p3 r n 0)] = .illegalEncoding) ∧
    (n ≠ 0x09 → n ≠ 0x0A → n ≠ 0x10 → n ≠ 0x12 → decodeWords false [] [leadW false 0x2F (p3 n r 0)] = .illegalEncoding))

/-- R192 with R179: `setfmt` writes the control fields, the flags, or both, and leaves the rest of fmt; with a reserved code
or a reserved bit set it traps ILLEGAL_ENCODING and fmt stays. -/
def Obligations.SetfmtWritesFields : Prop :=
  ∀ (s : State) (w : Wave) (c : Bool) (a : R8) (imm : BitVec 24) (src : R8), s.issuing = some w → src = 0 ∨ src = 1 →
    let x := w.rs a.toNat
    let ctl : Nat := if src = 0 then imm.toNat % 2 ^ 16 else x.toNat % 2 ^ 16
    let flg : Nat := if src = 0 then imm.toNat / 2 ^ 16 % 64 else x.toNat / 2 ^ 20 % 64
    let bad := (imm.getLsbD 22 = true ∧ fmtControlOk ctl = false) ∨
      (src = 1 ∧ (x.toNat / 2 ^ 26 ≠ 0 ∨ x.toNat / 2 ^ 16 % 16 ≠ 0))
    (bad → exec (.setfmt c src a imm) s = .next (s.takeTrap w illegalEncoding)) ∧
    (¬ bad → ∃ f : Word, exec (.setfmt c src a imm) s = becomes s ({ w with fmt := f }.advance 2 c .C) ∧
      f.toNat % 2 ^ 16 = (if imm.getLsbD 22 then ctl else w.fmt.toNat % 2 ^ 16) ∧
      f.toNat / 2 ^ 20 % 64 = (if imm.getLsbD 23 then flg else w.fmt.toNat / 2 ^ 20 % 64) ∧
      f.toNat / 2 ^ 16 % 16 = w.fmt.toNat / 2 ^ 16 % 16 ∧ f.toNat / 2 ^ 26 = w.fmt.toNat / 2 ^ 26)

/-- The frame of every scalar form: of the wave only the destination registers, scc.T and the place in the code, and of the
device only that wave, may change (R147, R153, R185 to R191). -/
def Obligations.ScalarFormsFrame : Prop :=
  ∀ (s t : State) (w : Wave) (i : Instr) (ds : List Nat), s.issuing = some w → scalarDests i = some ds → exec i s = .next t →
    ∃ w', t = s.putWave w' ∧ w'.uid = w.uid ∧ ScalarFrame w w' ds ∧ (∀ a, memByte t.mem a = memByte s.mem a)

/-! ### Branches, calls, masks -/

/-- R113, R119, R193 to R195: outside a group's middle a taken branch goes to 12 · off bytes from its packet, one not taken to the
next word; `bu` with a mixed condition traps NONUNIFORM_BRANCH; `loop` counts down first. Inside a group a transfer stays pending
until the group's last member. -/
def Obligations.BranchResults : Prop :=
  (∀ (s : State) (w : Wave) (cond : BitVec 4) (ka : K4) (a : R8) (off : BitVec 20) (imm : BitVec 24),
    s.issuing = some w → w.xfer = none → cond.toNat < 8 →
    let packet := w.pc - BitVec.ofNat 64 (w.pc.toNat % 12)
    let at_ (v : Wave) (target : DWord) := becomes s { v with pc := target, grp := [], xfer := none }
    let go := packet + BitVec.ofInt 64 (12 * off.toInt)
    let m := w.rk ka.toNat &&& w.exec
    let n := w.rs a.toNat - 1
    exec (.b false off) s = at_ w go ∧
    exec (.bc false cond off) s = at_ w (if w.scc.getLsbD (cond.toNat / 2) = (cond.toNat % 2 == 0) then go else w.pc + 4) ∧
    (m = 0 → exec (.bu false ka off) s = at_ w (w.pc + 4)) ∧
    (m ≠ 0 → m = w.exec → exec (.bu false ka off) s = at_ w go) ∧
    (m ≠ 0 → m ≠ w.exec → exec (.bu false ka off) s = .next (s.takeTrap w { cause := 0x03, lanes := m })) ∧
    exec (.loop false a imm) s = at_ (w.setS a.toNat n) (if n = 0 then w.pc + 8 else packet + BitVec.ofInt 64 (12 * imm.toInt))) ∧
  (∀ (w : Wave) (n : Nat) (p : Pipe) (target : DWord),
    ((w.jump target).advance n true p).pc = w.pc + BitVec.ofNat 64 (4 * n) ∧
    ((w.jump target).advance n true p).xfer = some target ∧
    ((w.jump target).advance n false p).pc = target ∧ ((w.jump target).advance n false p).xfer = none ∧
    (w.xfer = some target → (w.advance n false p).pc = target))

/-- R23, R24, R197, R198: a `call` to a word that meets R21, with room on both stacks, pushes a plain entry, goes to the target, whose
line the caches take, and counts in SPILLCALLS when the budget exceeds the work window; with a full call stack it traps DEPTH. The first step of a `callp`
runs the lanes that share the lowest lane's target; with no lane active it goes on. That the next state holds the line of the target in the
code caches is the model's choice (log entry 12); its other choices: log entries 26, 87. -/
def Obligations.CallResults : Prop :=
  (∀ (s : State) (w : Wave) (off : BitVec 20) (x : Word) (budget mstk : Nat),
    s.issuing = some w → s.codeWord w (packetAt w.pc off.toInt).toNat = .word x → headerOf x = some (budget, mstk) →
    w.maskStack.length + mstk ≤ 32 →
    let f := s.codeFetch w (packetAt w.pc off.toInt).toNat
    (w.callStack.length < 64 → exec (.call off) s =
      .next ({ f with spillCalls := f.spillCalls + (if w.foot.wwin < budget then 1 else 0) }.putWave
        { w with callStack := { ra := w.pc + 4, save := none } :: w.callStack, pc := packetAt w.pc off.toInt, grp := [], xfer := none })) ∧
    (64 ≤ w.callStack.length → exec (.call off) s = .next (s.takeTrap w { cause := 0x16 }))) ∧
  (∀ (s : State) (w : Wave) (a : R8) (x : Word) (budget mstk l : Nat),
    let goal (k : Nat) : DWord := pairOf (laneOf (s.readV w a.toNat) k) (laneOf (s.readV w (a.toNat + 1)) k)
    let sub := maskWhere (fun k => w.exec.getLsbD k && goal k == goal l)
    s.issuing = some w → inWindows w (a.toNat + 1) →
    (w.exec = 0 → exec (.callp a) s = becomes s (w.advance 1 false .C)) ∧
    (lowestLane w.exec = some l → w.exec ≠ 0 → (goal l).toNat % 12 = 0 → s.codeWord w (goal l).toNat = .word x →
      headerOf x = some (budget, mstk) → w.maskStack.length + 2 + mstk ≤ 32 → w.callStack.length < 64 →
      ∃ t w', exec (.callp a) s = .next t ∧ t.wave? w.uid = some w' ∧ w'.exec = sub ∧ w'.pc = goal l ∧
        w'.maskStack = { exec := w.exec &&& ~~~sub, fmt := w.fmt } :: { exec := w.exec, fmt := w.fmt } :: w.maskStack ∧
        w'.callStack = { ra := w.pc + 1, save := none } :: w.callStack ∧ w'.s = w.s ∧ w'.k = w.k ∧ t.mem = (s.codeFetch w (goal l).toNat).mem ∧ t.rf = s.rf))

/-- R199, R200: `ret` with an empty call stack ends the wave; a plain entry is popped and gives the pc; the last return of a `callp`
restores exec and fmt. A `stub` pops the entry that reached it and traps LINK at the call, with its identifier and the subset. The model's choices in it: log entry 26. -/
def Obligations.RetResults : Prop :=
  (∀ (s : State) (w : Wave) (e : CallEntry) (calls : List CallEntry) (a b : MaskEntry) (rest : List MaskEntry), s.issuing = some w →
    (w.callStack = [] → exec .ret s = exec .exit s) ∧
    (w.callStack = e :: calls → e.save = none → e.ra &&& 3 = 0 →
      exec .ret s = becomes s { w with callStack := calls, pc := e.ra, grp := [], xfer := none }) ∧
    (w.callStack = e :: calls → e.save = none → e.ra &&& 3 = 1 → w.maskStack = b :: a :: rest → b.exec = 0 →
      exec .ret s = becomes s { w with callStack := calls, maskStack := rest, exec := a.exec, fmt := restoreFmt w.fmt a.fmt,
                                       pc := e.ra + 3, grp := [], xfer := none })) ∧
  (∀ (s : State) (w : Wave) (ident : BitVec 20) (e : CallEntry) (calls : List CallEntry), s.issuing = some w →
    (w.callStack = [] → exec (.stub ident) s = .next (s.takeTrap w { cause := 0x16 })) ∧
    (w.callStack = e :: calls → e.save = none → e.ra &&& 3 = 0 →
      exec (.stub ident) s = .next (s.takeTrap { w with callStack := calls }
        { cause := 0x0D, pc := some (e.ra - 4), lanes := w.exec, arg := ident.zeroExtend 32 })))

/-- R148, R181, R201 to R203: the mask operations (`kand`, `kor`, `kxor`, `kandn`, `knot`, `kmov`, `kshl`, `kshr`, `kpopc`, `kffs`, `kfroms`,
`ktos`) and votes (`vote.k`, `vote.f`, `vote.kf`) complete, with k0 all ones, and the mask stack with its traps when full or empty. -/
def Obligations.MaskOperationResults : Prop :=
  ((∀ w : Wave, w.rk 0 = BitVec.allOnes 64) ∧
  ∀ (s : State) (w : Wave) (i : Instr) (c : Bool) (kd ka kb : K4) (d : R8) (f : Wave → LaneMask), s.issuing = some w →
    (maskOp i = some (c, kd, f) → ∃ w' : Wave, exec i s = becomes s (w'.advance 1 c .C) ∧ w' = { w with k := w'.k } ∧
      (kd ≠ 0 → w'.rk kd.toNat = f w) ∧ (∀ j, j ≠ kd.toNat → w'.rk j = w.rk j)) ∧
    exec (.kpopc c ka d) s = becomes s ((w.setS d.toNat (BitVec.ofNat 32 ((allLanes.filter (fun l => (w.rk ka.toNat).getLsbD l)).length))).advance 1 c .C) ∧
    exec (.kffs c ka d) s = becomes s ((w.setS d.toNat (((allLanes.find? (fun l => (w.rk ka.toNat).getLsbD l)).map (BitVec.ofNat 32)).getD 0xFFFFFFFF)).advance 1 c .C) ∧
    exec (.ktos c ka d) s = becomes s (((w.setS d.toNat (loWord (w.rk ka.toNat))).setS (d.toNat + 1) (hiWord (w.rk ka.toNat))).advance 1 c .C) ∧
    exec (.voteF c ka kb) s = becomes s ({ w with scc := votes w.scc (w.exec &&& w.rk kb.toNat) (w.rk ka.toNat &&& w.rk kb.toNat &&& w.exec) }.advance 1 c .C) ∧
    exec (.voteKf c kd ka kb) s = becomes s (({ w with scc := votes w.scc (w.exec &&& w.rk kb.toNat) (w.rk ka.toNat &&& w.rk kb.toNat &&& w.exec) }.setK
      kd.toNat (w.rk ka.toNat &&& w.rk kb.toNat &&& w.exec)).advance 1 c .C)) ∧
  (∀ (s : State) (w : Wave) (c : Bool) (ka : K4) (e : MaskEntry) (rest : List MaskEntry), s.issuing = some w →
    (w.maskStack.length < 32 → exec (.mpush c ka) s =
      becomes s ({ w with maskStack := { exec := w.exec, fmt := w.fmt } :: w.maskStack, exec := w.exec &&& w.rk ka.toNat }.advance 1 c .C)) ∧
    (32 ≤ w.maskStack.length → exec (.mpush c ka) s = .next (s.takeTrap w { cause := 0x04 })) ∧
    (w.maskStack = e :: rest → exec (.melse c ka) s =
      becomes s ({ w with exec := e.exec &&& ~~~ w.rk ka.toNat, fmt := restoreFmt w.fmt e.fmt }.advance 1 c .C)) ∧
    (w.maskStack = e :: rest → exec (.mpop c) s =
      becomes s ({ w with exec := e.exec, fmt := restoreFmt w.fmt e.fmt, maskStack := rest }.advance 1 c .C)) ∧
    (w.maskStack = [] → exec (.melse c ka) s = .next (s.takeTrap w { cause := 0x05 }) ∧
      exec (.mpop c) s = .next (s.takeTrap w { cause := 0x05 })))


/-! ### Vector forms -/

/-- R209 with R213 to R221, R166: an arithmetic, logic or shift form of a type that is not emulated, with its registers in the
windows, completes; its lanes hold the form's result, and nothing but its destination, its flags and its place changes. Those results,
without modifiers: the integer ones are the exact value in the type's bits, or held in its range with sat; the float ones of f32, bf16,
f16 and e5m2 are the exact value rounded once as R172 and R173 say, with the NaNs, infinities and signed zeros of R169, R170, R213,
R214, R216 to R218; reciprocals and roots rounded to nearest are within half of their last place; counts and reversal are of 32 bits.
The model's choices in it: log entry 23. -/
def Obligations.VectorArithmeticResults : Prop :=
  (∀ (s : State) (w : Wave) (i : Instr) (f : LaneForm), s.issuing = some w → laneForm i = some f → emulated f.p.ty = false →
    (∀ n ∈ f.p.vd.toNat :: f.srcs, inWindows w n) →
    ∃ t, exec i s = .next t ∧
      lanesBecome s t w (w.active f.p.km.toNat) f.p.z f.p.vd.toNat (fun l =>
        f.lane (laneOf (s.readV w f.p.va.toNat) l) (laneOf (s.readV w f.p.vb.toNat) l) (laneOf (s.readV w f.p.vc.toNat) l)) ∧
      VectorFrame s t w [f.p.vd.toNat] 2 f.c) ∧
  (∀ (p : V4) (mode : Mode) (a b x : Word), plainI32 p →
    (laneAdd p.modsOf mode a b).1 = a + b ∧ (laneSub p.modsOf mode a b).1 = a - b ∧ (laneMul p.modsOf mode a b).1 = a * b ∧
    (laneFma p.modsOf mode a b x).1 = a * b + x ∧
    (laneMinMax p.modsOf false a b).1 = (if a.toInt ≤ b.toInt then a else b) ∧
    (laneMinMax p.modsOf true a b).1 = (if a.toInt ≤ b.toInt then b else a) ∧
    mulHigh true a b = BitVec.ofInt 32 (a.toInt * b.toInt / 2 ^ 32) ∧ mulHigh false a b = BitVec.ofNat 32 (a.toNat * b.toNat / 2 ^ 32) ∧
    (laneShl 0 false a b).1 = (if b.toNat < 32 then a <<< b.toNat else 0) ∧
    laneShr 0 a b = (if b.toNat < 32 then a >>> b.toNat else 0) ∧
    laneSra 0 a b = (if b.toNat < 32 then a.sshiftRight b.toNat else if a.toInt < 0 then 0xFFFFFFFF else 0)) ∧
  (∀ (p : V4) (f : FloatType) (a b x : Word), floatType p.ty.toNat = some f → plain p →
    let rnd := p.rnd.toNat
    let mode := Mode.ofRnd rnd
    let add := (laneAdd p.modsOf mode a b).1
    let sub := (laneSub p.modsOf mode a b).1
    let mul := (laneMul p.modsOf mode a b).1
    let fma := (laneFma p.modsOf mode a b x).1
    let least := (laneMinMax p.modsOf false a b).1
    let greatest := (laneMinMax p.modsOf true a b).1
    let integral := (laneRnd p.modsOf mode a).1
    let recip := (laneUnary p.modsOf mode FVal.recip a).1
    let root := (laneUnary p.modsOf mode FVal.sqrt a).1
    let recipRoot := (laneUnary p.modsOf mode FVal.rsqrt a).1
    (f.isNan a ∨ f.isNan b → add = f.nanCode ∧ sub = f.nanCode ∧ mul = f.nanCode ∧ fma = f.nanCode) ∧
    (f.isNan x → fma = f.nanCode) ∧
    (f.isNan a → integral = f.nanCode ∧ recip = f.nanCode ∧ root = f.nanCode ∧ recipRoot = f.nanCode ∧
      (f.isNan b → least = f.nanCode ∧ greatest = f.nanCode)) ∧
    (f.isFinite a → f.isFinite b →
      f.result rnd p.sat (f.value a + f.value b) 0 (FloatType.zeroSign rnd (f.sign a) (f.sign b)) add ∧
      f.result rnd p.sat (f.value a - f.value b) 0 (FloatType.zeroSign rnd (f.sign a) (!f.sign b)) sub ∧
      f.result rnd p.sat (f.value a * f.value b) f.unit (f.sign a != f.sign b) mul ∧
      (f.isFinite x → f.result rnd p.sat (f.value a * f.value b + f.value x * 2 ^ f.unit) f.unit
        (FloatType.zeroSign rnd (f.sign a != f.sign b) (f.sign x)) fma) ∧
      (f.below a b → least = f.code (f.sign a) (f.mag a) ∧ greatest = f.code (f.sign b) (f.mag b)) ∧
      (f.below b a → least = f.code (f.sign b) (f.mag b) ∧ greatest = f.code (f.sign a) (f.mag a)) ∧
      (f.sign a = f.sign b → f.mag a = f.mag b → least = f.code (f.sign a) (f.mag a) ∧ greatest = f.code (f.sign a) (f.mag a))) ∧
    (f.isInf a → f.isFinite b → add = f.big p.sat (f.sign a) ∧ sub = f.big p.sat (f.sign a) ∧
      mul = if f.value b = 0 then f.nanCode else f.big p.sat (f.sign a != f.sign b)) ∧
    (f.isFinite a → f.isInf b → add = f.big p.sat (f.sign b) ∧ sub = f.big p.sat (!f.sign b) ∧
      mul = if f.value a = 0 then f.nanCode else f.big p.sat (f.sign a != f.sign b)) ∧
    (f.isInf a → f.isInf b → mul = f.big p.sat (f.sign a != f.sign b) ∧
      add = (if f.sign a = f.sign b then f.big p.sat (f.sign a) else f.nanCode) ∧
      sub = (if f.sign a = f.sign b then f.nanCode else f.big p.sat (f.sign a))) ∧
    (f.isNan a → f.isFinite b → least = f.code (f.sign b) (f.mag b) ∧ greatest = f.code (f.sign b) (f.mag b)) ∧
    (f.isFinite a → f.isNan b → least = f.code (f.sign a) (f.mag a) ∧ greatest = f.code (f.sign a) (f.mag a)) ∧
    (f.isFinite a → f.units a ≠ 0 →
      let step := 2 ^ f.unit
      let lo := f.units a / step
      integral = f.code (f.sign a) (f.mag integral) ∧
      f.units integral = (if FloatType.goesUp rnd (f.sign a) lo (f.units a % step) step then lo + 1 else lo) * step ∧
      (rnd = 0 → p.sat = false → f.isFinite recip → recip = f.code (f.sign a) (f.mag recip) ∧ f.close false (2 ^ (2 * f.unit)) (f.units a) recip) ∧
      (f.sign a = true → root = f.nanCode ∧ recipRoot = f.nanCode) ∧
      (f.sign a = false → rnd = 0 → f.close true (f.units a * 2 ^ f.unit) 1 root ∧ f.close true (2 ^ (3 * f.unit)) (f.units a) recipRoot)) ∧
    (f.isFinite a → f.units a = 0 → integral = f.code (f.sign a) 0 ∧ recip = f.big p.sat (f.sign a) ∧ root = f.code (f.sign a) 0 ∧
      recipRoot = f.big p.sat (f.sign a)) ∧
    (f.isInf a → integral = f.code (f.sign a) f.infMag ∧ recip = f.code (f.sign a) 0 ∧
      (f.sign a = false → root = f.big p.sat false ∧ recipRoot = 0) ∧ (f.sign a = true → root = f.nanCode ∧ recipRoot = f.nanCode))) ∧
  (∀ (p : V4) (mode : Mode) (n : Nat) (signed : Bool) (a b x : Word), intType p.ty.toNat = some (n, signed) → plain p →
    let v := intValue n signed
    let gives := intResult n signed p.sat
    (laneAdd p.modsOf mode a b).1 = gives (v a + v b) ∧ (laneSub p.modsOf mode a b).1 = gives (v a - v b) ∧
    (laneMul p.modsOf mode a b).1 = gives (v a * v b) ∧ (laneFma p.modsOf mode a b x).1 = gives (v a * v b + v x) ∧
    (laneMinMax p.modsOf false a b).1 = gives (min (v a) (v b)) ∧ (laneMinMax p.modsOf true a b).1 = gives (max (v a) (v b)) ∧
    (b.toNat < n → (laneShl p.ty.toNat p.sat a b).1 = gives (v a * 2 ^ b.toNat) ∧
      laneShr p.ty.toNat a b = intResult n signed false (a.toNat % 2 ^ n / 2 ^ b.toNat : Nat) ∧
      laneSra p.ty.toNat a b = intResult n signed false (v a / 2 ^ b.toNat)) ∧
    (n ≤ b.toNat → (laneShl p.ty.toNat p.sat a b).1 = (if p.sat = true then gives (v a * 2 ^ n) else 0) ∧ laneShr p.ty.toNat a b = 0 ∧
      laneSra p.ty.toNat a b = intResult n signed false (if v a < 0 then -1 else 0))) ∧
  (∀ a : Word, (a = 0 → clz32 a = 32) ∧ (a ≠ 0 → clz32 a < 32 ∧ 2 ^ (31 - clz32 a) ≤ a.toNat ∧ a.toNat < 2 ^ (32 - clz32 a)) ∧
    popc32 a = ((List.range 32).map (fun j => a.toNat / 2 ^ j % 2)).sum ∧ ∀ j, j < 32 → (brev32 a).getLsbD (31 - j) = a.getLsbD j) ∧
  (∀ (p : V4) (f : FloatType) (a : Word), p.ty = 2 → floatType 2 = some f → plain p →
    let log := (laneUnary p.modsOf .rne FVal.log2 a).1
    let exp := (laneUnary p.modsOf .rne FVal.exp2 a).1
    (f.isNan a → log = f.nanCode ∧ exp = f.nanCode) ∧
    (f.isInf a → f.sign a = false → log = f.big p.sat false ∧ exp = f.big p.sat false) ∧
    (f.isInf a → f.sign a = true → log = f.nanCode ∧ exp = 0) ∧
    (f.isFinite a → f.units a = 0 → log = f.big p.sat true ∧ exp = 0x3F800000) ∧
    (f.isFinite a → f.units a ≠ 0 → f.sign a = true → log = f.nanCode) ∧
    (∀ k : Nat, f.isFinite a → f.sign a = false → f.units a = 2 ^ k → f.isFinite log ∧ f.value log = ((k : Int) - 149) * 2 ^ 149) ∧
    (∀ k : Int, f.isFinite a → f.value a = k * 2 ^ 149 → -149 ≤ k → k ≤ 127 → f.sign exp = false ∧ f.units exp = 2 ^ (k + 149).toNat))

/-- R209 with R213 to R235: every vector form of a type that is not emulated, with its registers in the windows, completes: the wave
goes on to the next word with at most sticky flags added, `vredmaxi` with scc.NOMAX as it finds it and `vcmp` with its mask
register written; outside the registers that the form writes the device is as it was. -/
def Obligations.VectorFormsComplete : Prop :=
  (∀ (s : State) (w : Wave) (c : Bool) (p : V4), s.issuing = some w → emulated p.ty = false → (∀ n, n < 256 → inWindows w n) →
    p.vd.toNat + 17 ≤ 256 → p.va.toNat + 8 ≤ 256 →
    let completes (i : Instr) (ds : List Nat) : Prop := ∃ t, exec i s = .next t ∧ VectorFrame s t w ds 2 c
    let d := [p.vd.toNat]
    completes (.vadd c p) d ∧ completes (.vsub c p) d ∧ completes (.vmul c p) d ∧ completes (.vfma c p) d ∧ completes (.vmin c p) d ∧
    completes (.vmax c p) d ∧ completes (.vmulh c p) d ∧ completes (.vrcp c p) d ∧ completes (.vsqrt c p) d ∧ completes (.vrsqrt c p) d ∧
    completes (.vlog2 c p) d ∧ completes (.vexp2 c p) d ∧ completes (.vand c p) d ∧ completes (.vor c p) d ∧ completes (.vxor c p) d ∧
    completes (.vshl c p) d ∧ completes (.vshr c p) d ∧ completes (.vsra c p) d ∧ completes (.vclz c p) d ∧ completes (.vpopc c p) d ∧
    completes (.vbrev c p) d ∧ completes (.vrnd c p) d ∧ completes (.vsel c p) d ∧ completes (.vperm c p) d ∧
    completes (.vred c p) d ∧ completes (.vscan c p) d ∧
    (tyBits p.ty.toNat = 4 ∨ tyBits p.ty.toNat = 8 ∨ tyBits p.ty.toNat = 16 →
      completes (.vpack c p) d ∧ completes (.vunpack c p) (runFrom p.vd.toNat (16 / tyBits p.ty.toNat))) ∧
    (p.srcTy ≠ 13 → p.srcTy ≠ 14 → completes (.vcvt c p) d ∧ completes (.vcvtLegacy c p) d) ∧
    (dotTypesOk p.ty.toNat (w.fmt.toNat % 16) (w.fmt.toNat / 16 % 16) = true → completes (.vdot4 c p) d) ∧
    (w.desc.permits = true → completes (.vrand c p) d) ∧
    (p.vc.toNat % 16 ≤ 8 → completes (.vtopk c p) (runFrom p.vd.toNat (2 * (p.vc.toNat % 16) + 1))) ∧
    (∃ t x, exec (.vredmaxi c p) s = .next t ∧ DeviceFrame s t w [p.vd.toNat, p.vd.toNat + 1] ∧
      t.wave? w.uid = some { w.advance 2 c .V with scc := x } ∧ (∀ j, j ≠ 4 → x.getLsbD j = w.scc.getLsbD j)) ∧
    (∃ t k, exec (.vcmp c p) s = .next t ∧ DeviceFrame s t w [] ∧ t.wave? w.uid = some { w.advance 2 c .V with k := k })) ∧
  (∀ (s : State) (w : Wave) (c : Bool) (p : VS) (d a b : R8), s.issuing = some w → emulated p.ty = false → (∀ n, n < 256 → inWindows w n) →
    let completes (i : Instr) : Prop := ∃ t, exec i s = .next t ∧ VectorFrame s t w [p.vd.toNat] 2 c
    let short (i : Instr) : Prop := ∃ t, exec i s = .next t ∧ VectorFrame s t w [d.toNat] 1 c
    completes (.vaddVs c p) ∧ completes (.vsubVs c p) ∧ completes (.vmulVs c p) ∧ completes (.vfmaVs c p) ∧ completes (.vminVs c p) ∧
    completes (.vmaxVs c p) ∧ completes (.vrcpVs c p) ∧ completes (.vsqrtVs c p) ∧ completes (.vrsqrtVs c p) ∧ completes (.vlog2Vs c p) ∧
    completes (.vexp2Vs c p) ∧ completes (.vandVs c p) ∧ completes (.vorVs c p) ∧ completes (.vxorVs c p) ∧ completes (.vshlVs c p) ∧
    completes (.vshrVs c p) ∧ completes (.vsraVs c p) ∧ completes (.vbcast c p) ∧ completes (.vrot c p) ∧ completes (.vshup c p) ∧
    completes (.vshdn c p) ∧ completes (.vsplat c p) ∧ short (.vaddF32Short c d a b) ∧ short (.vmulF32Short c d a b) ∧
    short (.vaddI32Short c d a b) ∧ short (.vmovShort c d a))

/-- R209, R212, R229, R230: the vector-scalar forms, the lane moves and the short forms complete with their results in the active
lanes; the short forms act in the lanes of exec. -/
def Obligations.VectorScalarResults : Prop :=
  (∀ (s : State) (w : Wave) (i : Instr) (f : ScalarLaneForm), s.issuing = some w → scalarLaneForm i = some f → emulated f.p.ty = false →
    inWindows w f.p.vd.toNat → inWindows w f.p.va.toNat →
    ∃ t, exec i s = .next t ∧
      lanesBecome s t w (w.active f.p.km.toNat) f.p.z f.p.vd.toNat (fun l =>
        f.lane (s.readV w f.p.va.toNat) (w.rs f.p.sb.toNat) (s.readV w f.p.vd.toNat) l) ∧
      VectorFrame s t w [f.p.vd.toNat] 2 f.c) ∧
  (∀ (s : State) (w : Wave) (c : Bool) (d a b : R8), s.issuing = some w →
    inWindows w d.toNat → inWindows w a.toNat → inWindows w b.toNat →
    let x (l : Nat) := laneOf (s.readV w a.toNat) l
    let y (l : Nat) := laneOf (s.readV w b.toNat) l
    let gives (i : Instr) (f : Nat → Word) : Prop :=
      ∃ t, exec i s = .next t ∧ lanesBecome s t w w.exec false d.toNat f ∧ VectorFrame s t w [d.toNat] 1 c
    gives (.vaddF32Short c d a b) (fun l => BitVec.ofNat 32 (fmtF32.round .rne false ((fmtF32.decode (x l).toNat).add .rne (fmtF32.decode (y l).toNat)).1).1) ∧
    gives (.vmulF32Short c d a b) (fun l => BitVec.ofNat 32 (fmtF32.round .rne false ((fmtF32.decode (x l).toNat).mul (fmtF32.decode (y l).toNat)).1).1) ∧
    gives (.vaddI32Short c d a b) (fun l => x l + y l) ∧
    gives (.vmovShort c d a) x)

/-- R219, R222 to R228, R235: `vcmp` writes a mask register, `vsel`, `vperm`, `vpack`, `vunpack`, the conversions, `vdot4` and
`vrand` complete with their lanes, for types that are not emulated and registers in the windows. -/
def Obligations.VectorSelectPackConvertResults : Prop :=
  ∀ (s : State) (w : Wave) (c : Bool) (p : V4), s.issuing = some w → emulated p.ty = false → (∀ n, n < 256 → inWindows w n) →
    p.va.toNat + 8 ≤ 256 → p.vd.toNat + 4 ≤ 256 →
    let act := w.active p.km.toNat
    let a := s.readV w p.va.toNat
    let b := s.readV w p.vb.toNat
    let x := s.readV w p.vc.toNat
    let bits := tyBits p.ty.toNat
    let gives (i : Instr) (f : Nat → Word) : Prop :=
      ∃ t, exec i s = .next t ∧ lanesBecome s t w act p.z p.vd.toNat f ∧ VectorFrame s t w [p.vd.toNat] 2 c
    (∃ t w', exec (.vcmp c p) s = .next t ∧ DeviceFrame s t w [] ∧ t.wave? w.uid = some w' ∧ w' = { w.advance 2 c .V with k := w'.k } ∧
      (p.vd.toNat % 16 ≠ 0 → ∀ l, l < 64 → (w'.rk (p.vd.toNat % 16)).getLsbD l =
        if act.getLsbD l then laneCmp p.modsOf p.vc.toNat (laneOf a l) (laneOf b l)
        else if p.z then false else (w.rk (p.vd.toNat % 16)).getLsbD l) ∧
      (∀ j, j ≠ p.vd.toNat % 16 → w'.rk j = w.rk j)) ∧
    gives (.vsel c p) (fun l => if (w.rk (p.vc.toNat % 16)).getLsbD l then laneOf a l else laneOf b l) ∧
    gives (.vperm c p) (fun l => laneOf a ((laneOf b l).toNat % 64)) ∧
    (bits = 8 → gives (.vpack c p) (fun l => BitVec.ofNat 32 ((List.range 4).foldl (fun n j =>
      n + (laneOf (s.readV w (p.va.toNat + j)) l).toNat % 256 * 256 ^ j) 0))) ∧
    (bits = 16 → p.ty = 3 → gives (.vunpack c p) (fun l => BitVec.ofNat 32 ((laneOf a l).toNat / (if p.fnx then 65536 else 1) % 65536))) ∧
    (p.srcTy ≠ 13 → p.srcTy ≠ 14 → p.fnx = false → gives (.vcvt c p) (fun l =>
      (convertLane (Mode.ofRnd p.rnd.toNat) p.sat p.ty.toNat p.srcTy (laneOf a l)).1)) ∧
    (p.srcTy ≠ 13 → p.srcTy ≠ 14 → p.ty = 0 ∨ p.ty = 1 → gives (.vcvtLegacy c p) (fun l =>
      intLane (floatToInt (Mode.ofRnd p.rnd.toNat) p.ty.toNat true (laneFloat 2 (laneOf a l))).1)) ∧
    (p.ty = 0 → p.sat = false → w.fmt.toNat % 16 = 7 → w.fmt.toNat / 16 % 16 = 7 → gives (.vdot4 c p) (fun l =>
      BitVec.ofInt 32 ((laneOf x l).toInt + ((List.range 4).map (fun j =>
        (((laneOf a l).extractLsb' (8 * j) 8).toInt * ((laneOf b l).extractLsb' (8 * j) 8).toInt))).sum))) ∧
    (w.desc.permits = true → gives (.vrand c p) (fun l => laneRand p.ty.toNat (laneOf a l) (laneOf b l)))

/-- R231 to R234: reductions and scans of i32 sums, `vredmaxi` and `vtopk` complete; a reduction writes one value to every
active lane, a scan the sum up to each lane; `vredmaxi` of f32 writes the bits and the index of the greatest value that is neither a
NaN nor -Inf, of equal ones that of the lowest index, and -Inf, all ones and NOMAX where there is none; `vtopk` inserts its candidate
before the first entry that it beats, the last being dropped, and counts it, or leaves the list as it is. The model's choices in it: log entry 24. -/
def Obligations.VectorReductionResults : Prop :=
  ∀ (s : State) (w : Wave) (c : Bool) (p : V4), s.issuing = some w → (∀ n, n < 256 → inWindows w n) → p.vd.toNat + 33 ≤ 256 → windowsApart w →
    let act := w.active p.km.toNat
    let a := s.readV w p.va.toNat
    let b := s.readV w p.vb.toNat
    let total (ls : List Nat) : Word := BitVec.ofInt 32 ((ls.map (fun l => (laneOf a l).toInt)).sum)
    (plainI32 p → p.vc = 0 → act ≠ 0 → ∃ t, exec (.vred c p) s = .next t ∧
      lanesBecome s t w act p.z p.vd.toNat (fun _ => total (lanesOf act)) ∧ VectorFrame s t w [p.vd.toNat] 2 c) ∧
    (plainI32 p → p.vc = 0 → ∃ t, exec (.vscan c p) s = .next t ∧
      lanesBecome s t w act p.z p.vd.toNat (fun l => total ((lanesOf act).filter (· ≤ l))) ∧ VectorFrame s t w [p.vd.toNat] 2 c) ∧
    (p.ty = 2 → let val (l : Nat) := laneFloat 2 (laneOf a l)
      let counts (l : Nat) : Prop := l ∈ lanesOf act ∧ (val l).isNan = false ∧ val l ≠ .inf true
      let idx (l : Nat) : Word := laneOf b l
      let gives (v i : Word) (none_ : Bool) : Prop := ∃ t w', exec (.vredmaxi c p) s = .next t ∧ DeviceFrame s t w [p.vd.toNat, p.vd.toNat + 1] ∧
        t.wave? w.uid = some w' ∧ w' = { w.advance 2 c .V with scc := w'.scc } ∧ w'.scc.getLsbD 4 = none_ ∧ (∀ j, j ≠ 4 → w'.scc.getLsbD j = w.scc.getLsbD j) ∧
        (act ≠ 0 → lanesBecome s t w act p.z p.vd.toNat (fun _ => v) ∧ lanesBecome s t w act p.z (p.vd.toNat + 1) (fun _ => i))
      ((∀ l, ¬ counts l) → gives 0xFF800000 0xFFFFFFFF true) ∧
      (∀ m, counts m → (∀ l, counts l → (val m).lt (val l) = false ∧ ((val l).eq (val m) = true → idx m ≤ idx l ∧ (idx l = idx m → m ≤ l))) →
        gives (laneOf a m) (idx m) false)) ∧
    (p.ty = 2 → p.z = false → 1 ≤ p.vc.toNat % 16 → p.vc.toNat % 16 ≤ 8 → let k := p.vc.toNat % 16
      ∃ t w', exec (.vtopk c p) s = .next t ∧ VectorFrame s t w (runFrom p.vd.toNat (2 * k + 1)) 2 c ∧ t.wave? w.uid = some w' ∧ ∀ l, l < 64 →
        let was (j : Nat) : Word := laneOf (s.readV w (p.vd.toNat + j)) l
        let score (j : Nat) : Word := if p.fnx then 0xFF800000 else was j
        let index (j : Nat) : Word := if p.fnx then 0xFFFFFFFF else was (k + j)
        let count : Word := if p.fnx then 0 else was (2 * k)
        let now (j : Nat) : Word := laneOf (t.readV w' (p.vd.toNat + j)) l
        let x := laneFloat 2 (laneOf a l)
        let beats (j : Nat) : Prop := (laneFloat 2 (score j)).lt x = true ∨ (x.eq (laneFloat 2 (score j)) = true ∧ laneOf b l < index j)
        (act.getLsbD l = false → ∀ j, j ≤ 2 * k → now j = was j) ∧
        (act.getLsbD l = true → (x.isNan = true ∨ x = .inf true ∨ ∀ j, j < k → ¬ beats j) →
          (∀ j, j < k → now j = score j ∧ now (k + j) = index j) ∧ now (2 * k) = count) ∧
        (∀ q, act.getLsbD l = true → x.isNan = false → x ≠ .inf true → q < k → beats q → (∀ j, j < q → ¬ beats j) →
          (∀ j, j < k → now j = (if j < q then score j else if j = q then laneOf a l else score (j - 1)) ∧
            now (k + j) = (if j < q then index j else if j = q then laneOf b l else index (j - 1))) ∧
          now (2 * k) = if count.toNat + 1 < k then count + 1 else BitVec.ofNat 32 k))

/-- R125, R182, R183: an instruction of an emulated type parks the wave, and FIRMWARE_EMULATE_DONE completes the forms of R182's table
and halts the wave on every other, with FORMAT_EMULATE, and on an odd f64 register, with ILLEGAL_ENCODING. A form that completes
writes in each active lane its exact value rounded once to binary64 (to f32, i32 or u32 where a conversion gives these), or its
mask bit, and the wave goes on to the next word. That a form parks first of all, and that EMULOPS counts it as it completes, is the
model's choice: log entries 60, 77. -/
def Obligations.EmulatedFormsParkAndComplete : Prop :=
  (∀ (s : State) (w : Wave) (i : Instr), s.issuing = some w →
    let parks : Prop := ∃ t w', exec i s = .next t ∧ t.wave? w.uid = some w' ∧ w'.life = .parked (.emulate i) ∧ w'.pc = w.pc ∧
      t.mem = s.mem ∧ Turn.ev .firmwareEmulateDone { uid := w.uid } ∈ t.agenda
    (∀ dst src, vectorTypes i = some (dst, src) → emulated dst = true ∨ emulated src = true → ((∃ c p, i = .vrand c p) → w.desc.permits = true) → parks) ∧
    (∀ p, i = .accrd p ∨ i = .accwr p → emulated p.ty = true → parks) ∧
    (∀ p, i = .mmq p ∨ i = .mmqSp p → emulated p.ty = true ∨ emulated p.btype = true → parks)) ∧
  (∀ (s : State) (w : Wave) (i : Instr), s.wave? s.input.uid = some w → w.life = .parked (.emulate i) →
    (listed64 i = false → exec .firmwareEmulateDone s = .next (s.haltWave w { cause := 0x07, fw := true })) ∧
    (listed64 i = true → (∃ n ∈ pairs64 i, n % 2 = 1) → exec .firmwareEmulateDone s = .next (s.haltWave w { illegalEncoding with fw := true })) ∧
    (listed64 i = true → (∀ n ∈ pairs64 i, n % 2 = 0) → (∀ n, n < 256 → inWindows w n) →
      let value (n l : Nat) : FVal := fmtF64.decode (pairOf (laneOf (s.readV w n) l) (laneOf (s.readV w (n + 1)) l)).toNat
      let completes (then' : State → Wave → Prop) : Prop :=
        ∃ t w', exec .firmwareEmulateDone s = .next t ∧ t.wave? w.uid = some w' ∧ w'.life = .ready ∧ t.emulOps = s.emulOps + 1 ∧ t.mem = s.mem ∧
          w'.pc = (w.advance 2 w.parkC .V).pc ∧ w'.grp = (w.advance 2 w.parkC .V).grp ∧ w'.xfer = (w.advance 2 w.parkC .V).xfer ∧ then' t w'
      let pair (t : State) (w' : Wave) (p : V4) (f : Nat → FVal) : Prop := ∀ l, l < 64 →
        pairOf (laneOf (t.readV w' p.vd.toNat) l) (laneOf (t.readV w' (p.vd.toNat + 1)) l) =
          if (w.active p.km.toNat).getLsbD l then BitVec.ofNat 64 (fmtF64.round (Mode.ofRnd p.rnd.toNat) false (f l)).1
          else if p.z then 0 else pairOf (laneOf (s.readV w p.vd.toNat) l) (laneOf (s.readV w (p.vd.toNat + 1)) l)
      let lane (t : State) (w' : Wave) (p : V4) (f : Nat → Word) : Prop := ∀ l, l < 64 →
        laneOf (t.readV w' p.vd.toNat) l =
          if (w.active p.km.toNat).getLsbD l then f l else if p.z then 0 else laneOf (s.readV w p.vd.toNat) l
      let first (p : V4) (l : Nat) : FVal := modFloat p.absa p.nega (value p.va.toNat l)
      let second (p : V4) (l : Nat) : FVal := modFloat false p.negb (value p.vb.toNat l)
      (∀ p f, arith64 i = some (p, f) → completes (fun t w' =>
        pair t w' p (fun l => f (Mode.ofRnd p.rnd.toNat) (first p l) (second p l) (value p.vc.toNat l)))) ∧
      (∀ c p, i = .vcmp c p → completes (fun _ w' =>
        (p.vd.toNat % 16 = 0 → ∀ j, w'.rk j = w.rk j) ∧
        (p.vd.toNat % 16 ≠ 0 → (∀ j, j ≠ p.vd.toNat % 16 → w'.rk j = w.rk j) ∧ ∀ l, l < 64 → (w'.rk (p.vd.toNat % 16)).getLsbD l =
          if (w.active p.km.toNat).getLsbD l then cmpFloat p.vc.toNat (first p l) (second p l)
          else if p.z then false else (w.rk (p.vd.toNat % 16)).getLsbD l))) ∧
      (∀ c p, i = .vcvt c p →
        let mode := Mode.ofRnd p.rnd.toNat
        let x (l : Nat) : Word := laneOf (s.readV w p.va.toNat) l
        (p.ty = 13 → p.srcTy = 13 → completes (fun t w' => pair t w' p (first p))) ∧
        (p.ty = 13 → p.srcTy = 2 → completes (fun t w' => pair t w' p (fun l => modFloat p.absa p.nega (laneFloat 2 (x l))))) ∧
        (p.ty = 13 → p.srcTy = 0 ∨ p.srcTy = 1 → completes (fun t w' => pair t w' p (fun l =>
          intVal (modInt p.srcTy false p.absa p.nega (if p.srcTy = 0 then (x l).toInt else (x l).toNat)).1))) ∧
        (p.srcTy = 13 → p.ty = 2 → completes (fun t w' => lane t w' p (fun l => BitVec.ofNat 32 (fmtF32.round mode false (first p l)).1))) ∧
        (p.srcTy = 13 → p.ty = 0 ∨ p.ty = 1 → completes (fun t w' =>
          lane t w' p (fun l => intLane (floatToInt mode p.ty.toNat false (first p l)).1))))))

/-- R99: where each virtual vector register lies, with WaveIndex() and the four read-only special registers that give the windows.
Beside it: a backing-store register that the wave has not written reads zero, and a write gives it its written bit (R146); a move to
one fails outside the slice with SPILL_FAULT (R100), and else changes its active lanes and no other byte; a move from one in a line whose data
are bad (R250, R251) traps POISON (R100). -/
def Obligations.VectorRegisterHomes : Prop :=
  (∀ (s : State) (w : Wave) (n l : Nat) (c : Bool) (d : R8),
    let ew := 8 * w.foot.ewin
    let ww := 8 * w.foot.wwin
    let index := 128 * ((List.range w.core).filter (fun k => decide (k < 192) && (s.part w.part).clusters.testBit (k / 8))).length + w.slot
    let home := (s.part w.part).bstore.toNat + 65536 * index + 256 * n
    let window (num : R8) (v : Nat) : Prop :=
      (s.issuing = some w → exec (.sget c d num) s = becomes s ((w.setS d.toNat (BitVec.ofNat 32 v)).advance 1 c .S)) ∧
      decodeWords false [] [leadW false 0x2F (p3 num d 0)] = .illegalEncoding
    (n < ew → s.readV w n = kvGet zeroV s.rf (rowKey w.cc (w.ebase + n / 8) (n % 8))) ∧
    (ew ≤ n → n < ew + ww → s.readV w n = kvGet zeroV s.rf (rowKey w.cc (w.wbase + (n - ew) / 8) ((n - ew) % 8))) ∧
    (ew + ww ≤ n → w.backed.contains n = true → l < 64 → laneOf (s.readV w n) l = BitVec.ofNat 32 (leNat (memBytes s.mem (home + 4 * l) 4))) ∧
    (ew + ww ≤ n → w.backed.contains n = false → s.readV w n = zeroV) ∧
    window 0x0C w.ebase ∧ window 0x0D (w.ebase + w.foot.ewin) ∧ window 0x0E w.wbase ∧ window 0x0F (w.wbase + w.foot.wwin)) ∧
  (∀ (s : State) (w : Wave) (c : Bool) (d a : R8) (pa : Nat), s.issuing = some w → inWindows w a.toNat → s.vloc w d.toNat = .back pa →
    let inside := s.inSlice w.part pa = true ∧ s.inSlice w.part (pa + 255) = true
    (¬ inside → exec (.vmovShort c d a) s = .next (s.takeTrap w { cause := 0x12 })) ∧
    (inside → pa % 128 = 0 → pa + 256 ≤ Config.dramBytes → w.exec ≠ 0 →
      ∃ t w', exec (.vmovShort c d a) s = .next t ∧ t.wave? w.uid = some w' ∧ w'.backed.contains d.toNat = true ∧
        (∀ l, l < 64 → laneOf (t.readV w' d.toNat) l = if w.exec.getLsbD l then laneOf (s.readV w a.toNat) l else laneOf (s.readV w d.toNat) l) ∧
        (∀ x, x < pa ∨ pa + 256 ≤ x → memByte t.mem x = memByte s.mem x) ∧ t.rf = s.rf)) ∧
  (∀ (s : State) (w : Wave) (c : Bool) (d a : R8) (pa : Nat), s.issuing = some w → inWindows w d.toNat → s.vloc w a.toNat = .back pa →
    s.inSlice w.part pa = true → s.inSlice w.part (pa + 255) = true → w.backed.contains a.toNat = true →
    let bad (l : Nat) : Bool := s.lineBad ((pa + 4 * l) / 128)
    ((∀ l, l < 64 → bad l = false) → pa % 128 = 0 → ∃ t, exec (.vmovShort c d a) s = .next t ∧ t.mem = s.mem ∧
      lanesBecome s t w w.exec false d.toNat (fun l => laneOf (s.readV w a.toNat) l)) ∧
    (∀ l, l < 64 → bad l = true → (∀ k, k < l → bad k = false) → pa % 128 = 0 → exec (.vmovShort c d a) s =
      .next (s.takeTrap w { cause := 0x0C, addr := BitVec.ofNat 64 (pa + 4 * l), lanes := maskWhere bad, detail := l, classed := false,
                            lines := (linesOf pa 256).filter s.lineBad })))

/-! ### Memory -/

/-- R236, R244: how one lane's access is resolved: range, then alignment, then its translation, its permission, and a page that
must wait. The model's choices in it: log entry 11. -/
def Obligations.AccessResolutionOrder : Prop :=
  ∀ (s : State) (v : View) (l a align pg : Nat) (p : Page) (write : Bool), l < 64 →
    let at_ (cause fsub : Nat) (walks : List Nat) : Resolved :=
      .trap { cause := cause, fsub := fsub, addr := BitVec.ofNat 64 a, lanes := (1 : LaneMask) <<< l, detail := l, walks := walks }
    let r := s.resolve v [(l, a)] align write noDeny
    (2 ^ 57 ≤ a → r = at_ 0x09 2 []) ∧
    (a < 2 ^ 57 → a % align ≠ 0 → r = at_ 0x08 0 []) ∧
    (a < 2 ^ 57 → a % align = 0 → s.translate v a = .invalid → r = at_ 0x09 0 [a]) ∧
    (a < 2 ^ 57 → a % align = 0 → s.translate v a = .failed → r = at_ 0x09 1 [a]) ∧
    (a < 2 ^ 57 → a % align = 0 → s.translate v a = .outside → r = at_ 0x0A 0 [a]) ∧
    (a < 2 ^ 57 → a % align = 0 → s.translate v a = .ok p → write = true → p.w = false → r = at_ 0x0A 0 [a]) ∧
    (a < 2 ^ 57 → a % align = 0 → s.translate v a = .miss pg → r = .wait [pg]) ∧
    (a < 2 ^ 57 → a % align = 0 → s.translate v a = .ok p → (write = true → p.w = true) → r = .ok [{ lane := l, va := a, page := p }])

/-- R264, R257, R155, R313, R315: a scalar load of plain DRAM goes out as one LD operation that will write what its core sees there,
and a scalar store puts its bytes where the core's own next load finds them; neither writes a register now, and a store that
releases nothing changes no byte of memory at a home while its L1 has room. A store that releases, by its order or by a pending fence,
is at its home, and the core is a holder there for every line that it leaves dirty. The model's choices in it: log entry 9. -/
def Obligations.ScalarLoadStoreResults : Prop :=
  ∀ (s : State) (w : Wave) (c : Bool) (p : MF) (pg : Page), s.issuing = some w →
    let a := globalAddr w (s.readV w) p (MF.disp p) 0
    let n := MF.size p
    (Plain s w a n false pg → ∃ t, exec (.sld c p) s = .next t ∧
      wentOut s t w (some .LD) (.regs ((loadedWords p.width (seen (reached s w 0 a pg) w.core pg n (p.order = 1 && p.scope != 0))).mapIdx
        (fun i x => .s (p.vt.toNat + i) x))) ∧
      t.wave? w.uid = some (w.advance 2 c .L) ∧ t.rf = s.rf) ∧
    let scope := w.releaseScope p.order p.scope
    let bytes : List Byte := ((runFrom p.vt.toNat (regsOf p.width)).flatMap (fun r => toBytes 4 (w.rs r).toNat)).take n
    (Plain s w a n true pg → (scope ≠ 0 → s.releaseHeld w.core (pg.pa / 128) scope = false) → (5 ≤ scope → s.peerWritesOut w [] = false) →
      ∃ t, exec (.sst c p) s = .next t ∧ wentOut s t w (some .ST) .store ∧ t.wave? w.uid = some ((fenceless w true).advance 2 c .L) ∧ t.rf = s.rf ∧
      (scope = 0 → pg.nol1 = false → (s.l1.filter (fun x => x.core == w.core)).length < 2048 ∨ (s.l1Find w.core (pg.pa / 128)).isSome = true →
        coreView t w.core pg.pa n = bytes ∧ ∀ x, memByte t.mem x = memByte s.mem x) ∧
      (scope = 0 → pg.nol1 = true → memBytes t.mem pg.pa n = bytes ∧
        (s.l1Find w.core (pg.pa / 128) = none → ∀ x, x < pg.pa ∨ pg.pa + n ≤ x → memByte t.mem x = memByte s.mem x)) ∧
      (scope ≠ 0 → memBytes t.mem pg.pa n = bytes ∧ ∀ l x, l ≠ pg.pa / 128 → t.l1Find w.core l = some x → x.dirty ≠ 0 →
        ∃ h ∈ t.holders, h.line = pg.pa / 128 ∧ h.core = w.core ∧ l ∈ h.released))

/-- R263, R256, R265, R266: the lane loads: with every active lane's access resolved, not held up and not poisoned, `ld` goes
out as one LD operation for its run of registers in the active lanes; `ldp` and `lds16` do so with scratchpad bytes. The model's choices in it: log entry 9. -/
def Obligations.LaneLoadResults : Prop :=
  ∀ (s : State) (w : Wave) (c : Bool) (p : MF) (accs : List Acc) (ks : List (Nat × Nat × Nat)), s.issuing = some w → (∀ n, n < 256 → inWindows w n) →
    p.vt.toNat + 4 ≤ 256 →
    let act := w.active p.km.toNat
    let n := MF.size p
    let out (t : State) (res : List (Nat × List Word)) : Prop :=
      wentOut s t w (some .LD) (.regs (vecWrites p.vt.toNat (regsOf p.width) act res)) ∧ t.wave? w.uid = some (w.advance 2 c .L) ∧ t.rf = s.rf
    (s.resolve w.view ((lanesOf act).map (fun l => (l, globalAddr w (s.readV w) p (MF.disp p) l))) n false noDeny = .ok accs →
      s.loadBlocked w.core n p.order accs = false → (s.reach w accs true).poisonTrap w.core accs = none →
      ∃ t, exec (.ld c p) s = .next t ∧
        out t (((s.reach w accs true).loadAll w.core n p.order p.scope accs).2.map (fun e => (e.1, loadedWords p.width e.2)))) ∧
    (s.spadLanes w ((lanesOf act).map (fun l => (l, spadAddr w (s.readV w) p (MF.disp p) l))) n = .inr ks → s.spadPoisonTrap n ks = none →
      ∃ t, exec (.ldp c p) s = .next t ∧ (p.order ≠ 1 → t.mem = s.mem) ∧ t.scratch = s.scratch ∧
        out t (ks.map (fun e => (e.1, loadedWords p.width (s.spadBytes e.2.2 n))))) ∧
    (let offset (l : Nat) : Int := if p.voff = 0xFF then (l : Int) else (laneOf (s.readV w p.voff.toNat) l).toInt;
      s.spadLanes w ((lanesOf act).map (fun l =>
        (l, (((w.rs p.sbase.toNat).toNat + 2 * offset l + p.imm.toInt : Int) % 2 ^ 32).toNat / 2 * 2))) 1 = .inr ks → s.spadPoisonTrap n ks = none →
      ∃ t, exec (.lds16 c p) s = .next t ∧ (p.order ≠ 1 → t.mem = s.mem) ∧ t.scratch = s.scratch ∧
        out t (ks.map (fun e => (e.1, loadedWords p.width (s.spadBytes e.2.2 n)))))

/-- R263, R260, R265, R331: the lane stores: `st` hands each lane's bytes to the memory system, where the core's own loads find every
byte that no higher lane overlaps; `stp` puts each lane's bytes at its scratchpad key, a higher lane's over a lower one's, and changes
no other byte of any scratchpad and no byte of memory. The model's choices in it: log entry 9. -/
def Obligations.LaneStoreResults : Prop :=
  ∀ (s : State) (w : Wave) (c : Bool) (p : MF) (accs : List Acc) (ks : List (Nat × Nat × Nat)), s.issuing = some w → (∀ n, n < 256 → inWindows w n) →
    p.vt.toNat + 4 ≤ 256 →
    let n := MF.size p
    let bytes (l : Nat) : List Byte := ((runFrom p.vt.toNat (regsOf p.width)).flatMap (fun r => toBytes 4 (laneOf (s.readV w r) l).toNat)).take n
    let scope := w.releaseScope p.order p.scope
    let stored := (s.reach w accs false).storeAll w scope (accs.map (fun e => (e, bytes e.lane)))
    (s.resolve w.view ((lanesOf (w.active p.km.toNat)).map (fun l => (l, globalAddr w (s.readV w) p (MF.disp p) l))) n true noDeny = .ok accs →
      s.writeBlocked w scope accs = false →
      ∃ t, exec (.st c p) s = .next t ∧ wentOut s t w (some .ST) .store ∧ t.wave? w.uid = some ((fenceless w (accs != [])).advance 2 c .L) ∧ t.rf = s.rf ∧
        t.l1 = stored.l1 ∧ t.mem = stored.mem ∧ t.holders = stored.holders ∧
        (scope = 0 → (∀ e ∈ accs, e.page.nol1 = false) → (s.l1.filter (fun x => x.core == w.core)).length + accs.length ≤ 2048 →
          ((∀ e ∈ accs, e.page.pa % 128 + n ≤ 128) → viewed t w.core n (accs.map (fun e => (e, bytes e.lane)))) ∧ ∀ x, memByte t.mem x = memByte s.mem x)) ∧
    (s.spadLanes w ((lanesOf (w.active p.km.toNat)).map (fun l => (l, spadAddr w (s.readV w) p (MF.disp p) l))) n = .inr ks →
      s.clobberTrap n ks = none → (ks ≠ [] → s.spadBlocked w scope = false) →
      ∃ t, exec (.stp c p) s = .next t ∧ wentOut s t w (some .ST) .store ∧ t.wave? w.uid = some ((fenceless w (ks != [])).advance 2 c .L) ∧ t.rf = s.rf ∧
        (scope < 5 → ∀ x, memByte t.mem x = memByte s.mem x) ∧
        (∀ k, (∀ e ∈ ks, k < e.2.2 ∨ e.2.2 + n ≤ k) → kvGet 0 t.scratch k = kvGet 0 s.scratch k) ∧
        keyed t n (ks.map (fun e => (e.2.2, bytes e.1))))

/-- R241, R242, R267: with a valid record and every element's access resolved, `ldt` goes out as one LD operation that will
write its run of registers, and `stt` as one ST operation, from scratchpad and from memory; `stt` stores the low bytes of element b from
lane b mod 64 of its register b div 64, a higher element's over a lower one's, and no other byte changes. The model's choices in it: log entries 9, 28. -/
def Obligations.TileLoadStoreResults : Prop :=
  ∀ (s s1 : State) (w : Wave) (p : TF) (r : Layout) (ks : List (Nat × Nat × Nat)) (accs : List Acc), s.issuing = some w →
    (∀ n, n < 256 → inWindows w n) →
    s.readLayout w (w.pair p.tb.toNat).toNat (some p.nd.toNat) false = (s1, .ok r) → r.count ≤ 2048 → p.ta.toNat + tileRegs r ≤ 256 → r.ty ≠ 11 →
    let act := w.active p.km.toNat
    let els := tileElements r (w.coords p.tc.toNat p.nd.toNat) act
    let size := elemBytes r.ty
    let bytesOf (b : Nat) : List Byte := toBytes size (laneOf (s1.readV w (p.ta.toNat + b / 64)) (b % 64)).toNat
    let loads (bytes : List (List Byte)) : OpKind :=
      .regs (tileWrites p.ta.toNat r act p.z ((els.zip bytes).map (fun e => (e.1.1, extendField r.ty (leNat e.2)))))
    let out (t : State) (cls : Cls) (kind : OpKind) (wrote : Bool) : Prop :=
      (∃ o ∈ t.ops, o.id = s1.nextOp ∧ o.uid = w.uid ∧ o.cls = some cls ∧ o.kind = kind) ∧
      ∃ w', s1.wave? w.uid = some w' ∧ t.wave? w.uid = some ((fenceless w' wrote).advance 3 false .L)
    let scope := w.releaseScope p.order p.scope
    (r.sp = true → s1.spadLanes w (els.map (fun e => (e.2.1, e.2.2))) 1 = .inr ks →
      (s1.spadPoisonTrap size ks = none → ∃ t, exec (.ldt p) s = .next t ∧ t.scratch = s1.scratch ∧ (p.order ≠ 1 → t.mem = s1.mem) ∧
        out t .LD (loads (ks.map (fun e => s1.spadBytes e.2.2 size))) false) ∧
      (s1.clobberTrap size ks = none → (ks ≠ [] → s1.spadBlocked w scope = false) → ∃ t, exec (.stt p) s = .next t ∧ out t .ST .store (ks != []) ∧
        (scope < 5 → t.mem = s1.mem) ∧
        keyed t size ((ks.zip els).map (fun e => (e.1.2.2, bytesOf e.2.1))) ∧
        (∀ k, (∀ e ∈ ks, k < e.2.2 ∨ e.2.2 + size ≤ k) → kvGet 0 t.scratch k = kvGet 0 s1.scratch k))) ∧
    (r.sp = false → s1.resolve w.view (els.map (fun e => e.2)) 1 false noDeny = .ok accs → s1.loadBlocked w.core size p.order accs = false →
      (s1.reach w accs true).poisonTrap w.core accs = none → ∃ t, exec (.ldt p) s = .next t ∧ t.scratch = s1.scratch ∧
        out t .LD (loads (((s1.reach w accs true).loadAll w.core size p.order p.scope accs).2.map Prod.snd)) false) ∧
    (r.sp = false → s1.resolve w.view (els.map (fun e => e.2)) 1 true noDeny = .ok accs → s1.writeBlocked w scope accs = false →
      let ws := (accs.zip els).map (fun e => (e.1, bytesOf e.2.1))
      let stored := (s1.reach w accs false).storeAll w scope ws
      ∃ t, exec (.stt p) s = .next t ∧ out t .ST .store (accs != [] && els != []) ∧ t.scratch = s1.scratch ∧
        t.l1 = stored.l1 ∧ t.mem = stored.mem ∧ t.holders = stored.holders ∧
        (scope = 0 → (∀ e ∈ accs, e.page.nol1 = false) → (s1.l1.filter (fun x => x.core == w.core)).length + accs.length ≤ 2048 →
          ((∀ e ∈ accs, e.page.pa % 128 + size ≤ 128) → viewed t w.core size ws) ∧ ∀ x, memByte t.mem x = memByte s1.mem x))

/-- R272, R252, R260: a relaxed atomic of one active lane on plain DRAM: once the core's own dirty bytes of the line are home, the word
there becomes the operation's new value, no other byte of memory changes, and with RET the old value is on its way to the register.
The lanes of an `add` group are applied in ascending order: the sum, each lane's running sum before it, and the example of R272. The model's choices in it: log entry 9. -/
def Obligations.AtomicResults : Prop :=
  (∀ (s : State) (w : Wave) (c : Bool) (p : MF) (l : Nat) (pg : Page), s.issuing = some w → (∀ n, n < 256 → inWindows w n) → p.vt.toNat + 4 ≤ 256 →
    lanesOf (w.active p.km.toNat) = [l] → p.aSp = false → p.aRa = false → p.order = 0 → w.fence = 0 → p.aop.toNat ≤ 11 → p.aop.toNat ≠ 10 →
    p.width = 2 ∨ p.width = 3 →
    let n := MF.size p
    let rd := s.readV w
    Plain s w (globalAddr w rd p 0 l) n true pg →
    let home := (reached s w l (globalAddr w rd p 0 l) pg).homeTake w.core (pg.pa / 128)
    let old := leNat (home.homeBytes pg.pa n)
    let new := atomic p.aop.toNat (8 * n) old (operandAt rd p.vt.toNat (regsOf p.width) l) (operandAt rd (p.vt.toNat + regsOf p.width) (regsOf p.width) l)
    ∃ t, exec (.atom c p) s = .next t ∧ leNat (t.homeBytes pg.pa n) = new ∧
      (∀ x, x < pg.pa ∨ pg.pa + n ≤ x → memByte t.mem x = memByte home.mem x) ∧
      (p.aRet = true → wentOut s t w (some .LD) (.regs (vecWrites p.vt.toNat (regsOf p.width) (w.active p.km.toNat) [(l, wordsFrom (regsOf p.width) (toBytes n old))]))) ∧
      (p.aRet = false → wentOut s t w (some .ST) .store)) ∧
  ((∀ (n m : Nat) (ls : List AtomLane), m < 2 ^ n →
    let r := atomGroup 0 n m false ls
    r.1 = (m + (ls.map (·.x)).sum) % 2 ^ n ∧ r.2.2.map Prod.fst = ls.map (·.lane) ∧
    ∀ i, i < ls.length → (r.2.2.map Prod.snd).getD i 0 = (m + ((ls.take i).map (·.x)).sum) % 2 ^ n) ∧
  (atomGroup 0 32 100 false [⟨0, 5, 0⟩, ⟨2, 1, 0⟩, ⟨3, 10, 0⟩] = (116, true, [(0, 100), (2, 105), (3, 106)]) ∧
  atomGroup 0 32 20 false [⟨1, 7, 0⟩] = (27, true, [(1, 20)])))

/-- R74, R75, R273, R274, R279: `chunk` hands out the next chunk of its record, and an exhausted record is left alone; `hinc` of one
active lane raises its bin's count by its increment; no other byte of memory changes, and the wave seals. The model's choices in it: log entries 9, 28. -/
def Obligations.ChunkResults : Prop :=
  (∀ (s : State) (w : Wave) (c : Bool) (d a : R8) (pg : Page), s.issuing = some w → w.fence = 0 →
    let addr := (w.pair a.toNat).toNat
    Plain s w addr 32 true pg →
    let home := (reached s w 0 addr pg).homeTake w.core (pg.pa / 128)
    let rec_ := leNat (home.homeBytes pg.pa 32)
    let next := rec_ % 2 ^ 64
    let fin := rec_ / 2 ^ 64 % 2 ^ 64
    let parts := max (rec_ / 2 ^ 128 % 2 ^ 32) 1
    let least := rec_ / 2 ^ 160 % 2 ^ 32
    let size := if fin ≤ next then 0 else min (max least ((fin - next + 2 * parts - 1) / (2 * parts))) (fin - next)
    ∃ t, exec (.chunk c d a) s = .next t ∧
      wentOut s t w (some .LD) (.regs ((wordsFrom 4 (toBytes 8 next ++ toBytes 8 size)).mapIdx (fun i x => .s (d.toNat + i) x))) ∧
      t.wave? w.uid = some ((w.seal s.dtime).advance 1 c .L) ∧
      leNat (t.homeBytes pg.pa 8) = (if fin ≤ next then next else next + size) ∧
      (∀ x, x < pg.pa ∨ pg.pa + 8 ≤ x → memByte t.mem x = memByte home.mem x)) ∧
  (∀ (s s1 : State) (w : Wave) (c : Bool) (p : MF) (raw : List Byte) (bins nbins target l : Nat) (pg : Page), s.issuing = some w →
    (∀ n, n < 256 → inWindows w n) → lanesOf (w.active p.km.toNat) = [l] → w.fence = 0 →
    s.readRecord w (w.pair p.sbase.toNat).toNat 128 128 denyPeer = .ok s1 raw → parseHist raw = some (bins, nbins, 0, target) →
    let bin := (laneOf (s.readV w p.vt.toNat) l).toNat
    let inc := if p.voff = 0xFF then 1 else (laneOf (s.readV w p.voff.toNat) l).toNat
    bin < nbins → Plain s1 w (bins + 4 * bin) 4 true pg →
    let home := (reached s1 w l (bins + 4 * bin) pg).homeTake w.core (pg.pa / 128)
    ∃ t, exec (.hinc c p) s = .next t ∧ leNat (t.homeBytes pg.pa 4) = (leNat (home.homeBytes pg.pa 4) + inc) % 2 ^ 32 ∧
      (∀ x, x < pg.pa ∨ pg.pa + 4 ≤ x → memByte t.mem x = memByte home.mem x) ∧
      (∃ o, t.ops = s1.ops ++ [o] ∧ o.cls = some .ST ∧ o.kind = .store) ∧
      (∃ w1, s1.wave? w.uid = some w1 ∧ t.wave? w.uid = some ((fenceless (w1.seal s1.dtime) true).advance 2 c .L)))

/-- R275 to R278: on plain DRAM `ldv` reads the data and the line's version; `casv` writes and bumps the version where the
version is the expected one, and otherwise only reports it; `valset` and `valst` on a set of one line answer 0 when the version matches, where
`valst` stores, and 1, the entry's number, when it does not, where nothing is stored. The model's choices in it: log entry 9. -/
def Obligations.VersionedResults : Prop :=
  (∀ (s : State) (w : Wave) (c : Bool) (p : MF) (l : Nat) (pg : Page), s.issuing = some w → (∀ n, n < 256 → inWindows w n) → p.vt.toNat + 6 ≤ 256 →
    lanesOf (w.active p.km.toNat) = [l] → p.order = 0 → w.fence = 0 →
    let n := regsOf p.width
    let rd := s.readV w
    MF.size p = 4 * n →
    let home := (reached s w l (globalAddr w rd p (MF.disp p) l) pg).homeTake w.core (pg.pa / 128)
    let v := home.version (pg.pa / 128)
    let want : BitVec 48 := BitVec.ofNat 48 (operandAt rd (p.vt.toNat + n) 2 l)
    (Plain s w (globalAddr w rd p (MF.disp p) l) (4 * n) false pg → ∃ t, exec (.ldv c p) s = .next t ∧ t.mem = home.mem ∧ wentOut s t w (some .LD) (.regs (vecWrites p.vt.toNat (n + 2) (w.active p.km.toNat)
        [(l, wordsFrom n (home.homeBytes pg.pa (4 * n)) ++ [v.truncate 32, (v >>> (32 : Nat)).truncate 32])]))) ∧
    (Plain s w (globalAddr w rd p (MF.disp p) l) (4 * n) true pg → (laneOf (rd (p.vt.toNat + n + 1)) l).toNat < 2 ^ 16 →
      ∃ t, exec (.casv c p) s = .next t ∧
        (v = want → leNat (t.homeBytes pg.pa (4 * n)) = operandAt rd p.vt.toNat n l ∧ t.version (pg.pa / 128) = v + 1 ∧
          wentOut s t w (some .LD) (.regs (vecWrites (p.vt.toNat + n) 2 (w.active p.km.toNat)
            [(l, [(v + 1).truncate 32, 0x80000000 ||| ((v + 1) >>> (32 : Nat)).truncate 32])]))) ∧
        (v ≠ want → t.mem = home.mem ∧ t.version (pg.pa / 128) = v ∧
          wentOut s t w (some .LD) (.regs (vecWrites (p.vt.toNat + n) 2 (w.active p.km.toNat) [(l, [v.truncate 32, (v >>> (32 : Nat)).truncate 32])]))))) ∧
  (∀ (s : State) (w : Wave) (c : Bool) (d a sv : R8) (key k1 saddr va v : Nat) (pg dst : Page), s.issuing = some w → w.fence = 0 →
    let o := (w.rs a.toNat).toNat
    o % 16 = 0 → s.spadTarget w o = some key → s.spadTarget w (o + 16) = some k1 →
    leNat (s.spadBytes key 16) = 1 + saddr * 2 ^ 64 → leNat (s.spadBytes k1 16) = va + v * 2 ^ 64 → va < 2 ^ 57 → v < 2 ^ 48 → saddr < 2 ^ 57 →
    saddr % 4 = 0 →
    (∀ x, kvGet false s.spadPoison x = false) → Plain s w va 1 false pg →
    let home := (reached s w 0 va pg).homeTake w.core (pg.pa / 128)
    let set (status : Word) : Prop := ∃ t, exec (.valset c d a) s = .next t ∧ wentOut s t w (some .LD) (.regs [.s d.toNat status]) ∧
      t.wave? w.uid = some (w.advance 2 c .L) ∧ t.mem = home.mem
    (home.version (pg.pa / 128) = BitVec.ofNat 48 v → set 0) ∧ (home.version (pg.pa / 128) ≠ BitVec.ofNat 48 v → set 1) ∧
    (Plain s w saddr 4 true dst → s.releaseHeld w.core (dst.pa / 128) 4 = false →
      let both := (distinct [pg.pa / 128, dst.pa / 128]).foldl (fun s l => s.homeTake w.core l)
        (s.reach w [{ lane := 0, va := va, page := pg }, { lane := 0, va := saddr, page := dst }] true)
      let store (status : Word) (stored : State → Prop) : Prop := ∃ t, exec (.valst c d a sv) s = .next t ∧
        wentOut s t w (some .LD) (.regs [.s d.toNat status]) ∧ t.wave? w.uid = some ((w.seal s.dtime).advance 2 c .L) ∧ stored t
      (both.version (pg.pa / 128) = BitVec.ofNat 48 v → store 0 (fun t => leNat (t.homeBytes dst.pa 4) = (w.rs sv.toNat).toNat)) ∧
      (both.version (pg.pa / 128) ≠ BitVec.ofNat 48 v → store 1 (fun t => t.mem = both.mem ∧ t.homeBytes dst.pa 4 = both.homeBytes dst.pa 4))))

/-- R281, R280: prefetches only warm caches: registers and the wave's state stay, and memory where no holder is recalled and the caches
have room;
`cwb` and `cinv` leave no dirty byte of the lines they name in the core's L1, what was dirty there of device DRAM being at its home, and `waitc` goes
on when the counters allow, and parks while one of them exceeds its bound. The model's choices in it: log entries 9, 29. -/
def Obligations.CacheControlResults : Prop :=
  ∀ (s : State) (w : Wave) (c : Bool) (a : R8) (n : Half) (nl ns nc nm : BitVec 6) (accs : List Acc), s.issuing = some w →
    let room : Prop := s.holders = [] ∧ s.l1.length + n.toNat ≤ 2048 ∧ s.proxy.length + n.toNat ≤ 524288
    (∃ t, exec (.prefL1 c a n) s = .next t ∧ t.wave? w.uid = some (w.advance 2 c .L) ∧ t.rf = s.rf ∧ t.ops = s.ops ∧ (room → t.mem = s.mem)) ∧
    (∃ t, exec (.prefL2 c a n) s = .next t ∧ t.wave? w.uid = some (w.advance 2 c .L) ∧ t.rf = s.rf ∧ t.ops = s.ops ∧ (room → t.mem = s.mem)) ∧
    (s.resolve w.view ((List.range n.toNat).map (fun i => (0, (w.pair a.toNat).toNat / 128 * 128 + 128 * i))) 1 false noDeny = .ok accs →
      (∀ g ∈ accs, s.owned (g.page.pa / 128) = false) →
      -- The dirty bytes of the lines named are at their homes.
      let home (t : State) : Prop := s.proxy.length + n.toNat ≤ 524288 → ∀ g ∈ accs, ∀ x i, s.l1Find w.core (g.page.pa / 128) = some x → i < 128 →
        x.dirty.getLsbD i = true → (g.page.pa / 128 + 1) * 128 ≤ Config.dramBytes → memByte t.mem (g.page.pa / 128 * 128 + i) = x.data.getD i 0
      (∃ t, exec (.cwb c a n) s = .next t ∧ wentOut s t w (some .ST) .store ∧ t.wave? w.uid = some (w.advance 2 c .L) ∧ home t ∧
        ∀ g ∈ accs, ∀ x, t.l1Find w.core (g.page.pa / 128) = some x → x.dirty = 0) ∧
      (∃ t, exec (.cinv c a n) s = .next t ∧ wentOut s t w (some .ST) .store ∧ t.wave? w.uid = some (w.advance 2 c .L) ∧ home t ∧
        ∀ g ∈ accs, t.l1Find w.core (g.page.pa / 128) = none)) ∧
    (nl.toNat < s.classCount w.uid .LD ∨ ns.toNat < s.classCount w.uid .ST ∨ nc.toNat < s.classCount w.uid .CP ∨ nm.toNat < s.classCount w.uid .MM →
      ∃ t, exec (.waitc c nl ns nc nm) s = .next t ∧
        leaves t w.uid (fun w' => w'.life = .parked (.counters nl.toNat ns.toNat nc.toNat nm.toNat) ∧ w'.pc = w.pc)) ∧
    (s.classCount w.uid .LD ≤ nl.toNat → s.classCount w.uid .ST ≤ ns.toNat → s.classCount w.uid .CP ≤ nc.toNat → s.classCount w.uid .MM ≤ nm.toNat →
      exec (.waitc c nl ns nc nm) s = becomes s (w.advance 2 c .L))

/-! ### Copies and what lands -/

/-- R268 to R271: `cpy` with scalar or vector operands goes out as one CP operation for the addresses and length of its operands,
the lowest active lane's with V, and with no lane active with nothing to copy; `cpyt` with two valid records of one type and one
element count does so for its boxes. The model's choices in it: log entry 31. -/
def Obligations.CopyIssues : Prop :=
  (∀ (s : State) (w : Wave) (p : A3) (done : Completion), s.issuing = some w → w.completion p.cm p.ct = some done → s.flushHeld w.core = false →
    let v := p.fl.getLsbD 0
    (v = true → ∀ n ∈ [p.aa.toNat, p.aa.toNat + 1, p.ab.toNat, p.ab.toNat + 1, p.ac.toNat], inWindows w n) →
    let lanes := w.exec &&& w.rk (p.fl.toNat / 2)
    let dsp := p.imm.getLsbD 0
    let ssp := p.imm.getLsbD 1
    let pairAt (r : R8) (l : Nat) : Nat := (if v then pairOf (laneOf (s.readV w r.toNat) l) (laneOf (s.readV w (r.toNat + 1)) l) else w.pair r.toNat).toNat
    let cut (sp : Bool) (a : Nat) : Nat := if sp then a % 2 ^ 32 else a
    ∃ t kind, exec (.cpy p) s = .next t ∧ sent s t w (some .CP) kind done ∧ t.wave? w.uid = some (w.advance 3 false .A) ∧ t.rf = s.rf ∧
      (lanes = 0 → kind = .copy 0 0 0 dsp ssp) ∧
      (∀ l, lowestLane lanes = some l → kind = .copy (cut dsp (pairAt p.aa l)) (cut ssp (pairAt p.ab l))
        (if v then laneOf (s.readV w p.ac.toNat) l else w.rs p.ac.toNat).toNat dsp ssp)) ∧
  (∀ (s s1 s2 : State) (w : Wave) (p : TF) (done : Completion) (src dst : Layout) (accs : List Acc), s.issuing = some w → w.completion p.cm p.ct = some done →
    s.resolveAll w.view [(0, w.recordAt p.tb, false, noDeny), (0, w.recordAt p.ta, false, noDeny)] 128 = .ok accs → s2.flushHeld w.core = false →
    s.readLayout w (w.recordAt p.tb) (some p.nd.toNat) false = (s1, .ok src) → s1.readLayout w (w.recordAt p.ta) (some p.nd.toNat) false = (s2, .ok dst) →
    src.ty = dst.ty → src.ty ≠ 11 → src.count = dst.count → w.active p.km.toNat ≠ 0 →
    ∃ t, exec (.cpyt p) s = .next t ∧
      sent s2 t w (some .CP) (.box dst src (w.coords p.td.toNat p.nd.toNat) (w.coords p.tc.toNat p.nd.toNat)) done ∧ t.rf = s2.rf ∧
      ∃ w2, s2.wave? w.uid = some w2 ∧ t.wave? w.uid = some (w2.advance 3 false .A))

/-- R255, R268 to R270: COPY_COMPLETE performs a copy between two pieces of DRAM: the destination holds the source's bytes, no
other byte of memory changes but by the recall of the source line's holders, the operation is over, and a token or a semaphore
of the wave reports it. The model's choices in it: log entry 34. -/
def Obligations.CopyCompletes : Prop :=
  ∀ (s : State) (o : Op) (w : Wave) (d a len : Nat) (pd ps : Page), s.op? s.input.op = some o → o.waits = [] → o.packet = none → o.pins = [] →
    o.dropped = false → s.portLost o.id = false → o.kind = .copy d a len false false → s.copyBehind o = false → s.wave? o.uid = some w →
    w.leaving = false → s.feeds = [] → 0 < len → (∀ b ∈ s.blocks, b.pend = []) →
    EnginePage s o d len true pd → EnginePage s o a len false ps →
    let home := s.recall (ps.pa / 128) none
    ∃ t, exec .copyComplete s = .next t ∧ t.op? o.id = none ∧
      (∀ i, i < len → memByte t.mem (pd.pa + i) = memByte home.mem (ps.pa + i)) ∧
      (∀ x, x < pd.pa ∨ pd.pa + len ≤ x → memByte t.mem x = memByte home.mem x) ∧
      (∀ r, o.done = .token r → ∃ w', t.wave? o.uid = some w' ∧ w'.rs r = 0 ∧ w'.rs (r + 1) = BitVec.ofNat 32 len) ∧
      (∀ n, o.done = .semOne n → s.semWaiters w.core w.cx (w.semKey n) = [] → t.sem (w.semKey n) = s.sem (w.semKey n) + 1) ∧
      (∀ n, o.done = .semBytes n → s.semWaiters w.core w.cx (w.semKey n) = [] →
        t.sem (w.semKey n) = s.sem (w.semKey n) + BitVec.ofNat 32 len)

/-- R155, R259, R376: a landing operation's value reaches its register, in the lanes it names, and the operation is over; for a wave that
leaves its core nothing lands; a store whose effect is applied is over, and changes neither registers nor memory. The model's choices in it: log entry 9. -/
def Obligations.LandingResults : Prop :=
  ∀ (s : State) (o : Op) (w : Wave) (n : Nat) (x : Word) (v : VReg) (lanes m : LaneMask), s.op? s.input.op = some o → o.waits = [] →
    s.portLost o.id = false → o.dropped = false → o.moved = [] → s.wave? o.uid = some w → s.blocks = [] → s.feeds = [] →
    (∀ ws, o.kind = .regs ws → w.leaving = true → exec .asyncWriteLands s = .next s) ∧
    (o.kind = .regs [.s n x] → w.leaving = false → ∃ t w', exec .asyncWriteLands s = .next t ∧ t.op? o.id = none ∧ t.wave? o.uid = some w' ∧ w'.rs n = x ∧
      (∀ r, r ≠ n → w'.rs r = w.rs r) ∧ t.mem = s.mem ∧ t.rf = s.rf) ∧
    (o.kind = .regs [.k n lanes m] → n ≠ 0 → w.leaving = false → ∃ t w', exec .asyncWriteLands s = .next t ∧ t.op? o.id = none ∧ t.wave? o.uid = some w' ∧
      (∀ l, l < 64 → (w'.rk n).getLsbD l = if lanes.getLsbD l then m.getLsbD l else (w.rk n).getLsbD l) ∧ t.mem = s.mem ∧ t.rf = s.rf) ∧
    (o.kind = .regs [.v n lanes v] → inWindows w n → w.leaving = false → ∃ t w', exec .asyncWriteLands s = .next t ∧ t.op? o.id = none ∧ t.wave? o.uid = some w' ∧
      (∀ l, l < 64 → laneOf (t.readV w' n) l = if lanes.getLsbD l then laneOf v l else laneOf (s.readV w n) l) ∧ t.mem = s.mem) ∧
    (o.kind = .store → ∃ t, exec .storeApplied s = .next t ∧ t.op? o.id = none ∧ t.mem = s.mem ∧ t.rf = s.rf)

/-- R247, R253, R314: an L1 line leaves with its dirty bytes at the DRAM home; a proxy line leaves with its dirty bytes in host
memory and FLOOR above its version, an RDC's copy without more; a translation answer ends the waits for its page, a refusal ends
them with the page refused; an invalidation removes the translation and is answered when no L1 holds a store. The model's choices in it: log entry 47. -/
def Obligations.EvictionAndTranslationEvents : Prop :=
  ∀ (s : State), let c := s.input.core; let line := s.input.addr
    (∀ x, s.l1Find c line = some x → s.owned line = false → (line + 1) * 128 ≤ Config.dramBytes →
      ∃ t, exec .l1Evict s = .next t ∧ t.l1Find c line = none ∧
        (∀ i, i < 128 → memByte t.mem (line * 128 + i) = if x.dirty.getLsbD i then x.data.getD i 0 else memByte s.mem (line * 128 + i)) ∧
        (∀ y, y / 128 ≠ line → memByte t.mem y = memByte s.mem y)) ∧
    (∀ p, s.holders = [] → s.input.slot = 0 → s.owned line = false → s.proxy.find? (·.line == line) = some p →
      ∃ t, exec .l2Evict s = .next t ∧ t.proxy.find? (·.line == line) = none ∧
        (∀ i, i < 128 → memByte t.mem (line * 128 + i) = if p.dirty.getLsbD i then p.data.getD i 0 else memByte s.mem (line * 128 + i)) ∧
        (∀ y, y / 128 ≠ line → memByte t.mem y = memByte s.mem y) ∧ t.floor line = max (s.floor line) ((p.version + 1) % 2 ^ 48)) ∧
    (s.input.slot ≠ 0 → ∃ t, exec .l2Evict s = .next t ∧ t.mem = s.mem ∧ ∀ x ∈ t.rdc, ¬ (x.die = s.input.slot - 1 ∧ x.line = line)) ∧
    (∀ (g : PageGrant) (v : View), s.input.grant = some g → v.sp.pv = true → v.sp.pasid = s.input.fn → ∃ t, exec .pageResponse s = .next t ∧
      t.translate v (s.input.addr * 4096) = .ok { pa := Config.sysBase + g.hostPage * 4096 % 2 ^ 55, w := g.w, x := g.x, nol1 := false, pin := false } ∧
      (∀ w, s.feeds = [] → s.queues = [] → s.wave? w.uid = some w → w.life = .parked (.page v.sp [s.input.addr]) →
        t.wave? w.uid = some { w with life := .ready } ∧ (s.input.fn, s.input.addr) ∉ t.pageReqs)) ∧
    (∀ (w : Wave) (sp : Space), s.input.grant = none → sp.pv = true → sp.pasid = s.input.fn → s.feeds = [] → s.queues = [] → s.wave? w.uid = some w →
      w.life = .parked (.page sp [s.input.addr]) → ∃ t, exec .pageResponse s = .next t ∧ (s.input.fn, s.input.addr) ∉ t.pageReqs ∧
        t.wave? w.uid = some { w with life := .ready, refused := s.input.addr :: w.refused }) ∧
    (∀ (v : View) (va : Nat), v.sp.pv = true → v.sp.pasid = s.input.fn → s.input.op = 0 → s.input.addr ≤ va / 4096 → va / 4096 < s.input.addr + s.input.size →
      v.refused = [] → v.cp = false → ∃ t, exec .atsInvalidation s = .next t ∧ t.translate v va = .miss (va / 4096) ∧
        ((∀ x ∈ s.l1, x.dirty = 0) → (∀ o ∈ s.ops, o.kind.holdsAddress = false) → t.hostOut = (toBytes 4 s.input.fn ++ toBytes 8 s.input.addr) :: s.hostOut))

/-! ### Synchronisation -/

/-- R313, R317, R318, R336: `fence` goes on; a release stays pending for the wave's next write, at the wider of its scope and of one
already pending, and at system scope also leaves no dirty byte in the core's L1, its DRAM bytes being at their homes; an acquire
at cluster scope or wider leaves no filled line, and one that also releases at system scope no line that the L1 held once. The model's choices in it: log entry 10. -/
def Obligations.FenceResults : Prop :=
  ∀ (s : State) (w : Wave) (c : Bool) (order : BitVec 2) (scope : BitVec 3), s.issuing = some w →
    let system : Prop := order.getLsbD 1 = true ∧ scope = 5
    (system → s.flushHeld w.core = false ∧ s.peerWritesOut w [] = false) →
    ∃ t, exec (.fence c order scope) s = .next t ∧ t.rf = s.rf ∧ t.ops = s.ops ∧
      t.wave? w.uid = some ({ w with fence := if order.getLsbD 1 then max w.fence scope.toNat else w.fence }.advance 2 c .C) ∧
      (system → order.getLsbD 0 = false → ∀ line x, t.l1Find w.core line = some x → x.dirty = 0) ∧
      (system → order.getLsbD 0 = true → ∀ line, (s.l1.filter (fun x => x.core == w.core && x.line == line)).length ≤ 1 →
        t.l1Find w.core line = none) ∧
      (system → ProxiesOk s → ∀ line x i, s.l1Find w.core line = some x → i < 128 → x.dirty.getLsbD i = true →
        (line + 1) * 128 ≤ Config.dramBytes → memByte t.mem (line * 128 + i) = x.data.getD i 0) ∧
      (order.getLsbD 0 = true → 2 ≤ scope.toNat → ∀ x ∈ t.l1, x.core = w.core → x.filled = false) ∧
      (scope.toNat < 5 → t.mem = s.mem)

/-- R324 to R326: a wave in no cohort joins one with room; `leave` of a member with no arrival pending takes it out. -/
def Obligations.CohortMembership : Prop :=
  ∀ (s : State) (w : Wave) (c : Bool) (name : BitVec 6), s.issuing = some w →
    let key := w.cohortKey name.toNat
    let old := s.cohorts.find? (fun x => x.key == key)
    let members := (old.map (·.members)).getD []
    let joiners := (old.map (·.pendJoin)).getD []
    (s.cohorts.any (fun x => x.members.contains w.uid || x.pendJoin.contains w.uid) = true → exec (.join c name) s = .next (s.takeTrap w cohortTrap)) ∧
    (s.cohorts.any (fun x => x.members.contains w.uid || x.pendJoin.contains w.uid) = false → members.length + joiners.length < 256 →
      ((old.map (·.arrived)).getD [] = [] → ∃ t co, exec (.join c name) s = .next t ∧ t.wave? w.uid = some ((w.seal s.dtime).advance 2 c .C) ∧
        t.cohorts.find? (fun x => x.key == key) = some co ∧ co.members = members ++ [w.uid] ∧ co.arrived = [] ∧ co.gen = (old.map (·.gen)).getD 0) ∧
      ((old.map (·.arrived)).getD [] ≠ [] → ∃ t co w', exec (.join c name) s = .next t ∧ t.wave? w.uid = some w' ∧ w'.life = .parked (.joining key) ∧
        t.cohorts.find? (fun x => x.key == key) = some co ∧ co.members = members ∧ co.pendJoin = joiners ++ [w.uid])) ∧
    (s.cohortOf w.uid = none → exec (.leave c) s = .next (s.takeTrap w cohortTrap)) ∧
    (∀ co, s.cohortOf w.uid = some co → co.arrived = [] → s.flushHeld w.core = false → ∃ t, exec (.leave c) s = .next t ∧
      t.wave? w.uid = some ((w.seal s.dtime).advance 2 c .C) ∧ ∀ x ∈ t.cohorts, x.key = co.key → w.uid ∉ x.members)

/-- R325, R327 to R329, R338, R339: an arrival at a named group of level 1 to 3 delivers the generation; the last one completes it
and goes on; an earlier one counts, and `barrw` and the old `bar` then park; a wrong count traps COHORT; `bwait` goes on once the
generation has passed. At cohort level a wave that is no member traps COHORT; a member's arrival delivers its cohort's generation,
a second one changes nothing, and the last one completes the generation, pending leaves and then pending joins being applied. The model's choices in it: log entry 10. -/
def Obligations.BarrierGroupResults : Prop :=
  (∀ (s : State) (w : Wave) (c : Bool) (d a : R8) (lvl : BitVec 2) (name : BitVec 6), s.issuing = some w → w.life = .ready → lvl ≠ 0 →
    let key := w.groupKey lvl.toNat name.toNat
    let g := s.group key
    let count := (w.rs a.toNat).toNat
    let sealed := (w.seal s.dtime).setS d.toNat g.gen
    let bad := count = 0 ∨ (g.count ≠ 0 ∧ g.expct ≠ count)
    s.flushHeld w.core = false →
    (bad → exec (.barr c d a lvl name) s = .next (s.takeTrap w cohortTrap) ∧ exec (.barrw c d a lvl name) s = .next (s.takeTrap w cohortTrap)) ∧
    (¬ bad → g.count + 1 = count →
      (∃ t, exec (.barr c d a lvl name) s = .next t ∧ t.wave? w.uid = some (sealed.advance 2 c .C) ∧ t.group key = { key := key, gen := g.gen + 1, count := 0, expct := 0 }) ∧
      (∃ t, exec (.barrw c d a lvl name) s = .next t ∧ t.wave? w.uid = some (sealed.advance 2 c .C) ∧ t.group key = { key := key, gen := g.gen + 1, count := 0, expct := 0 })) ∧
    (¬ bad → g.count + 1 ≠ count →
      (∃ t, exec (.barr c d a lvl name) s = .next t ∧ t.wave? w.uid = some (sealed.advance 2 c .C) ∧ t.group key = { key := key, gen := g.gen, count := g.count + 1, expct := count }) ∧
      (∃ t w', exec (.barrw c d a lvl name) s = .next t ∧ t.wave? w.uid = some w' ∧ w'.life = .parked (.group key) ∧ w'.rs d.toNat = g.gen ∧
        t.group key = { key := key, gen := g.gen, count := g.count + 1, expct := count })) ∧
    (g.gen ≠ w.rs a.toNat → ∃ t, exec (.bwait c a lvl name) s = .next t ∧ t.wave? w.uid = some (w.advance 2 c .C) ∧ t.group key = g) ∧
    (g.gen = w.rs a.toNat → ∃ t w', exec (.bwait c a lvl name) s = .next t ∧ t.wave? w.uid = some w' ∧ w'.life = .parked (.group key) ∧ w'.pc = w.pc)) ∧
  (∀ (s : State) (w : Wave) (c : Bool) (name : BitVec 6) (n : Half), s.issuing = some w → w.life = .ready → s.flushHeld w.core = false →
    let key := w.groupKey 1 name.toNat
    let g := s.group key
    let bad := n = 0 ∨ (g.count ≠ 0 ∧ g.expct ≠ n.toNat)
    (bad → exec (.barOld c name n) s = .next (s.takeTrap w cohortTrap)) ∧
    (¬ bad → g.count + 1 = n.toNat → ∃ t, exec (.barOld c name n) s = .next t ∧ t.wave? w.uid = some ((w.seal s.dtime).advance 2 c .C) ∧
      t.group key = { key := key, gen := g.gen + 1, count := 0, expct := 0 }) ∧
    (¬ bad → g.count + 1 ≠ n.toNat → ∃ t w', exec (.barOld c name n) s = .next t ∧ t.wave? w.uid = some w' ∧ w'.life = .parked (.group key) ∧
      w'.s = w.s ∧ t.group key = { key := key, gen := g.gen, count := g.count + 1, expct := n.toNat })) ∧
  (∀ (s : State) (w : Wave) (c : Bool) (d a : R8) (name : BitVec 6), s.issuing = some w → w.life = .ready →
    (s.cohortOf w.uid = none → exec (.barr c d a 0 name) s = .next (s.takeTrap w cohortTrap) ∧ exec (.barrw c d a 0 name) s = .next (s.takeTrap w cohortTrap) ∧
      exec (.bwait c a 0 name) s = .next (s.takeTrap w cohortTrap)) ∧
    (∀ co, s.cohortOf w.uid = some co → s.cohorts.find? (fun x => x.key == co.key) = some co → co.key.level = 0 →
      let sealed := (w.seal s.dtime).setS d.toNat co.gen
      let now (t : State) : Option Cohort := t.cohorts.find? (fun x => x.key == co.key)
      let parks (t : State) : Prop := leaves t w.uid (fun w' => w'.life = .parked (.group co.key) ∧ w'.pc = w.pc)
      let last := co.members.all (fun u => (co.arrived ++ [w.uid]).contains u)
      (co.gen ≠ w.rs a.toNat → ∃ t, exec (.bwait c a 0 name) s = .next t ∧ t.wave? w.uid = some (w.advance 2 c .C) ∧ now t = some co) ∧
      (co.gen = w.rs a.toNat → ∃ t, exec (.bwait c a 0 name) s = .next t ∧ parks t ∧ now t = some co) ∧
      (s.flushHeld w.core = false →
        (w.uid ∈ co.arrived →
          (∃ t, exec (.barr c d a 0 name) s = .next t ∧ t.wave? w.uid = some (sealed.advance 2 c .C) ∧ now t = some co) ∧
          (∃ t, exec (.barrw c d a 0 name) s = .next t ∧ parks t ∧ leaves t w.uid (fun w' => w'.rs d.toNat = co.gen) ∧ now t = some co)) ∧
        (w.uid ∉ co.arrived → last = false → let c' := { co with arrived := co.arrived ++ [w.uid] }
          (∃ t, exec (.barr c d a 0 name) s = .next t ∧ t.wave? w.uid = some (sealed.advance 2 c .C) ∧ now t = some c') ∧
          (∃ t, exec (.barrw c d a 0 name) s = .next t ∧ parks t ∧ leaves t w.uid (fun w' => w'.rs d.toNat = co.gen) ∧ now t = some c')) ∧
        (w.uid ∉ co.arrived → last = true → w.uid ∉ co.pendLeave →
          let c' : Cohort := { co with gen := co.gen + 1, arrived := [], members := co.members.filter (fun u => !co.pendLeave.contains u) ++ co.pendJoin,
                                       pendJoin := [], pendLeave := [] }
          (∃ t, exec (.barr c d a 0 name) s = .next t ∧ t.wave? w.uid = some (sealed.advance 2 c .C) ∧ now t = some c') ∧
          (∃ t, exec (.barrw c d a 0 name) s = .next t ∧ t.wave? w.uid = some (sealed.advance 2 c .C) ∧ now t = some c')))))

/-- R330 to R332, R340: the barrier-word forms on an aligned word of the wave's scratchpad. The model's choices in it: log entry 10. -/
def Obligations.BarrierWordResults : Prop :=
  ∀ (s : State) (w : Wave) (c : Bool) (d a sb : R8) (expected : Half) (key : Nat), s.issuing = some w → w.life = .ready →
    s.barrierWord w (w.rs a.toNat).toNat = .inr key →
    let v := s.wordAt key
    let flags := v / 2 ^ 48
    let gen := v / 2 ^ 32 % 2 ^ 16
    let want := v / 2 ^ 16 % 2 ^ 16
    let count := v % 2 ^ 16
    let clobbered : Trap := { cause := 0x0B, addr := BitVec.ofNat 64 (w.rs a.toNat).toNat }
    let on := (w.seal s.dtime).advance 2 c .C
    (s.live key = false →
      (∃ t, exec (.binit c a expected) s = .next t ∧ t.wordAt key = barrierWordOf 0 0 expected.toNat 0 ∧ t.live key = true ∧ t.wave? w.uid = some on ∧
        ∀ k, k < key ∨ key + 8 ≤ k → kvGet 0 t.scratch k = kvGet 0 s.scratch k) ∧
      exec (.sarr c d a) s = .next (s.takeTrap w clobbered) ∧ exec (.swait c d a sb) s = .next (s.takeTrap w clobbered)) ∧
    (s.live key = true → exec (.binit c a expected) s = .next (s.takeTrap w clobbered) ∧
      (∃ t, exec (.sarr c d a) s = .next t ∧ t.wave? w.uid = some (((w.seal s.dtime).setS d.toNat (BitVec.ofNat 32 gen)).advance 2 c .C) ∧
        t.wordAt key = if (count + 1) % 2 ^ 16 = want then barrierWordOf flags ((gen + 1) % 2 ^ 16) want 0 else barrierWordOf flags gen want ((count + 1) % 2 ^ 16)) ∧
      (gen ≠ (w.rs sb.toNat).toNat % 2 ^ 16 → exec (.swait c d a sb) s = becomes s ((w.setS d.toNat 0).advance 2 c .C)) ∧
      (gen = (w.rs sb.toNat).toNat % 2 ^ 16 → ∃ t w', exec (.swait c d a sb) s = .next t ∧ t.wave? w.uid = some w' ∧
        w'.life = .parked (.word key d.toNat) ∧ w'.pc = w.pc)) ∧
    (∃ t, exec (.bfree c a) s = .next t ∧ t.live key = false ∧ t.wave? w.uid = some on ∧ t.scratch = s.scratch)

/-- R333, R341: `semacq` takes its amount at once when no wave waits before it and the value reaches it, and parks otherwise;
`semadd` and the form on another wave of the core add, and the latter traps PERMISSION where no wave of the core holds the slot, or one
that is PREEMPTED until it is restored; a number beyond SEMA traps. -/
def Obligations.SemaphoreResults : Prop :=
  ∀ (s : State) (w x : Wave) (c i : Bool) (d a : R8) (n : BitVec 6) (amount : Half), s.issuing = some w → w.life = .ready →
    let v : Word := if i then amount.zeroExtend 32 else w.rs a.toNat
    let key := w.semKey n.toNat
    let old := s.sem key
    (w.foot.sema ≤ n.toNat → exec (.semacq c d a n i amount) s = .next (s.takeTrap w illegalEncoding) ∧
      exec (.semadd c a n i amount) s = .next (s.takeTrap w illegalEncoding)) ∧
    (n.toNat < w.foot.sema →
      (s.semWaiters w.core w.cx key = [] → v ≤ old → ∃ t, exec (.semacq c d a n i amount) s = .next t ∧ t.sem key = old - v ∧
        t.wave? w.uid = some (((w.seal s.dtime).setS d.toNat old).advance 2 c .C)) ∧
      (¬ (s.semWaiters w.core w.cx key = [] ∧ v ≤ old) → ∃ t w', exec (.semacq c d a n i amount) s = .next t ∧ t.sem key = old ∧
        t.wave? w.uid = some w' ∧ w'.life = .parked (.sem key v d.toNat) ∧ w'.pc = w.pc) ∧
      (s.semWaiters w.core w.cx key = [] → ∃ t, exec (.semadd c a n i amount) s = .next t ∧ t.sem key = old + v ∧
        t.wave? w.uid = some ((w.seal s.dtime).advance 2 c .C))) ∧
    let there := s.waves.find? (fun y => y.core == w.core && y.cx == w.cx && y.slot == (w.rs d.toNat).toNat % 128 && y.life != .preempted && y.life != .restoring)
    (there = some x → x.launch = w.launch → n.toNat < x.foot.sema → s.semWaiters w.core w.cx (x.semKey n.toNat) = [] →
      ∃ t, exec (.semaddW c d a n i amount) s = .next t ∧ t.sem (x.semKey n.toNat) = s.sem (x.semKey n.toNat) + v ∧
        t.wave? w.uid = some ((w.seal s.dtime).advance 2 c .C)) ∧
    (there = none → exec (.semaddW c d a n i amount) s = .next (s.takeTrap w { cause := 0x0A }))

/-! ### The matrix engine -/

/-- R286, R287, R299: `mmq` and its sparse form, with a combination of R286, registers in the windows and every active quarter's
checks passed, queue one quarter per eight active lanes as one MM operation, and the wave seals; a lane's row holds the elements of its
registers, or in the sparse form its kept values at the positions that the metadata gives them, which are the positions taken (R287). R292, R303: `mfence` numbers the
batch of the operations since the last one; `mwait` goes on when the batch is complete or its number lies ahead, and parks otherwise. The model's choices in it: log entry 34. -/
def Obligations.MatrixMultiplyQueues : Prop :=
  (∀ (s : State) (w : Wave) (p : TF) (sp : Bool) (kg regs : Nat), s.issuing = some w → emulated p.ty = false → emulated p.btype = false →
    combination p.ty.toNat p.btype.toNat sp w.acct = some (kg, regs) → p.ta.toNat + regs ≤ 256 → (∀ n, n < 256 → inWindows w n) →
    let act := w.active p.km.toNat
    let lanes (q : Nat) : List Nat := (lanesOf act).filter (fun l => l / 8 == q)
    act ≠ 0 → (∀ q, q < 8 → lanes q ≠ [] → s.checkQuarter w p (s.readV w) kg sp q (lanes q) = .ok) →
    (s.quarters.filter (fun q => q.cc == w.cc)).length + 8 ≤ 128 →
    ∃ t new, exec (if sp then .mmqSp p else .mmq p) s = .next t ∧ wentOut s t w (some .MM) .mmq ∧ t.tiles = s.tiles ∧ t.mem = s.mem ∧
      t.wave? w.uid = some (((opened w s.nextOp).seal s.dtime).advance 3 false .A) ∧ t.quarters = s.quarters ++ new ∧
      (∀ q, q < 8 → lanes q ≠ [] → ∃ x ∈ new, x.opId = s.nextOp ∧ x.cc = w.cc ∧ x.tile = w.accBase + p.tc.toNat + q ∧
        x.slot = (laneOf (s.readV w p.tb.toNat) ((lanes q).headD 0)).toNat ∧ x.rows.map Prod.fst = (lanes q).map (· % 8) ∧
        ∀ l ∈ lanes q, ∃ codes taken, (l % 8, codes) ∈ x.rows ∧ (l % 8, taken) ∈ x.taken ∧ codes.length = kg ∧ taken.length = kg ∧
          let size := tyBits p.ty.toNat / 8
          let element (i : Nat) : Nat :=
            leNat ((((runFrom p.ta.toNat 16).flatMap (fun r => toBytes 4 (laneOf (s.readV w r) l).toNat)).drop (size * i)).take size)
          let word := (laneOf (s.readV w (p.ta.toNat + 4)) l).toNat
          ∀ k, k < kg →
            let p0 := word / 16 ^ (k / 4) % 4
            let p1 := word / 16 ^ (k / 4) / 4 % 4
            (sp = false → codes.getD k 0 = element k ∧ taken.getD k false = true) ∧
            (sp = true → codes.getD k 0 = (if k % 4 = p0 then element (2 * (k / 4)) else if k % 4 = p1 then element (2 * (k / 4) + 1) else 0) ∧
              taken.getD k false = (k % 4 == p0 || k % 4 == p1))) ∧
      new.length = ((List.range 8).filter (fun q => lanes q ≠ [])).length) ∧
  (∀ (s : State) (w : Wave) (c : Bool) (d a : R8), s.issuing = some w → w.life = .ready →
    let n := (w.last + 1) % 2 ^ 16
    (∃ t w', exec (.mfence c d) s = .next t ∧ t.wave? w.uid = some w' ∧ w'.rs d.toNat = BitVec.ofNat 32 n ∧ w'.last = n ∧ w'.openOps = [] ∧
      w'.life = .ready ∧ w'.pc = (w.advance 1 c .A).pc ∧ (∀ r, r ≠ d.toNat → w'.rs r = w.rs r) ∧
      (w.batches = [] → (∀ id ∈ w.openOps, s.ops.any (fun o => o.id == id) = false) → w'.batches = []) ∧
      (w.batches = [] → (∃ id ∈ w.openOps, s.ops.any (fun o => o.id == id) = true) → w'.batches = [(n, w.openOps)])) ∧
    let b := (w.rs a.toNat).toNat % 2 ^ 16
    (w.batches.any (fun x => x.1 == b) = false → exec (.mwait c a) s = becomes s (w.advance 1 c .A)) ∧
    (w.batches.any (fun x => x.1 == b) = true → (w.last + 2 ^ 16 - b) % 2 ^ 16 < 2 ^ 15 → ∃ t w', exec (.mwait c a) s = .next t ∧
      t.wave? w.uid = some w' ∧ w'.life = .parked (.batch b) ∧ w'.pc = w.pc))

/-- R80, R284, R288, R289: a queued quarter departs when no earlier operation holds its tile, and when its pass is done it has added to
each element of its row the products of its row of A with that column of its slot, all of them or, in the sparse form, those of the positions
that hold a kept value: an i8 quarter their sum modulo 2^32, and a quarter of one float type (f32, bf16, f16, e5m2) their exact sum, rounded once
with the accumulator to f32; a NaN among the operands taken makes the element the canonical NaN. The model's choices in it: log entry 34. -/
def Obligations.MatrixPassResults : Prop :=
  ∀ (s : State) (q : Quarter) (r : Nat) (codes : List Nat) (taken : List Bool) (x : BSlot),
    (s.quarters = [q] → q.cc = s.input.core → s.tileHeld q.cc q.opId q.tile = false →
      ∃ t, exec .matrixPassDepart s = .next t ∧ t.quarters = [] ∧ t.passes = s.passes ++ [(q.cc, [q])] ∧ t.tiles = s.tiles) ∧
    (s.passes = [(s.input.core, [q])] → q.cc = s.input.core → r < 8 → q.rows = [(r, codes)] → q.taken = [(r, taken)] → s.slot q.cc q.slot = x →
      x.cols.length = 128 →
      -- The pass is done, and column j of the row is as told.
      let done (told : State → Nat → Prop) : Prop := ∃ t, exec .matrixPassDone s = .next t ∧ t.passes = [] ∧ (∀ j, j < 128 → told t j) ∧
        (∀ k, (∀ j, j < 128 → k ≠ tileKey q.cc q.tile r j) → kvGet 0 t.tiles k = kvGet 0 s.tiles k)
      let column (bits j k : Nat) : Nat := (x.cols.getD j 0).toNat / 2 ^ (bits * k)
      (q.aty = 7 → q.bty = 7 → q.acct = 0 → codes.length = 32 → taken.length = 32 → done (fun t j =>
        t.acc q.cc q.tile r j = s.acc q.cc q.tile r j + BitVec.ofInt 32 (((List.range 32).map (fun k =>
          if taken.getD k false then signed8 (codes.getD k 0) * signed8 (column 8 j k) else 0)).sum))) ∧
      (∀ kg f F, q.aty = q.bty → floatType q.aty = some f → floatType 2 = some F → q.acct = 2 → combination q.aty q.bty q.sp 2 = some kg →
        codes.length = kg.1 → taken.length = kg.1 →
        let a (k : Nat) : Word := BitVec.ofNat 32 (codes.getD k 0)
        let b (j k : Nat) : Word := BitVec.ofNat 32 (column (tyBits q.bty) j k)
        let unit := max (2 * f.unit) 149
        let old (j : Nat) : Word := s.acc q.cc q.tile r j
        done (fun t j =>
          (F.isFinite (old j) → (∀ k, k < kg.1 → taken.getD k false = true → f.isFinite (a k) ∧ f.isFinite (b j k)) →
            F.result 0 false (F.value (old j) * 2 ^ (unit - 149) + ((List.range kg.1).map (fun k =>
              if taken.getD k false then f.value (a k) * f.value (b j k) * 2 ^ (unit - 2 * f.unit) else 0)).sum) (unit - 149) false
              (t.acc q.cc q.tile r j)) ∧
          ((∃ k, k < kg.1 ∧ taken.getD k false = true ∧ (f.isNan (a k) ∨ f.isNan (b j k))) → t.acc q.cc q.tile r j = F.nanCode))))

/-- R282, R283, R300: `bload` with a valid record puts its slot into LOADING and goes out as one CP operation; BLOAD_COMPLETE and, after a
context restore, B_SLOT_RELOAD_DONE (R297) leave in the slot what the load gives. A load of an i8 block from a box of two dimensions in device DRAM
leaves the slot VALID: byte k of a column is the byte of memory at its element's address (R242), or 0 where the box is clipped. The model's
choices in it: log entry 34. -/
def Obligations.SlotLoads : Prop :=
  (∀ (s s1 : State) (w : Wave) (p : TF) (done : Completion) (r : Layout), s.issuing = some w → w.completion p.cm p.ct = some done →
    s.readLayout w (w.recordAt p.tb) (some p.nd.toNat) true = (s1, .ok r) → bloadOk r = true → (w.rs p.ta.toNat).toNat < 2048 →
    s1.flushHeld w.core = false →
    let n := (w.rs p.ta.toNat).toNat
    let coords := w.coords p.tc.toNat p.nd.toNat
    (r.ty = 11 → coords.getD 0 0 % 64 = 0) →
    ∃ t, exec (.bload p) s = .next t ∧ sent s1 t w (some .CP) (.bload n r coords) done ∧ (t.slot w.cc n).state = .loading ∧
      (t.slot w.cc n).ty = r.ty ∧ (t.slot w.cc n).tag = some (r, coords, w.space, p.cache.toNat) ∧ t.tiles = s1.tiles ∧
      ∃ w1, s1.wave? w.uid = some w1 ∧ t.wave? w.uid = some (w1.advance 3 false .A)) ∧
  (∀ (s s1 : State) (o : Op) (n : Nat) (r : Layout) (coords : List Int) (x : BSlot) (out : Outcome) (bad : List Nat), s.op? s.input.op = some o →
    let cc := 192 * o.cx + o.core
    o.kind = .bload n r coords → o.waits = [] → s.portLost o.id = false → s.slotFree cc o.id n = true → s.reloading cc n = false →
    (∀ y ∈ s.ops, y.id ≤ o.id) →
    s.runSlot { pins := o.pins, view := o.view, wave := s.wave? o.uid, lay := r, coords := coords } (s.slot cc n) = .done s1 x out bad →
    s.ownerLeaves o = false → s.feeds = [] →
    ∃ t, exec .bloadComplete s = .next t ∧ t.slot cc n = { x with held := x.tag } ∧ t.op? o.id = none ∧ t.mem = s1.mem ∧ t.tiles = s1.tiles) ∧
  (∀ (s s1 : State) (r : Layout) (coords : List Int) (sp : Space) (hint : Nat) (x : BSlot) (out : Outcome) (bad : List Nat),
    let cc := s.input.core
    let n := s.input.slot
    (s.slot cc n).reload = true → (s.slot cc n).held = some (r, coords, sp, hint) → s.ops = [] →
    cc / 192 = (s.part (s.func sp.fn).part).active →
    s.runSlot { pins := [], view := cpView sp (s.func sp.fn).part, wave := none, lay := r, coords := coords } (s.slot cc n) = .done s1 x out bad →
    ∃ t, exec .bSlotReloadDone s = .next t ∧ t.slot cc n = { x with reload := false } ∧ t.mem = s1.mem) ∧
  (∀ (s : State) (o : Op) (n : Nat) (r : Layout) (coords : List Int) (pg : Nat → Nat → Page), s.op? s.input.op = some o →
    let cc := 192 * o.cx + o.core
    let x := s.slot cc n
    let row (k : Nat) : Int := coords.getD 0 0 + (k : Int)
    let col (j : Nat) : Int := coords.getD 1 0 + (j : Int)
    let inside (k j : Nat) : Bool := decide (0 ≤ row k ∧ row k < (r.extent.getD 0 0 : Int) ∧ 0 ≤ col j ∧ col j < (r.extent.getD 1 0 : Int))
    let address (k j : Nat) : Nat := (((r.base : Int) + row k + col j * r.stride.getD 1 0) % 2 ^ 64).toNat
    o.kind = .bload n r coords → o.waits = [] → s.portLost o.id = false → s.slotFree cc o.id n = true → s.reloading cc n = false →
    (∀ y ∈ s.ops, y.id ≤ o.id) → s.ownerLeaves o = false → s.feeds = [] → o.pins = [] → s.holders = [] →
    r.ty = 7 → r.ndim = 2 → r.box = [32, 128] → r.circ = 0 → r.perm = 0 → r.sp = false → x.cols = [] ∨ x.cols.length = 128 →
    (∀ k j, k < 32 → j < 128 → inside k j = true → EnginePage s o (address k j) 1 false (pg k j)) →
    ∃ t y, exec .bloadComplete s = .next t ∧ t.slot cc n = y ∧ y.state = .valid ∧ y.ty = 7 ∧ y.tag = x.tag ∧ y.cols.length = 128 ∧ t.mem = s.mem ∧
      ∀ k j, k < 32 → j < 128 → (y.cols.getD (col j % 128).toNat 0).toNat / 2 ^ (8 * k) % 256 =
        if inside k j then (memByte s.mem (pg k j).pa).toNat else 0)

/-- R301, R285, R290: `accz`, `accrd` and `accwr` of every type that their table permits go out as MM operations, and trap on any other
type, on column groups or registers that do not exist and on a tile that the wave has not; landing, `accz` zeroes its tiles, `accwr`
stores its lanes' f32 or i32 bits, or the f32 that a narrower type widens to, and `accrd` delivers the elements of its column groups,
their bits, rounded or converted to its type; no other element changes. The model's choices in it: log entries 32, 34. -/
def Obligations.TileTransfers : Prop :=
  (∀ (s : State) (w : Wave) (p : TF), s.issuing = some w → (∀ n, n < 256 → inWindows w n) → emulated p.ty = false →
    let out (t : State) (kind : OpKind) : Prop :=
      wentOut s t w (some .MM) kind ∧ t.wave? w.uid = some ((opened w s.nextOp).advance 3 false .A) ∧ t.tiles = s.tiles ∧ t.rf = s.rf
    let lanes := w.active p.km.toNat
    let reads : List Nat := if w.acct = 0 then [0, 2] else [0, 2, 3, 4, 5, 6]
    let writes : List Nat := if w.acct = 0 then [0] else [2, 3, 4, 5, 6]
    let groups : Prop := p.td ≠ 0 ∧ p.tc.toNat + p.td.toNat ≤ 16 ∧ p.ta.toNat + p.td.toNat ≤ 256
    let traps (i : Instr) (t : Trap) : Prop := exec i s = .next (s.takeTrap w t)
    (p.ta.toNat + p.tb.toNat ≤ w.foot.acc → ∃ t, exec (.accz p) s = .next t ∧ out t (.accz (w.accBase + p.ta.toNat) p.tb.toNat)) ∧
    (w.foot.acc < p.ta.toNat + p.tb.toNat → traps (.accz p) { cause := 0x0A }) ∧
    (p.ty.toNat ∈ reads → groups → p.tb.toNat < w.foot.acc → ∃ t, exec (.accrd p) s = .next t ∧
      out t (.accrd p.ta.toNat (w.accBase + p.tb.toNat) p.tc.toNat p.td.toNat p.ty.toNat w.acct w.fmtRnd w.fmtSat lanes p.z)) ∧
    (p.ty.toNat ∈ writes → groups → p.tb.toNat < w.foot.acc → ∃ t, exec (.accwr p) s = .next t ∧
      out t (.accwr (w.accBase + p.tb.toNat) p.tc.toNat p.td.toNat p.ty.toNat lanes ((runFrom p.ta.toNat p.td.toNat).map (s.readV w)))) ∧
    (p.ty.toNat ∉ reads → traps (.accrd p) { cause := 0x06 }) ∧ (p.ty.toNat ∉ writes → traps (.accwr p) { cause := 0x06 }) ∧
    (p.ty.toNat ∈ reads → ¬ groups → traps (.accrd p) { cause := 0x02 }) ∧ (p.ty.toNat ∈ writes → ¬ groups → traps (.accwr p) { cause := 0x02 }) ∧
    (p.ty.toNat ∈ reads → groups → w.foot.acc ≤ p.tb.toNat → traps (.accrd p) { cause := 0x0A }) ∧
    (p.ty.toNat ∈ writes → groups → w.foot.acc ≤ p.tb.toNat → traps (.accwr p) { cause := 0x0A })) ∧
  (∀ (s : State) (o : Op) (tile g n : Nat), s.op? s.input.op = some o → o.waits = [] → s.portLost o.id = false → g + n ≤ 16 →
    let cc := 192 * o.cx + o.core
    let lands (p : State → Prop) : Prop := ∃ t, exec .asyncWriteLands s = .next t ∧ t.op? o.id = none ∧ p t
    (∀ m, o.kind = .accz tile m → s.accReady o tile m = true → lands (fun t =>
      (∀ i r j, i < m → r < 8 → j < 128 → t.acc cc (tile + i) r j = 0) ∧
      ∀ k, (∀ i r j, i < m → r < 8 → j < 128 → k ≠ tileKey cc (tile + i) r j) → kvGet 0 t.tiles k = kvGet 0 s.tiles k)) ∧
    (∀ ty lanes vals, o.kind = .accwr tile g n ty lanes vals → s.accReady o tile 1 = true → lands (fun t =>
      (∀ i l, i < n → l < 64 → t.acc cc tile (l % 8) (8 * (g + i) + l / 8) =
        if lanes.getLsbD l then written ty (laneOf (vals.getD i zeroV) l) else s.acc cc tile (l % 8) (8 * (g + i) + l / 8)) ∧
      ∀ k, (∀ i l, i < n → l < 64 → k ≠ tileKey cc tile (l % 8) (8 * (g + i) + l / 8)) → kvGet 0 t.tiles k = kvGet 0 s.tiles k)) ∧
    (∀ (w : Wave) (d ty acct rnd : Nat) (sat : Bool) (lanes : LaneMask) (z : Bool), o.kind = .accrd d tile g n ty acct rnd sat lanes z →
      s.accReady o tile 1 = true → o.dropped = false → o.moved = [] → s.blocks = [] → s.feeds = [] → s.wave? o.uid = some w → w.leaving = false →
      windowsApart w → (∀ i, i < n → inWindows w (d + i)) → lands (fun t => t.tiles = s.tiles ∧ ∃ w', t.wave? o.uid = some w' ∧
        ∀ i l, i < n → l < 64 → laneOf (t.readV w' (d + i)) l =
          if lanes.getLsbD l then delivered acct ty rnd sat (s.acc cc tile (l % 8) (8 * (g + i) + l / 8))
          else if z then 0 else laneOf (s.readV w (d + i)) l)))

/-- R293 to R295, R302: `mwalk` on a card and records that pass its checks goes out as one MM operation and seals; a running
walk's next tuple enters the queue when its slot is loaded; the outputs of a finished block, where all of them and their biases lie in
device DRAM, are written as R295 and R296 compute them, and nothing else; MWALK_COMPLETE ends the walk with its token. The model's
choices in it: log entries 16, 34, 36. -/
def Obligations.WalkResults : Prop :=
  (∀ (s s1 s2 s3 s4 : State) (w : Wave) (c : Bool) (p : A2) (done : Completion) (card ra rb rc : List Byte) (accs : List Acc), s.issuing = some w →
    w.completion p.cm p.ct = some done → s.readRecord w (w.recordAt p.aa) 128 128 noDeny = .ok s1 card →
    let v := leNat card
    s1.resolveAll w.view ([v % 2 ^ 57, v / 2 ^ 64 % 2 ^ 57, v / 2 ^ 128 % 2 ^ 57].map (fun a => (0, a, false, noDeny))) 1 = .ok accs →
    s1.walkRecord w (v % 2 ^ 57) = .ok s2 ra → s2.walkRecord w (v / 2 ^ 64 % 2 ^ 57) = .ok s3 rb → s3.walkRecord w (v / 2 ^ 128 % 2 ^ 57) = .ok s4 rc →
    let a := parseLayout ra
    let b := parseLayout rb
    let cr := parseLayout rc
    let nd := if (cardLevels v).any (fun e => e.1 == 4) then 3 else 2
    cardOk v b.ty = true → layoutOk a (some nd) false = true → layoutOk b (some nd) true = true → b.csm = true → layoutOk cr (some nd) false = true →
    (∀ x ∈ [a.ty, b.ty, cr.ty], x ≠ 13 ∧ x ≠ 14) → (combination a.ty b.ty false w.acct).isSome = true → walkOut cr.ty = true →
    (v / 2 ^ 289 % 2 = 1 → w.params.isSome = true) → v / 2 ^ 296 % 2 ^ 5 + v / 2 ^ 301 % 2 ^ 6 ≤ w.foot.acc →
    s4.flushHeld w.core = false →
    ∃ t j, exec (.mwalk c p) s = .next t ∧ sent s4 t w (some .MM) (.walk j) done ∧ j.pos = 0 ∧ j.a = a ∧ j.b = b ∧ j.cRec = cr ∧
      t.wave? w.uid = some (((opened w s4.nextOp).seal s4.dtime).advance 2 c .A)) ∧
  (∀ (s s1 : State) (o : Op) (j : WalkJob) (x : BSlot) (out : Outcome) (bad : List Nat) (spots : List (Option Spot)), s.op? s.input.op = some o →
    let cc := 192 * o.cx + o.core
    let tup := j.tuple j.pos
    let slot := j.slotBase + (Config.freeWord s.draws).toNat % j.slotN
    o.kind = .walk j → j.stop = 0 → o.waits = [] → s.portLost o.id = false → s.allQuarters.any (fun q => q.opId == o.id) = false → o.cx = (s.part o.part).active →
    (s.part o.part).switching = none → j.epi = false → j.pos ≠ j.total →
    (∀ u, u < j.mt → s.tileHeld cc o.id (j.tileOf tup u) = false ∧ s.tileAwaited cc o.id (j.tileOf tup u) = false) → s.slotFree cc o.id slot = true →
    s.reloading cc slot = false →
    (s.quarters.filter (fun q => q.cc == cc)).length + j.mt ≤ 128 →
    s.runSlot { pins := o.pins, view := o.view, wave := s.wave? o.uid, lay := j.bBox, coords := j.bCoords tup } (s.slot cc slot) = .done s1 x out bad →
    out.cause = 0 → s1.spotRun o j.a.sp (j.aAddrs tup) [] = .go spots 0 →
    s.spotsHeld o.view ((spots.filterMap id).map (fun y => (y, elemBytes j.a.ty))) = false →
    ∃ t new, exec .walkBLoadDone s = .next t ∧ t.quarters = s.quarters ++ new ∧ new.length = j.mt ∧
      (∀ u, u < j.mt → ∃ q ∈ new, q.opId = o.id ∧ q.cc = cc ∧ q.tile = j.tileOf tup u ∧ q.slot = slot) ∧
      ∃ o' j', t.op? o.id = some o' ∧ o'.kind = .walk j' ∧ j'.pos = j.pos + 1) ∧
  (∀ (s : State) (o : Op) (j : WalkJob) (l : List OutSpot), s.op? s.input.op = some o →
    let cc := 192 * o.cx + o.core
    let tup := j.tuple (j.pos - 1)
    let n := elemBytes j.cRec.ty
    let slice (col : Int) : Nat := ((if j.b.circ.testBit 1 then col % (j.b.extent.getD 1 1 : Int) else col) % 128).toNat
    let bias (x : OutSpot) : Option Word := x.bias.map (fun b => BitVec.ofNat 32 (leNat (memBytes s.mem (spotPa b) 4)))
    let code (x : OutSpot) : Nat :=
      outCode j (s.acc cc (j.accBase + j.mt * tup.e + x.e.u) x.e.r (slice x.e.col)) (bias x) x.e.row x.e.col
    o.kind = .walk j → j.stop = 0 → j.epi = true → o.waits = [] → s.portLost o.id = false → s.allQuarters.any (fun q => q.opId == o.id) = false →
    o.cx = (s.part o.part).active → (s.part o.part).switching = none → s.holders = [] → s.planOut o j (j.outs tup) [] = .go l 0 false →
    s.spotsHeld o.view (l.flatMap (fun x => (x.dst, n) :: (x.bias.map (fun b => (b, 4))).toList)) = false →
    (∀ x ∈ l, spotInDram x.dst n ∧ ∀ b, x.bias = some b → spotInDram b 4) →
    ∃ t o' j', exec .walkBLoadDone s = .next t ∧ putInMem s t n (l.map (fun x => (spotPa x.dst, toBytes n (code x)))) ∧
      t.op? o.id = some o' ∧ o'.kind = .walk j' ∧ j'.epi = false ∧ j'.pos = j.pos ∧ j'.bytes = j.bytes + n * l.length ∧
      (if j.pos = j.total then comes t .mwalkComplete { op := o.id } else comes t .walkBLoadDone { op := o.id, core := cc })) ∧
  (∀ (s : State) (o : Op) (w : Wave) (j : WalkJob) (r : Nat), s.op? s.input.op = some o → o.kind = .walk j → j.stop = 0 → j.pos = j.total → j.epi = false →
    s.allQuarters.any (fun q => q.opId == o.id) = false → o.dropped = false → s.wave? o.uid = some w → w.leaving = false → s.feeds = [] → o.done = .token r → j.poisoned = false → j.side = false →
    ∃ t w', exec .mwalkComplete s = .next t ∧ t.op? o.id = none ∧ t.wave? o.uid = some w' ∧ w'.rs r = 0 ∧ w'.rs (r + 1) = BitVec.ofNat 32 j.bytes ∧ t.mem = s.mem) ∧
  (∀ (s s1 : State) (w : Wave) (c : Bool) (p : A2) (h : List Byte) (clen n base : Nat) (accs : List Acc), s.issuing = some w →
    s.readRecord w (w.recordAt p.aa) 16 16 noDeny = .ok s1 h → paramHeader (leNat h) = some (clen, n, base) →
    s1.resolve w.view ((List.range n).map (fun i => (0, w.recordAt p.aa + 16 + 16 * i))) 1 false noDeny = .ok accs →
    s1.loadBlocked w.core 16 0 accs = false → (s1.reach w accs true).poisonTrap w.core accs = none →
    let es := ((s1.reach w accs true).loadAll w.core 16 0 0 accs).2.map (fun e => leNat e.2)
    (∀ e ∈ es, e / 2 ^ 96 = 0) → ∃ t w', exec (.mparam c p) s = .next t ∧ t.wave? w.uid = some w' ∧
      w'.params = some { clen := clen, nrows := n, rowbase := base, rows := es.map (fun e => (BitVec.ofNat 64 e, e / 2 ^ 64)) } ∧
      w'.pc = (w.advance 2 c .A).pc)

/-! ### Bramble -/

/-- R355, R356: each of the eight Bramble instructions (`gbind`, `gmask`, `gmask.delta`, `gstep`, `gfork`, `groll`, `gcommit`, `gfree`)
whose operands pass its checks goes out as one CP operation with one job for the wave, or
one for each active lane of the vector form; BRAMBLE_COMPLETE runs the job and reports its status and result; what binding a bound
context, stepping with a full history and freeing an unbound context answer (R354, R357, R358, R362). What the operations leave in the
context record, the history and the reference counts (R350 to R353): a bind that passes its checks and one that fails them (R357), an accepted
step that pushes nothing (R358), a fork (R360), and a rollback and a commit of one step (R361), with record, history entry and segment in host
memory of a process. The model's choices in it: log entries 37, 99, 103. -/
def Obligations.BrambleResults : Prop :=
  (∀ (s : State) (w : Wave) (fn : BrambleFn) (c : Bool) (p : A2) (imm : BitVec 24) (done : Completion),
    let f := brambleForm fn c p imm
    let v := p.fl.getLsbD 0
    let ops := s.gOperands w p f.second (if fn = .gbind then 0 else 128 * f.imm)
    s.issuing = some w → (if p.cm = 0 then some Completion.none else w.completion p.cm p.ct) = some done → (∀ n, n < 256 → inWindows w n) →
    (v = true → p.aa.toNat < 255 ∧ p.ab.toNat < 255) →
    (∀ o ∈ ops, o.ctx % 64 = 0 ∧ o.arg % f.align = 0 ∧ o.arg < f.limit) → s.flushHeld w.core = false →
    ∃ t jobs, exec f.i s = .next t ∧ sent s t w (some .CP) (.bramble (if v then some p.ac.toNat else none) jobs false []) done ∧
      jobs.map (fun j => { j with hist := none }) = ops.map (fun o => { fn := fn, lane := o.lane, ctx := o.ctx, arg := o.arg, imm := f.imm }) ∧
      ((∀ o ∈ ops, ∀ g, s.page (s.engineView w) o.ctx false = .ok g → isPeerPa g.pa = false) → ∀ j ∈ jobs, j.hist = none) ∧
      t.wave? w.uid = some ((if fn = .gmask then w else w.seal s.dtime).advance f.n f.c .A) ∧ t.rf = s.rf) ∧
  (∀ (s s1 : State) (o : Op) (w : Wave) (j : BrambleJob) (status result : Word) (r : Nat), s.op? s.input.op = some o → o.waits = [] →
    s.portLost o.id = false → s.gBehind o = false →
    o.kind = .bramble none [j] false [] → s.runBramble o.view j = .done s1 status result → o.packet = none →
    o.dropped = false → s1.wave? o.uid = some w → w.leaving = false → s1.feeds = [] → o.done = .token r →
    ∃ t, exec .brambleComplete s = .next t ∧ t.op? o.id = none ∧ t.mem = s1.mem ∧ leaves t o.uid (fun w' => w'.rs r = status ∧ w'.rs (r + 1) = result)) ∧
  (∀ (s : State) (e : View) (x : GCtx) (image start tok : Nat),
    (x.active = true → s.gbindRun e x image start = .ok { ctx := x, bits := 0x11 + 2 ^ 12, result := 0 } s) ∧
    (x.active = true → x.error = false → 64 ≤ x.steps - x.commit → s.gstepRun e x tok = .ok { ctx := x, bits := 0x11 + 2 ^ 13, result := x.depth } s) ∧
    (x.active = false → s.gfreeRun e x = .ok { ctx := x, bits := 0x11, result := 0 } s ∧ s.gstepRun e x tok = .ok { ctx := x, bits := 0x11, result := x.depth } s)) ∧
  (∀ (s : State) (e : View) (j : BrambleJob) (pc : Nat), quiet s → HostSpot s e j.ctx 64 pc → j.hist = none →
    let c := ctxFields (homeNat s pc 64)
    -- The job ends with no cause, the result and these fields in its record.
    let leaves_ (t : State) (status result : Word) (n : Nat) (f : CtxFields) : Prop :=
      s.runBramble e j = .done t status result ∧ status.toNat % 256 = 0 ∧ result = BitVec.ofNat 32 n ∧ ctxFields (homeNat t pc 64) = f
    (∀ pi, j.fn = .gbind → c.flags % 2 = 0 → HostSpot s e j.arg 128 pi →
      let h := homeNat s pi 128
      let start := (j.imm % 2 ^ 16).toNat
      let bound (good : Bool) : CtxFields := { pool := c.pool, hist := c.hist, image := j.arg, stkseg := 0, depth := 0,
                                               state := if good then start else 0, steps := 0, commit := 0, flags := if good then 1 else 4 }
      j.arg % 128 = 0 → 0 ≤ j.imm → (goodHeader h → start < h / 2 ^ 85 % 2 ^ 17 → ∃ t st r, leaves_ t st r 0 (bound true)) ∧
        (¬ (goodHeader h ∧ start < h / 2 ^ 85 % 2 ^ 17) → ∃ t st, s.runBramble e j = .done t st 0 ∧ st.toNat % 256 = 0x11 ∧
          ctxFields (homeNat t pc 64) = bound false)) ∧
    (∀ ph pg, j.fn = .groll → j.arg = 1 → c.flags % 2 = 1 → c.commit + 1 ≤ c.steps →
      HostSpot s e (c.hist + 16 * ((c.steps - 1) % 64)) 16 ph → sharedSegment s e c.stkseg pg → apart pc 64 pg 64 →
      let h := homeNat s ph 16
      ∃ t st r, leaves_ t st r (c.steps - 1 - c.commit) { c with state := h % 2 ^ 16, depth := h / 2 ^ 32 % 2 ^ 11, stkseg := h / 2 ^ 64 % 2 ^ 57,
                                                                 steps := c.steps - 1, flags := 1 } ∧
        (c.stkseg ≠ 0 → homeNat t (pg + 40) 4 + 1 = homeNat s (pg + 40) 4)) ∧
    (∀ ph pg, j.fn = .gcommit → j.arg = 1 → c.flags % 2 = 1 → c.flags < 4 → c.commit + 1 ≤ c.steps →
      HostSpot s e (c.hist + 16 * (c.commit % 64)) 16 ph →
      let seg := homeNat s ph 16 / 2 ^ 64 % 2 ^ 57
      sharedSegment s e seg pg → apart pc 64 pg 64 →
      ∃ t st r, leaves_ t st r (c.steps - (c.commit + 1)) { c with commit := c.commit + 1 } ∧
        (seg ≠ 0 → homeNat t (pg + 40) 4 + 1 = homeNat s (pg + 40) 4)) ∧
    (∀ pd pg, j.fn = .gfork → HostSpot s e j.arg 64 pd →
      let d := ctxFields (homeNat s pd 64)
      c.flags % 2 = 1 → c.flags < 4 → d.flags % 2 = 0 → c.pool = d.pool → c.stkseg = 0 ∨ HostSpot s e c.stkseg 64 pg →
      apart pc 64 pd 64 → apart pc 64 pg 64 → apart pd 64 pg 64 → ∃ t st, s.runBramble e j = .done t st (BitVec.ofNat 32 c.depth) ∧ st.toNat % 256 = 0 ∧
        ctxFields (homeNat t pd 64) = { c with hist := d.hist, commit := c.steps, flags := 1 } ∧ homeNat t pc 64 = homeNat s pc 64 ∧
        (c.stkseg ≠ 0 → homeNat t (pg + 40) 4 = (homeNat s (pg + 40) 4 + 1) % 2 ^ 32)) ∧
    (∀ ph pg s1 s2 s3 s4 x h n y, j.fn = .gstep → c.flags % 2 = 1 → c.flags < 4 → c.steps - c.commit < 64 → c.steps + 1 < 2 ^ 40 →
      s.gCtx e j.ctx = .ok x s1 → s1.gHead e x.image = .ok h s2 → s2.gAllowed e h x j.arg = .ok true s3 → s3.gStepTo e h x j.arg = .ok (n, 0, y) s4 →
      n < 2 ^ 16 → quiet s4 → HostSpot s4 e j.ctx 64 pc → HostSpot s4 e (c.hist + 16 * (c.steps % 64)) 16 ph →
      c.stkseg = 0 ∨ HostSpot s4 e c.stkseg 64 pg → apart pc 64 ph 16 → apart pc 64 pg 64 → apart ph 16 pg 64 →
      ∃ t st r, leaves_ t st r c.depth { c with state := n, steps := c.steps + 1, flags := 1 } ∧
        homeNat t ph 16 = c.state + c.depth * 2 ^ 32 + c.stkseg * 2 ^ 64 ∧
        (c.stkseg ≠ 0 → homeNat t (pg + 40) 4 = (homeNat s4 (pg + 40) 4 + 1) % 2 ^ 32)))

/-! ### Work creation -/

/-- R70, R71, R73, R204: the outcomes of `spawn` in their order: BAD_CARD, DEPTH, posted, run inline, FULL. The model's choices in it: log entry 39. -/
def Obligations.SpawnResults : Prop :=
  ∀ (s s1 : State) (w : Wave) (d a b : R8) (raw : List Byte) (k : JobCard) (budget : Nat), s.issuing = some w →
    s.readRecord w (w.pair a.toNat).toNat 64 64 noDeny = .ok s1 raw → s1.wave? w.uid = some w →
    let cc := 192 * w.cx + targetCore w.core ((w.rs b.toNat).toNat % 16)
    let answers (t : State) (code : Word) : Prop :=
      wentOut s1 t w none (.regs [.s d.toNat code]) ∧ t.wave? w.uid = some ((w.seal s1.dtime).advance 1 false .C)
    (parseCard raw = none → ∃ t, exec (.spawn d a b) s = .next t ∧ answers t 4 ∧ t.cards = s1.cards) ∧
    (parseCard raw = some k → w.sdepth = 15 → ∃ t, exec (.spawn d a b) s = .next t ∧ answers t 3 ∧ t.cards = s1.cards) ∧
    (parseCard raw = some k → w.sdepth ≠ 15 → s1.hasRoom cc = true → s1.releaseStalls w.core 2 = false → ∃ t card, exec (.spawn d a b) s = .next t ∧ answers t 0 ∧
      t.cards = s1.cards ++ [(cc, card)] ∧ card.entry = BitVec.ofNat 64 k.entry ∧ card.args = k.args ∧ card.lanes = k.lanes ∧
      card.parent = k.parent ∧ card.depth = w.sdepth + 1 ∧ card.prio = min k.prio w.prio ∧ comes t .taskCardBirth { core := cc }) ∧
    (parseCard raw = some k → w.sdepth ≠ 15 → s1.hasRoom cc = false → w.inlines k = false → ∃ t, exec (.spawn d a b) s = .next t ∧ answers t 2 ∧ t.cards = s1.cards) ∧
    (parseCard raw = some k → w.sdepth ≠ 15 → s1.hasRoom cc = false → w.inlines k = true → s1.header w (BitVec.ofNat 64 k.entry) 1 w.pc = .ok budget →
      ∃ t, exec (.spawn d a b) s = .next t ∧ leaves t w.uid (fun w' => w'.pc = BitVec.ofNat 64 k.entry ∧ w'.args = k.args ∧ w'.sdepth = w.sdepth + 1 ∧
        w'.inld = w.inld - 1 ∧ w'.icount = BitVec.ofNat 64 k.lanes ∧ w'.exec = maskWhere (fun l => decide (l < k.lanes)) ∧
        w'.maskStack = { exec := w.exec, fmt := w.fmt } :: w.maskStack ∧ w'.callStack.length = w.callStack.length + 1))

/-- R76 to R79, R206 to R208, R53, R205: `hpush` inserts its entry or finds the heap full; an admission takes a leading part of
the heap within limit and budget, or one entry above the budget; `hadmit` and its multiple form deliver the counts; `tnext`
delivers the next record of its feed, status 1 when all are handed out, or status 2 with no feed bound, and parks behind waves that wait
at its slot or when no record is there yet. The model's choices in it: log entry 38. -/
def Obligations.HeapAndFeedResults : Prop :=
  (∀ (limit budget : Nat) (heap : List HeapEntry), let r := admitFrom limit budget 0 0 heap
    r.2.2 = heap.drop r.1.length ∧ r.1.length ≤ limit ∧ r.2.1 = ((heap.take r.1.length).map (·.cost)).sum ∧
    (r.2.1 ≤ budget ∨ (r.1.length = 1 ∧ budget < ((heap.head?).map (·.cost)).getD 0)) ∧
    r.1 = (heap.take r.1.length).map (fun e => e.word (decide (budget < r.2.1)))) ∧
  (∀ (s : State) (w : Wave) (c : Bool) (d a b : R8), s.issuing = some w → w.part < s.parts.length →
    let heap := (s.part w.part).heap
    let r (i : Nat) : Nat := (w.rs (a.toNat + i)).toNat
    let e : HeapEntry := { deadline := r 1 % 256 * 2 ^ 32 + r 0, reqid := r 2 % 2 ^ 24, cost := r 3 % 2 ^ 16, swf := r 3 / 2 ^ 16 % 128 }
    let off := (w.rs a.toNat).toNat
    let lim := (w.rs b.toNat).toNat
    (heap.length < 65536 → ∃ t, exec (.hpush c d a) s = .next t ∧ wentOut s t w none (.regs [.s d.toNat 0]) ∧
      t.wave? w.uid = some (w.advance 2 c .A) ∧ (t.part w.part).heap = insertBy HeapEntry.key e heap) ∧
    (65536 ≤ heap.length → ∃ t, exec (.hpush c d a) s = .next t ∧ wentOut s t w none (.regs [.s d.toNat 1]) ∧
      t.wave? w.uid = some (w.advance 2 c .A) ∧ (t.part w.part).heap = heap) ∧
    (s.admitTrap w off (4 * lim) = none → let x := admitFrom lim w.tbudget.toNat 0 0 heap
      ∃ t, exec (.hadmit c d a b) s = .next t ∧ wentOut s t w none (.regs [.s d.toNat (BitVec.ofNat 32 x.1.length)]) ∧
        (t.part w.part).heap = x.2.2 ∧ t.wave? w.uid = some (({ w with tbudget := BitVec.ofNat 32 (w.tbudget.toNat - x.2.1) }.seal s.dtime).advance 2 c .A) ∧
        t.spadBytes (w.spadKey off) (4 * x.1.length) = bytesFrom x.1) ∧
    (s.admitTrap w off (4 * (16 + 64 * min lim 8)) = none →
      s.spadPoisonTrap 4 ((List.range (min lim 8)).map (fun g => (0, off + 4 * g, w.spadKey (off + 4 * g)))) = none →
      let x := s.admitGroups w off (fun g => leNat (s.spadBytes (w.spadKey (off + 4 * g)) 4)) (List.range (min lim 8)) heap
      ∃ t, exec (.hadmitMulti c d a b) s = .next t ∧ wentOut s t w none (.regs [.s d.toNat (BitVec.ofNat 32 x.2.2)]) ∧
        (t.part w.part).heap = x.2.1 ∧ t.wave? w.uid = some ((w.seal s.dtime).advance 2 c .A)) ∧
    let first := s.feedWaiters w.part (off % 16) = []
    let parks : Prop := ∃ t, exec (.tnext c d a) s = .next t ∧ leaves t w.uid (fun w' => w'.life = .parked (.feed (off % 16) d.toNat) ∧ w'.pc = w.pc)
    (¬ first → parks) ∧
    (∀ f, first → s.feed? w.part (off % 16) = some f → f.bad = false → min f.count f.maxrec ≤ f.next → f.final = false → parks) ∧
    (first → s.feed? w.part (off % 16) = none → exec (.tnext c d a) s = becomes s ((w.setRun d.toNat (2 :: List.replicate 7 0)).advance 1 c .C)) ∧
    (∀ f, first → s.feed? w.part (off % 16) = some f → f.bad = false → min f.count f.maxrec ≤ f.next → f.final = true →
      exec (.tnext c d a) s = becomes s ((w.setRun d.toNat (1 :: List.replicate 7 0)).advance 1 c .C)) ∧
    (∀ f s1 x, first → s.feed? w.part (off % 16) = some f → f.bad = false → f.next < min f.count f.maxrec →
      s.readTile (cpView f.space w.part) (f.list + 16 * f.next) = .ok s1 x →
      ∃ t, exec (.tnext c d a) s = .next t ∧ (t.feed? w.part (off % 16)).map (·.next) = some (f.next + 1) ∧
        leaves t w.uid (fun w' => w'.rs d.toNat = 0 ∧ w'.rs (d.toNat + 1) = BitVec.ofNat 32 x.expert ∧ w'.rs (d.toNat + 2) = BitVec.ofNat 32 x.rowStart ∧
          w'.rs (d.toNat + 3) = BitVec.ofNat 32 x.rows ∧ w'.rs (d.toNat + 7) = BitVec.ofNat 32 f.next ∧ w'.sealFlag = true)))

/-! ### Traps and the wave's services -/

/-- R364 to R368, R385, R388: a user trap of a kernel with a handler enters it, with s240 to s255 saved and filled; every other trap,
and one inside the handler, halts the wave and writes its record; `trap` takes such a trap; `rte` puts back what the entry hid. The model's choices in it: log entries 26, 28. -/
def Obligations.TrapEntryAndReturn : Prop :=
  ∀ (s : State) (w : Wave) (t : Trap), s.issuing = some w →
    -- What the walks and checks of the instruction found stands (R249, R250).
    let f := s.found w t
    (t.lines = [] → t.walks = [] → f = s) ∧
    (t.user = true → w.desc.tv = true → w.inTrap = false → ∃ w', s.takeTrap w t = f.putWave w' ∧ w'.inTrap = true ∧ w'.pc = w.desc.trapEntry ∧ w'.grp = [] ∧
      w'.xfer = none ∧ w'.pair 240 = t.pc.getD w.pc ∧ w'.pair 242 = w.exec ∧ w'.rs 244 = BitVec.ofNat 32 (f.trapInfo w t) ∧ w'.rs 245 = t.arg ∧
      w'.pair 246 = t.addr ∧ w'.pair 248 = t.lanes ∧ w'.rs 251 = (if w.xfer.isSome then 1 else 0) ∧ w'.pair 252 = w.xfer.getD 0 ∧ w'.exec = w.exec ∧
      w'.hidden = (List.range 16).map (fun i => w.rs (240 + i)) ∧ w'.hiddenSeal = w.sealFlag ∧ w'.sealFlag = w.sealFlag ∧ ∀ r, r < 240 → w'.rs r = w.rs r) ∧
    (t.user = false ∨ w.desc.tv = false ∨ w.inTrap = true → s.takeTrap w t = f.haltWave w t ∧ comes (f.haltWave w t) .waveRetire { uid := w.uid } ∧
      leaves (f.haltWave w t) w.uid (fun w' => w'.life = .exiting ∧ w'.halted = true)) ∧
    (∀ q p, s.queue? w.fn w.queue = some q → q.desc.errSig = 0 → q.state = .active → (q.desc.trapAddr + 128 * (q.records % 32)) % 128 = 0 →
      s.page (cpView (Queue.space q) (s.func w.fn).part) (q.desc.trapAddr + 128 * (q.records % 32)) true = .ok p → p.pa % 128 = 0 → p.pa + 128 ≤ Config.dramBytes →
      s.runHeld none p.pa 128 = false →
      memBytes (s.haltWave w t).mem p.pa 128 = toBytes 128 (s.trapBits w t q.records + s.classBits (s.func w.fn).part w.fn t.va) ∧
      ((s.haltWave w t).queue? w.fn w.queue).map (fun x => (x.state, x.cause, x.records)) = some (.error, 3, q.records + 1)) ∧
    (∀ (a : R8) (code : BitVec 10), exec (.trap a code) s =
      .next (s.takeTrap w { cause := 0x14, pc := some (w.pc + 4), arg := w.rs a.toNat, detail := code.toNat })) ∧
    (w.inTrap = false → exec .rte s = .next (s.takeTrap w { cause := 0x17 })) ∧
    (w.inTrap = true → w.pair 240 &&& 3 = 0 → w.hidden.length = 16 → ∃ w', exec .rte s = becomes s w' ∧ w'.pc = w.pair 240 ∧ w'.exec = w.pair 242 ∧
      w'.inTrap = false ∧ w'.sealFlag = w.hiddenSeal ∧ w'.xfer = (if (w.rs 251).getLsbD 0 then some (w.pair 252) else none) ∧
      (∀ i, i < 16 → w'.rs (240 + i) = w.hidden.getD i 0) ∧ ∀ r, r < 240 → w'.rs r = w.rs r) ∧
    (∀ b a rest, w.inTrap = true → w.pair 240 &&& 3 = 1 → w.maskStack = b :: a :: rest → b.exec = 0 → ∃ w', exec .rte s = becomes s w' ∧
      w'.pc = w.pair 240 + 3 ∧ w'.exec = a.exec ∧ w'.maskStack = rest ∧ w'.inTrap = false)

/-- R160, R371, R373, R386, R387, R389, R398: `ecall` parks until its service answers; `sleep` of no time goes on and any other parks
until its end; `ckpt` records the wave, writes its named registers to its checkpoint area and clears the seal; `exit` ends the wave; the watchdog halts an overlong stretch. The place of scalar register r in the area, at
0x1000 + 4r, with the area's other bytes as they were, is the model's choice (log entry 44; R378 gives the range alone); its other choices: log entries 52, 61. -/
def Obligations.WaveServiceResults : Prop :=
  (∀ (s : State) (w : Wave) (a vb : R8) (code : BitVec 10) (sem : Bool) (sb : BitVec 6) (sg : Byte) (vm : Half), s.issuing = some w →
    (∃ t, exec (.ecall a code) s = .next t ∧ comes t .ecallDone { uid := w.uid } ∧
      leaves t w.uid (fun w' => w'.life = .parked (.ecall code.toNat a.toNat) ∧ w'.pc = w.pc)) ∧
    (w.rs a.toNat = 0 → exec (.sleep a sem) s = becomes s (w.advance 1 false .Y)) ∧
    (w.rs a.toNat ≠ 0 → ∃ t, exec (.sleep a sem) s = .next t ∧
      leaves t w.uid (fun w' => w'.life = .parked (.sleep (s.dtime + (w.rs a.toNat).zeroExtend 64) sem) ∧ w'.pc = w.pc)) ∧
    (w.inTrap = true → exec (.ckpt vb sb sg vm) s = .next (s.takeTrap w { cause := 0x17 })) ∧
    (w.inTrap = false → w.claims = [] → (∀ n, n < 256 → inWindows w n) → vb.toNat + 16 ≤ 256 → ∃ t, exec (.ckpt vb sb sg vm) s = .next t ∧
      t.wave? w.uid = some { w.advance 2 false .Y with ckpt := some (s.checkpoint w (w.pc + 8) (ckptS sb sg) (ckptV vb vm)), sealFlag := false } ∧
      (s.areaThere w = false → t.mem = s.mem) ∧
      (s.areaThere w = true → s.ckptArea w % 128 = 0 → s.ckptArea w + 524288 ≤ Config.dramBytes →
        ∀ r ∈ ckptS sb sg, r < 256 → memBytes t.mem (s.ckptArea w + 0x1000 + 4 * r) 4 = toBytes 4 (w.rs r).toNat)) ∧
    (∃ t, exec .exit s = .next t ∧ comes t .waveRetire { uid := w.uid } ∧ leaves t w.uid (fun w' => w'.life = .exiting ∧ w'.halted = false))) ∧
  (∀ (s : State) (w : Wave) (svc a : Nat) (until_ : DWord) (sem : Bool), eventWave s w →
    (w.life = .parked (.ecall svc a) → ∃ t, exec .ecallDone s = .next t ∧ leaves t w.uid (fun w' => w'.life = .ready ∧
      (svc = 1 → w'.rs a = 0 ∧ w'.rs (a + 1) = BitVec.ofNat 32 w.part ∧ w'.rs (a + 4) = BitVec.ofNat 32 (s.part w.part).active) ∧
      (svc = 2 → lifeValid (w.rs (a + 1)).toNat = true → w'.rs a = 0 ∧ w'.pair (a + 2) = kvGet 0 s.life (w.rs (a + 1)).toNat) ∧
      (svc = 2 → lifeValid (w.rs (a + 1)).toNat = false → w'.rs a = 2) ∧ (2 < svc → w'.rs a = 1 ∧ ∀ i, 1 ≤ i → i ≤ 7 → w'.rs (a + i) = 0))) ∧
    (w.life = .parked (.sleep until_ sem) → until_.toNat ≤ s.dtime.toNat → exec .sleepExpire s = .next (s.putWave w.woken)) ∧
    (w.sealFlag = true → w.sealSince.toNat + 1000000 ≤ s.dtime.toNat → w.cx = (s.part w.part).active → s.saving w.part = false → w.halted = false →
      w.life = .ready ∨ w.life = .exiting → exec .watchdogExpire s = .next (s.takeTrap w { cause := 0x15 })) ∧
    (s.eligible w = true → w.overdueAt = 0 → ∃ t, exec .waveOverdue s = .next t ∧ t.wave? w.uid = some { w with overdueAt := s.nextOp }))

/-! ### Estates -/

/-- R85, R86, R88, R98, R394 to R397: `will` forms a block of its keys' slots with the register values as they stand; with no estate-out
domain, a second time, or with bad keys it traps; `claim` and `eprobe` go out as LD operations, and a landing claim delivers the
slot that it finds. The model's choices in it: log entry 40. -/
def Obligations.EstateInstructionResults : Prop :=
  (∀ (s s1 : State) (w : Wave) (c : Bool) (p : A2) (l : Launch) (dom : Nat) (route : Route) (inDir : Bool), s.issuing = some w → w.child = false →
    s.launch? w.launch = some l → (∀ n, n < 256 → inWindows w n) → p.aa.toNat < 255 →
    let act := w.active (p.fl.toNat / 2)
    let keys := (lanesOf act).map (fun k => (k, if p.fl.getLsbD 0 then keyOf (s.readV w p.aa.toNat) (s.readV w (p.aa.toNat + 1)) k else (64 * w.index + k) % 2 ^ 40))
    let group := (keys.head?.map (fun e => e.2 / 64)).getD 0
    (l.eout = none → exec (.will c p) s = .next (s.takeTrap w { cause := 0x0E })) ∧
    (l.eout = some dom → w.desc.nbeq ≠ 0 → w.didWill = true → exec (.will c p) s = .next (s.takeTrap w { cause := 0x0E })) ∧
    (l.eout = some dom → w.desc.nbeq ≠ 0 → w.didWill = false → act ≠ 0 → keysOk keys = false → exec (.will c p) s = .next (s.takeTrap w { cause := 0x0E })) ∧
    (l.eout = some dom → w.desc.nbeq ≠ 0 → w.didWill = false → act ≠ 0 → keysOk keys = true → (∀ r ∈ w.desc.beqlist, r < 256) →
      s.chooseRoute w dom group = some (s1, route, inDir) →
      ∃ t b, exec (.will c p) s = .next t ∧ t.blocks = s.blocks ++ [b] ∧ b.loc = .forming ∧ b.dom = dom ∧ b.group = group ∧ b.uid = w.uid ∧ b.e = w.desc.nbeq ∧
        b.route = route ∧ b.present = maskOf (keys.map (fun e => e.2 % 64)) ∧
        (∀ j r, j < w.desc.nbeq → w.desc.beqlist[j]? = some r → ∀ e ∈ keys, laneOf (b.data.getD j zeroV) (e.2 % 64) = laneOf (s.readV w r) e.1) ∧
        t.wave? w.uid = some ({ w.seal s.dtime with didWill := true }.advance 2 c .A) ∧ t.rf = s.rf)) ∧
  (∀ (s : State) (w : Wave) (c : Bool) (p : A2), s.issuing = some w → (∀ n, n < 256 → inWindows w n) → p.aa.toNat < 255 → p.ab.toNat + p.ac.toNat ≤ 256 →
    (∃ t, exec (.claim c p) s = .next t ∧ t.wave? w.uid = some (w.advance 2 c .A) ∧ t.rf = s.rf ∧
      wentOut s t w (some .LD) (.claim p.ab.toNat p.ac.toNat (p.fl.toNat / 2)
        ((lanesOf w.exec).map (fun l => (l, keyOf (s.readV w p.aa.toNat) (s.readV w (p.aa.toNat + 1)) l))) [])) ∧
    (∃ t, exec (.eprobe c p) s = .next t ∧ t.wave? w.uid = some (w.advance 2 c .A) ∧
      wentOut s t w (some .LD) (.regs ((wordsFrom 8 (toBytes 32 (s.probe w.part ((w.rs p.ac.toNat).toNat % 4096) ((w.pair p.ab.toNat).toNat % 2 ^ 34)))).mapIdx
        (fun i x => .s (p.aa.toNat + i) x))))) ∧
  (∀ (s : State) (o : Op) (w : Wave) (d kd l key : Nat), s.op? s.input.op = some o → o.waits = [] → s.portLost o.id = false → o.dropped = false → o.moved = [] →
    s.wave? o.uid = some w → o.kind = .claim d 1 kd [(l, key)] [] → s.claimWaits w o.id [(l, key)] = false → w.cx = (s.part w.part).active → (s.part w.part).switching = none →
    w.leaving = false → s.feeds = [] → (∀ b ∈ s.blocks, b.pend = []) → inWindows w d → l < 64 → kd ≠ 0 → kd < 16 →
    let b := (s.claimDomain w).bind (fun dom => s.holds w dom key)
    ∃ t w', exec .asyncWriteLands s = .next t ∧ t.op? o.id = none ∧ t.wave? o.uid = some w' ∧ (w'.rk kd).getLsbD l = b.isSome ∧
      laneOf (t.readV w' d) l = (match b with | some x => if 0 < x.e then laneOf (s.blockReg x 0) (key % 64) else 0 | none => 0))

/-- R88, R93 to R97, R101 to R104, R421: a birth's take delivers the free slots of its group, whose block is MOVING until they stand in the window, fills the window and makes the wave
READY; with KEEP the block keeps its slots, and without it the slots taken leave the block, which is freed when none is left (R96); a MOVING block reaches its Orchard slot; a residue place is written, as a PAD record or as the record of its block with the header
and the data of R102, absent slots being zero, and RESWIDX passes it; a domain whose time has come begins to close, and closes when
nothing remains. The model's choices in it: log entries 40, 41. -/
def Obligations.EstateEventResults : Prop :=
  (∀ (s : State) (w : Wave) (l : Launch) (b : Block) (dom g n : Nat) (lanes : LaneMask) (v : VReg), eventWave s w → w.life = .born →
    (w.cx = (s.part w.part).active → (s.part w.part).switching = none → w.takes = [g] → s.launch? w.launch = some l → l.ein = some dom →
      (s.domain w.part dom).state ≠ .open → ∃ t, exec .estateTake s = .next t ∧ t.wave? w.uid = some { w with takes := [] } ∧ comes t .estateTransferDone { uid := w.uid }) ∧
    (w.cx = (s.part w.part).active → (s.part w.part).switching = none → w.takes = [g] → s.launch? w.launch = some l → l.ein = some dom →
      (s.domain w.part dom).state = .open → s.takeWaits w.part dom g w.ticket = false → s.groupBlock w.part dom g = some b →
      ∃ t, exec .estateTake s = .next t ∧ comes t .estateTransferDone { uid := w.uid } ∧ leaves t w.uid (fun w' => w'.takes = [] ∧
        w'.rk 1 = w.rk 1 ||| maskOf (((w.groupLanes g).filter (fun e => (b.present &&& ~~~ s.claimedBy b.id w.uid).getLsbD e.2)).map Prod.fst)) ∧
        ((s.domain w.part dom).keep = true → (∃ e ∈ w.groupLanes g, (b.present &&& ~~~ s.claimedBy b.id w.uid).getLsbD e.2 = true) →
          ∃ b', t.block? b.id = some b' ∧ b'.loc = .moving ∧ b'.taker = some w.uid ∧ b'.present = b.present) ∧
        ((s.domain w.part dom).keep = false → (∃ e ∈ w.groupLanes g, (b.present &&& ~~~ s.claimedBy b.id w.uid).getLsbD e.2 = true) →
          ∃ b', t.block? b.id = some b' ∧ b'.loc = .moving ∧ b'.held = b.loc ∧ b'.taker = some w.uid ∧ ∀ k, k < 64 → b'.present.getLsbD k =
            (b.present.getLsbD k && !((w.groupLanes g).any (fun e => e.2 == k) && !(s.claimedBy b.id w.uid).getLsbD k)))) ∧
    (w.takes = [] → w.fill = [(n, lanes, v)] → inWindows w n → ∃ t w', exec .estateTransferDone s = .next t ∧ t.wave? w.uid = some w' ∧ w'.fill = [] ∧
      comes t .waveBirthDone { uid := w.uid } ∧ (∀ k, k < 64 → laneOf (t.readV w' n) k = if lanes.getLsbD k then laneOf v k else laneOf (s.readV w n) k) ∧
      ∀ b, s.block? b.id = some b → (∀ x ∈ s.blocks, x.id = b.id → x = b) → b.taker = some w.uid →
        (b.present = 0 → t.block? b.id = none) ∧
        (b.present ≠ 0 → b.held = .resident ∨ b.held = .orchard → t.block? b.id = some { b with loc := b.held, taker := none })) ∧
    (w.takes = [] → w.fill = [] → ∃ t, exec .waveBirthDone s = .next t ∧ leaves t w.uid (fun w' => w'.life = .ready ∧ w'.ckpt.isSome = true ∧ w'.s = w.s ∧ w'.pc = w.pc))) ∧
  (∀ (s : State) (b : Block) (k : Nat), s.block? s.input.idx = some b → b.loc = .moving → b.taker = none → b.route = .orchard k → b.pend = [] → b.e = 1 → s.destHeld b = false →
    s.orchardPa b.part k 0 % 256 = 0 → s.orchardPa b.part k 0 + 256 ≤ Config.dramBytes → (s.blockReg b 0).length = 64 →
    ∃ t, exec .estateEvictDone s = .next t ∧ memBytes t.mem (s.orchardPa b.part k 0) 256 = bytesFrom (s.blockReg b 0) ∧
      ∃ b', t.block? b.id = some b' ∧ b'.loc = .orchard ∧ b'.slot = k ∧ b'.present = b.present) ∧
  (∀ (s : State) (p : Place) (b : Block) (reason : Nat), s.places = [p] → p.part = s.input.part → s.placeReady p = true → s.placeFree p = true →
    s.placeBlock p = some b → b.route = .residue p.start reason → p.pad = 0 → p.part < s.parts.length → p.len = 64 + 256 * b.e →
    let off := p.start % (s.part p.part).resSize.toNat
    let at_ := (s.part p.part).resBase.toNat + off
    at_ + p.len ≤ Config.dramBytes → ∃ t, exec .residueRecordWritten s = .next t ∧ t.places = [] ∧
      (t.part p.part).resWidx = BitVec.ofNat 64 ((s.part p.part).resWidx.toNat + p.len) ∧
      memBytes t.mem at_ 64 = toBytes 64 (b.present.toNat + b.group * 2 ^ 64 + b.dom * 2 ^ 98 + b.e * 2 ^ 112 + 1 * 2 ^ 128 + reason * 2 ^ 136 +
        (1 + 4 * b.e) * 2 ^ 160 + b.btime.toNat % 2 ^ 40 * 2 ^ 192) ∧
      (∀ j l, j < b.e → l < 64 → memBytes t.mem (at_ + 64 + 256 * j + 4 * l) 4 =
        toBytes 4 (if b.present.getLsbD l then laneOf (s.blockReg b j) l else 0).toNat) ∧
      (∀ a, a < at_ ∨ at_ + p.len ≤ a → memByte t.mem a = memByte s.mem a) ∧
      (b.inDir = false → t.block? b.id = none) ∧
      (b.inDir = true → (s.part p.part).resRidx.toNat < p.start + p.len → ∃ b', t.block? b.id = some b' ∧ b'.loc = .residue ∧ b'.slot = off / 64 ∧
        b'.present = b.present)) ∧
  (∀ (s : State) (p : Place), s.places = [p] → p.part = s.input.part → s.placeReady p = true → s.placeFree p = true → s.placeBlock p = none → p.pad = 0 →
    p.part < s.parts.length → 64 ≤ p.len →
    let at_ := (s.part p.part).resBase.toNat + p.start % (s.part p.part).resSize.toNat
    at_ % 128 = 0 → at_ + 64 ≤ Config.dramBytes → ∃ t, exec .residueRecordWritten s = .next t ∧ t.places = [] ∧
      (t.part p.part).resWidx = BitVec.ofNat 64 ((s.part p.part).resWidx.toNat + p.len) ∧ memBytes t.mem at_ 64 = toBytes 64 (2 * 2 ^ 128 + p.len / 64 * 2 ^ 160)) ∧
  (∀ (s : State) (reason : Nat), let d := s.domain s.input.part s.input.dom
    (d.state = .closing reason → d.remaining = [] → d.closers = [] → d.heir = none →
      ∃ t, exec .estateCloseStep s = .next t ∧ (t.domain s.input.part s.input.dom).state = .closed) ∧
    (d.state = .open → d.timer ≠ 0 → d.openTime.toNat + d.timer ≤ s.dtime.toNat → d.cx = (s.part s.input.part).active → (s.part s.input.part).switching = none →
      s.blocks = [] → ∃ t, exec .domainTimerExpire s = .next t ∧ (t.domain s.input.part s.input.dom).state = .closing 3 ∧
        comes t .estateCloseStep { part := s.input.part, dom := s.input.dom }))

/-! ### Queues and packets -/

/-- R31, R34, R35, R54: the queue commands and NOTIFY on a queue of the device. An ENABLE of an unassigned function's queue, of a misaligned
descriptor, of one that cannot be read or fails a check of R31, or whose indices cannot be read, leaves the queue DISABLED with BAD_QUEUE. That NOTIFY's differences are taken modulo 2^64 is the model's choice (log entry 71); its other choices:
log entries 45, 46. -/
def Obligations.QueueCommandResults : Prop :=
  ∀ (s : State) (x : Queue), eventQueue s x →
    let part := (s.func x.fn).part
    let own : Space := { fn := x.fn, pv := false, pasid := 0 }
    let v := s.input.value.toNat
    (x.enabling = .no → x.state ≠ .disabled ∨ s.input.op ≠ 0 ∨ s.power ≠ .running ∨ (s.links[0]?).any (·.trained) = false →
      exec .qcmdEnable s = .next s) ∧
    let enables := x.state = .disabled ∧ x.enabling = .no ∧ s.input.op = 0 ∧ s.power = .running ∧ (s.links[0]?).any (·.trained) = true
    let fails : Prop := ∃ t, exec .qcmdEnable s = .next t ∧ queueAfter s t (fun y => y.state = .disabled ∧ y.cause = 8)
    (enables → (s.func x.fn).assigned = false → fails) ∧ (enables → x.qdescAddr.toNat % 128 ≠ 0 → fails) ∧
    (∀ s1, enables → s.cpAcquire.cpRead own part x.qdescAddr.toNat 128 = .fail s1 → fails) ∧
    (∀ s1 raw, enables → s.cpAcquire.cpRead own part x.qdescAddr.toNat 128 = .ok s1 raw → refusedDescriptor (leNat raw) → fails) ∧
    (∀ s1 s2 raw d, enables → s.cpAcquire.cpRead own part x.qdescAddr.toNat 128 = .ok s1 raw → parseQDesc raw = some d →
      s1.cpRead (Queue.space { x with desc := d }) part d.ridxAddr 8 = .fail s2 → fails) ∧
    (∀ s1 s2 s3 raw d r, enables → s.cpAcquire.cpRead own part x.qdescAddr.toNat 128 = .ok s1 raw → parseQDesc raw = some d →
      s1.cpRead (Queue.space { x with desc := d }) part d.ridxAddr 8 = .ok s2 r →
      s2.cpRead (Queue.space { x with desc := d }) part d.widxAddr 8 = .fail s3 → fails) ∧
    (∀ s2 s3 d r w, x.enabling = .indices d → s.input.op = 1 → s.cpRead (Queue.space { x with desc := d }) part d.ridxAddr 8 = .ok s2 r →
      s2.cpRead (Queue.space { x with desc := d }) part d.widxAddr 8 = .ok s3 w → ∃ t, exec .qcmdEnable s = .next t ∧ queueAfter s t (fun y =>
        y.state = (if leNat r < leNat w then .active else .idle) ∧ y.desc = d ∧ y.ridx = leNat r ∧ y.widx = leNat w ∧ y.enabling = .no)) ∧
    (∀ s1 s2 s3 raw d r w, enables → (s.func x.fn).assigned = true → x.qdescAddr.toNat % 128 = 0 →
      s.cpAcquire.cpRead own part x.qdescAddr.toNat 128 = .ok s1 raw → parseQDesc raw = some d → s1.cpRead (Queue.space { x with desc := d }) part d.ridxAddr 8 = .ok s2 r →
      s2.cpRead (Queue.space { x with desc := d }) part d.widxAddr 8 = .ok s3 w → ∃ t, exec .qcmdEnable s = .next t ∧ queueAfter s t (fun y =>
        y.state = (if leNat r < leNat w then .active else .idle) ∧ y.desc = d ∧ y.ridx = leNat r ∧ y.widx = leNat w ∧ y.packets = [] ∧ y.records = 0)) ∧
    (x.state = .idle ∨ x.state = .active → ∃ t, exec .qcmdDisable s = .next t ∧ queueAfter s t (fun y =>
      (x.packets = [] → y.state = .disabled) ∧ (x.packets ≠ [] → y.state = x.state ∧ y.disabling = true))) ∧
    (x.state = .disabled → ∃ t, exec .qcmdDisable s = .next t ∧ queueAfter s t (fun y => y = { x with enabling := .no })) ∧
    (s.launches = [] → s.feeds = [] → (∀ w ∈ s.waves, ¬ (w.fn = x.fn ∧ w.queue = x.q)) → ∃ t, exec .qcmdReset s = .next t ∧ queueAfter s t (fun y =>
      y.state = .disabled ∧ y.cause = 0 ∧ y.packets = [] ∧ y.tileClamp = false ∧ y.expired = false ∧ y.notifyBack = false ∧ y.notifySize = false ∧ y.notifyRange = false)) ∧
    (∀ w, x.state ≠ .disabled → s.launches = [] → s.feeds = [] → s.waves = [w] → w.fn = x.fn → w.queue = x.q → w.life = .ready → w.cx = (s.part w.part).active →
      ∃ t, exec .qcmdReset s = .next t ∧ leaves t w.uid (fun w' => w'.life = .exiting ∧ w'.halted = true)) ∧
    (∃ t, exec .qcmdClear s = .next t ∧ queueAfter s t (fun y => y.tileClamp = false ∧ y.expired = false ∧ y.notifyBack = false ∧ y.notifySize = false ∧
      y.notifyRange = false ∧ y.state = x.state ∧ y.ridx = x.ridx ∧ y.widx = x.widx)) ∧
    (∃ t, exec .notify s = .next t ∧ queueAfter s t (fun y => y.ridx = x.ridx ∧ (x.state ≠ .idle → y.state = x.state) ∧
      (s.input.addr = 0 → s.input.size = 8 → x.widx ≤ v → (v + 2 ^ 64 - x.ridx) % 2 ^ 64 ≤ 2 ^ x.desc.qlog → y.widx = v ∧
        (x.state = .idle → y.state = if x.ridx < v then .active else .idle)) ∧
      (s.input.addr = 0 → s.input.size = 8 → v < x.widx → y.widx = x.widx ∧ y.notifyBack = true) ∧
      (s.input.addr = 0 → s.input.size = 8 → x.widx ≤ v → 2 ^ x.desc.qlog < (v + 2 ^ 64 - x.ridx) % 2 ^ 64 → y.widx = x.widx ∧ y.notifyRange = true) ∧
      (s.input.addr = 0 → s.input.size = 4 → y.widx = x.widx ∧ y.notifySize = true) ∧ (8 ≤ s.input.addr → y = x)))

/-- R38, R39, R42 to R44, R47, R49 to R53: a packet is consumed and its read index published, with its kernel descriptor (R19) if it has one; one whose
type is reserved, or which breaks R43, R47 or R53, whose kernel descriptor cannot be used, or which cannot be read, is not consumed and puts the queue
into ERROR with its cause (R35, R38); each packet type's start; the polls; a barrier one of
whose dependencies the CP cannot read gives SIGNAL_FAULT (R47). That another dependency which is satisfied comes before that is the model's inference
(log entry 75); that a feed's packet waits unstarted for its slot, and what its start does to its domains (R84, R103), is the model's choice
(log entry 85), and log entry 45 holds the others. -/
def Obligations.PacketFlowResults : Prop :=
  ∀ (s : State) (x : Queue), eventQueue s x →
    let part := (s.func x.fn).part
    (∀ s1 s2 h raw a b p, x.state = .idle ∨ x.state = .active → x.disabling = false → x.ridx < x.widx → s.served x.fn = true → ProxiesOk s →
      s.cpRead x.space part (x.slotAddr x.ridx) 4 = .ok s1 h → (h.headD 0).getLsbD 0 = true → s1.cpAcquire.cpRead x.space part (x.slotAddr x.ridx) 64 = .ok s2 raw →
      p = Packet.mk x.ridx (BitVec.ofNat 512 (leNat raw)) none .consumed false 0 0 false 0 → p.wellFormed = true → p.hasKernel = false →
      s2.page (cpView x.space part) (x.slotAddr x.ridx) true = .ok a → s2.page (cpView x.space part) x.desc.ridxAddr true = .ok b →
      s2.runHeld none a.pa 1 = false → s2.runHeld none b.pa 8 = false → a.pa < Config.dramBytes → b.pa + 8 ≤ Config.dramBytes → b.pa % 8 = 0 →
      ∃ t, exec .packetConsume s = .next t ∧ memBytes t.mem b.pa 8 = toBytes 8 (x.ridx + 1) ∧
        queueAfter s t (fun y => y.ridx = x.ridx + 1 ∧ y.packets = x.packets ++ [p] ∧ y.state = x.state)) ∧
    -- A packet is available, and its header reads as V = 1; a refused one stays in the ring.
    let available : Prop := (x.state = .idle ∨ x.state = .active) ∧ x.disabling = false ∧ x.ridx < x.widx ∧ s.served x.fn = true
    let refused (cause : Nat) : Prop := ∃ t, exec .packetConsume s = .next t ∧
      queueAfter s t (fun y => y.state = .error ∧ y.cause = cause ∧ y.ridx = x.ridx ∧ y.packets = x.packets)
    (∀ s1, available → s.cpRead x.space part (x.slotAddr x.ridx) 4 = .fail s1 → refused 4) ∧
    (∀ s1 h, available → s.cpRead x.space part (x.slotAddr x.ridx) 4 = .ok s1 h → (h.headD 0).getLsbD 0 = true →
      let body := s1.cpAcquire.cpRead x.space part (x.slotAddr x.ridx) 64
      (∀ s2 raw p, body = .ok s2 raw → p = Packet.mk x.ridx (BitVec.ofNat 512 (leNat raw)) none .consumed false 0 0 false 0 →
        (p.ty = 0 ∨ 8 < p.ty ∨ p.wellFormed = false → refused 1) ∧
        (p.wellFormed = true → p.hasKernel = true → let kernel := s2.cpRead x.space part (p.fld 120 64) 128
          (∀ s3, kernel = .fail s3 → refused 2) ∧ (∀ s3 d, kernel = .ok s3 d → parseKDesc (p.fld 120 64) d = none → refused 2) ∧
          (∀ s3 d k a b, kernel = .ok s3 d → parseKDesc (p.fld 120 64) d = some k → ProxiesOk s →
            s3.page (cpView x.space part) (x.slotAddr x.ridx) true = .ok a → s3.page (cpView x.space part) x.desc.ridxAddr true = .ok b →
            s3.runHeld none a.pa 1 = false → s3.runHeld none b.pa 8 = false → a.pa < Config.dramBytes → b.pa + 8 ≤ Config.dramBytes → b.pa % 8 = 0 →
            ∃ t, exec .packetConsume s = .next t ∧ memBytes t.mem b.pa 8 = toBytes 8 (x.ridx + 1) ∧
              queueAfter s t (fun y => y.ridx = x.ridx + 1 ∧ y.packets = x.packets ++ [{ p with desc := some k }] ∧ y.state = x.state))))) ∧
    -- What the start of a launch or tile launch does beside (R84, R103, R115).
    let begins (t : State) (p : Packet) : Prop :=
      (∀ x ∈ t.icache, (s.part part).clusters.testBit (coreCluster x.core) = false) ∧
      ((∀ e ∈ s.domains, e.2.heir ≠ some s.nextLaunch) →
        (p.flag 18 = true → (s.domain part (p.fld 55 44)).state = .closed → (t.domain part (p.fld 55 44)).state = .open) ∧
        (p.flag 17 = true → (s.domain part (p.fld 43 32)).state = .open → (s.domain part (p.fld 43 32)).heir = none →
          (t.domain part (p.fld 43 32)).heir = some s.nextLaunch))
    (∀ p k, starts s x p .launch → p.desc = some k → s.launch? s.nextLaunch = none → 0 < p.fld 295 256 → ∃ t l, exec .launch s = .next t ∧
      t.launch? s.nextLaunch = some l ∧ l.items = p.fld 295 256 ∧ l.nwaves = (p.fld 295 256 + 63) / 64 ∧ l.desc = k ∧ l.args = BitVec.ofNat 64 (p.fld 184 128) ∧
      l.prio = min (p.fld 11 9) x.desc.pmax ∧ l.nextWave = 0 ∧ packetStands s t p.idx .started ∧ comes t .placementPass { part := part } ∧ begins t p) ∧
    (∀ p k s1 count, starts s x p .tilelaunch → p.desc = some k → s.launch? s.nextLaunch = none →
      s.readCount x.space part (p.fld 376 320) = .ok s1 count true → 0 < min count (p.fld 415 384) → ∃ t l, exec .tilelaunch s = .next t ∧
      t.launch? s.nextLaunch = some l ∧ l.nwaves = (min count (p.fld 415 384) + 1) / 2 ∧ l.tile = some (p.fld 312 256, min count (p.fld 415 384)) ∧
      packetStands s t p.idx .started ∧ begins t p) ∧
    (∀ p, starts s x p .tilelaunchFeed → (∃ g, s.feed? part (p.fld 419 416) = some g ∧ (s.launch? g.launch).isSome = true) →
      exec .tilelaunchFeed s = .next s) ∧
    (∀ p, starts s x p .tilelaunchFeed → (∀ g, s.feed? part (p.fld 419 416) = some g → s.launch? g.launch = none) → s.launch? s.nextLaunch = none →
      ∃ t f, exec .tilelaunchFeed s = .next t ∧
      t.feed? part (p.fld 419 416) = some f ∧ f.list = p.fld 312 256 ∧ f.countAddr = p.fld 376 320 ∧ f.maxrec = p.fld 415 384 ∧ f.next = 0 ∧ f.launch = s.nextLaunch ∧ (t.launch? s.nextLaunch).isSome = true ∧
      packetStands s t p.idx .started ∧ begins t p ∧
      ((∀ e ∈ s.domains, e.2.heir ≠ some s.nextLaunch) → (∀ w ∈ s.waves, w.launch ≠ s.nextLaunch) → p.flag 17 = true →
        (s.domain part (p.fld 43 32)).state = .open → (s.domain part (p.fld 43 32)).heir = none →
        (t.domain part (p.fld 43 32)).state = if (s.domain part (p.fld 43 32)).closeOnHeir then .closing 2 else .open)) ∧
    (∀ p f s1 count fin, x.packets.find? (fun y => y.idx == s.input.idx) = some p → s.served x.fn = true → p.ty = 2 → p.feed = true →
      s.feeds = [f] → f.fn = x.fn → f.queue = x.q → f.idx = p.idx → f.slot = p.fld 419 416 → f.final = false → f.bad = false → s.waves = [] → s.readCount f.space f.part f.countAddr = .ok s1 count fin →
      ∃ t, exec .tileCountPoll s = .next t ∧ t.feeds = [{ f with count := count, final := fin }]) ∧
    (∀ p, starts s x p .barrierAnd → ∃ t, exec .barrierAnd s = .next t ∧ packetStands s t p.idx .started) ∧
    (∀ p, starts s x p .barrierOr → ∃ t, exec .barrierOr s = .next t ∧ packetStands s t p.idx .started) ∧
    (∀ p s1 met, x.packets.find? (fun y => y.idx == s.input.idx) = some p → s.served x.fn = true → p.stage = .started → p.ty = 3 ∨ p.ty = 4 →
      s.readDeps x.space part p.deps = (s1, met) →
      ((p.ty = 3 → ∀ d ∈ met, d = .met true) → (p.ty = 4 → .met true ∈ met) → ∃ t, exec .barrierDepPoll s = .next t ∧ packetStands s t p.idx .complete ∧
        comes t .packetComplete { fn := x.fn, queue := x.q, idx := p.idx }) ∧
      (x.state = .idle ∨ x.state = .active → (p.ty = 3 → ∃ d ∈ met, d ≠ .met true) → (p.ty = 4 → .met true ∉ met) → .bad ∈ met →
        ∃ t, exec .barrierDepPoll s = .next t ∧ queueAfter s t (fun y => y.state = .error ∧ y.cause = 5)) ∧
      ((p.ty = 3 → ∃ d ∈ met, d ≠ .met true) → (p.ty = 4 → .met true ∉ met) → .bad ∉ met → ∃ t, exec .barrierDepPoll s = .next t ∧ packetStands s t p.idx .started))

/-- R40, R41, R48, R103: what SIGNAL, ESTATE_CLOSE, COPY and GRAMMAR_BIND packets do, a passed deadline, and the completion signal. An ESTATE_CLOSE of an
OPEN domain that no earlier packet of its queue names starts, and the close with it; one of a domain that an earlier launch of the queue names
waits while a wave of that launch has not retired; one of a CLOSED domain completes. The model's choices in it: log entries 41, 45. -/
def Obligations.PacketEffectResults : Prop :=
  ∀ (s : State) (x : Queue) (p : Packet), eventQueue s x →
    let part := (s.func x.fn).part
    let target (s : State) (g : Page) (a : Nat) : Prop :=
      s.page (cpView x.space part) a true = .ok g ∧ g.pa % 8 = 0 ∧ g.pa + 8 ≤ Config.dramBytes ∧ s.lineBad (g.pa / 128) = false ∧ s.runHeld none g.pa 8 = false
    (∀ g, starts s x p .signalStore → ProxiesOk s → target s g (p.fld 120 64) → ∃ t, exec .signalStore s = .next t ∧
      memBytes t.mem g.pa 8 = toBytes 8 (p.fld 191 128) ∧ packetStands s t p.idx .complete) ∧
    (∀ g, starts s x p .signalAdd → ProxiesOk s → target s g (p.fld 120 64) → ∃ t, exec .signalAdd s = .next t ∧ packetStands s t p.idx .complete ∧
      leNat (memBytes t.mem g.pa 8) = (leNat (memBytes (s.recall (g.pa / 128) none).mem g.pa 8) + p.fld 191 128) % 2 ^ 64) ∧
    let dom := p.fld 43 32
    (starts s x p .estateClose → (∀ y ∈ x.packets, y.idx < p.idx → y.names dom = false) → (∀ y ∈ x.packets, y.stage = .started → y.waits = false) →
      (s.domain part dom).state = .open →
      ∃ t, exec .estateClose s = .next t ∧ packetStands s t p.idx .started ∧ (t.domain part dom).state = .closing 1 ∧
        (x.fn, x.q, p.idx) ∈ (t.domain part dom).closers ∧ comes t .estateCloseStep { part := part, dom := dom }) ∧
    (∀ y l w, starts s x p .estateClose → x.packets = [y, p] → y.idx < p.idx → y.names dom = true → y.stage = .started →
      s.launch? y.launch = some l → w ∈ s.waves → w.launch = l.id → ∃ t, exec .estateClose s = .next t ∧ t.domain part dom = s.domain part dom ∧
        queueAfter s t (fun z => ∃ r ∈ z.packets, r.idx = p.idx ∧ r.stage = .started ∧ r.waits = true)) ∧
    (starts s x p .estateClose → x.packets = [p] → (s.domain part (p.fld 43 32)).state = .closed → ∃ t, exec .estateClose s = .next t ∧ packetStands s t p.idx .complete) ∧
    (starts s x p .copy → ∃ t o, exec .copy s = .next t ∧ packetStands s t p.idx .started ∧ o ∈ t.ops ∧ o.id = s.nextOp ∧ o.packet = some (x.fn, x.q, p.idx) ∧
      o.kind = .copy (p.fld 184 128) (p.fld 120 64) (p.fld 303 256) false false ∧ comes t .copyComplete { op := s.nextOp, core := 192 * (s.func x.fn).ctx }) ∧
    (starts s x p .grammarBind → ∃ t o, exec .grammarBind s = .next t ∧ packetStands s t p.idx .started ∧ o ∈ t.ops ∧ o.id = s.nextOp ∧
      o.packet = some (x.fn, x.q, p.idx) ∧ ∃ hist, o.kind =
        .bramble none [{ fn := .gbind, lane := 0, ctx := p.fld 120 64, arg := p.fld 184 128, imm := p.fld 271 256, hist := hist }] false [] ∧
      ((∀ g, s.page (s.packetView x.space part) (p.fld 120 64) false = .ok g → isPeerPa g.pa = false) → hist = none)) ∧
    (x.packets.find? (fun y => y.idx == s.input.idx) = some p →
      (p.stage = .consumed → p.late s.dtime = true → s.served x.fn = true → ∃ t, exec .packetDeadlineExpire s = .next t ∧ packetStands s t p.idx .complete ∧
        queueAfter s t (fun y => y.expired = true ∧ y.expIdx = p.idx % 2 ^ 16)) ∧
      (p.stage = .complete → p.signal = 0 → p.fail = 0 → ∃ t, exec .packetComplete s = .next t ∧ queueAfter s t (fun y => ∀ z ∈ y.packets, z.idx ≠ p.idx) ∧
        (p.flag 16 = true → x.desc.ie = true → t.msix = (x.fn, x.desc.vec) :: s.msix)) ∧
      (∀ g, p.stage = .complete → p.signal ≠ 0 → p.fail = 0 → ProxiesOk s → target s.cpRelease g p.signal → ∃ t, exec .packetComplete s = .next t ∧
        queueAfter s t (fun y => ∀ z ∈ y.packets, z.idx ≠ p.idx) ∧
        leNat (memBytes t.mem g.pa 8) = (leNat (memBytes (s.cpRelease.recall (g.pa / 128) none).mem g.pa 8) + 2 ^ 64 - 1) % 2 ^ 64))

/-! ### Placement, the end of waves, contexts -/

/-- R59 to R62, R65, R72, R143: a pass places the next wave of the only launch where it fits; a card is born as a child; a hold
that has run out is released; a blocked wave stops the pass once PBFLIM has passed. The model's choices in it: log entries 16, 17, 18, 58. -/
def Obligations.PlacementResults : Prop :=
  (∀ (s : State) (l : Launch) (site : Site) (g : Nat), s.placing s.input.part = true → (s.part s.input.part).making = none → s.passItems s.input.part = [.next l.id] → s.cards = [] → s.launch? l.id = some l →
    l.part = s.input.part → l.nextIndex = some g → g = l.nextWave → l.tile = none → l.ein = none → s.wave? s.nextUid = none →
    s.chooseFor (s.wantSpec l (l.itemSpec g) (s.openCores l.part)) = .place site →
    ∃ t l', exec .placementPass s = .next t ∧ t.launch? l.id = some l' ∧ l'.nextWave = l.nextWave + 1 ∧ comes t .waveBirthDone { uid := s.nextUid } ∧
      comes t .placementPass { part := s.input.part } ∧ leaves t s.nextUid (fun w => w.core = site.core ∧ w.slot = site.slot ∧ w.life = .born ∧ w.launch = l.id ∧
        w.index = g ∧ w.pc = l.desc.entry ∧ w.exec = maskWhere (fun k => decide (64 * g + k < l.items)) ∧ w.args = l.args ∧
        w.icount = BitVec.ofNat 64 l.items ∧ w.ibase = BitVec.ofNat 64 (64 * g) ∧ w.fmt = 0x277 ∧ w.scc = 0 ∧ w.maskStack = [] ∧ w.callStack = [] ∧
        ∀ r, w.rs r = 0)) ∧
  (∀ (s : State) (c : Card) (site : Site), s.cardSite s.input.core = some (c, site) → s.placing c.part = true → c.cx = (s.part c.part).active →
    (s.passItems c.part).filter (fun x => decide (c.prio < s.itemPrio x)) = [] → s.wave? s.nextUid = none →
    ∃ t, exec .taskCardBirth s = .next t ∧ t.cards = dropHead s.input.core s.cards ∧ comes t .waveBirthDone { uid := s.nextUid } ∧
      leaves t s.nextUid (fun w => w.child = true ∧ w.pc = c.entry ∧ w.exec = maskWhere (fun k => decide (k < c.lanes)) ∧ w.args = c.args ∧ w.sdepth = c.depth ∧
        w.parent = c.parent ∧ w.core = site.core)) ∧
  (∀ (s : State) (l : Launch) (h : Nat × Nat × DWord), s.launch? s.input.idx = some l → l.holds.find? (fun x => x.1 == s.input.slot) = some h →
    h.2.2.toNat ≤ s.dtime.toNat → ∃ t l', exec .affinityHoldExpire s = .next t ∧ t.launch? s.input.idx = some l' ∧ l'.released = l.released ++ [h.1] ∧
      l'.holds = l.holds.filter (fun x => x.1 != h.1)) ∧
  (∀ (s : State) (l : Launch) (g : Nat) (time : DWord), s.launch? l.id = some l → l.part = s.input.part → l.blocked = [(g, time, false)] →
    time.toNat ≤ s.dtime.toNat →
    ∃ t, exec .backfillLimitExpire s = .next t ∧ t.launch? l.id = some { l with blocked := [(g, time, true)] } ∧ comes t .placementPass { part := s.input.part })

/-- R376, R377, R381 to R383, R391, R392: a wave with nothing outstanding retires; a chosen wave leaves its core and a restored one goes on
at its checkpoint; a context switch halts the outgoing context and starts the incoming one. The model's choices in it: log entries 42, 43, 44. -/
def Obligations.WaveEndAndContextEvents : Prop :=
  (∀ (s : State) (w : Wave), eventWave s w →
    (w.life = .exiting → w.cx = (s.part w.part).active → s.retireHeld w = false → s.retireWaits w = false →
      s.cohortOf w.uid = none ∨ s.flushHeld w.core = false → ∃ t, exec .waveRetire s = .next t ∧ t.wave? w.uid = none ∧
      comes t .placementPass { part := w.part }) ∧
    (w.life = .exiting → s.retireWaits w = true → exec .waveRetire s = .next s) ∧
    (w.chosen = true → w.life = .ready → w.grp = [] → w.sealFlag = false → w.inTrap = false → (∀ e ∈ s.tags, w.ownsSpad (8 * e.1) = false) →
      s.offWaits w = [] → s.flushHeld w.core = false →
      ∃ t, exec .waveTakeOff s = .next t ∧ leaves t w.uid (fun w' => w'.life = .preempted ∧ w'.chosen = false ∧ w'.ckpt = w.ckpt)) ∧
    (∀ c kept, w.life = .restoring → w.ckpt = some kept → c = (if s.areaThere w then (s.loadCheckpoint w).2 else kept) → s.liveOf w.uid = none → s.areaPoison w = none →
      s.runHeld none (s.ckptArea w) 524288 = false → ∃ t, exec .waveRestartDone s = .next t ∧
      leaves t w.uid (fun w' => w'.life = .ready ∧ w'.pc = c.head ∧ w'.exec = c.exec ∧ w'.k = c.k ∧ w'.fmt = c.fmt ∧ w'.scc = c.scc ∧
        w'.maskStack = c.maskStack ∧ w'.callStack = c.callStack ∧ w'.tbudget = c.tbudget ∧ w'.grp = [] ∧ w'.xfer = none))) ∧
  (∀ (s : State), s.input.part < s.parts.length → s.input.part < 16 →
    let n := s.input.part
    let p := s.part n
    (p.live = true → p.confidential = false → p.switching = none → s.input.value.toNat < 3 → s.input.value.toNat ≠ p.active →
      ∃ t, exec .pcsw s = .next t ∧ (t.part n).switching = some (s.input.value.toNat, false) ∧ comes t .contextHaltDone { part := n }) ∧
    (3 ≤ s.input.value.toNat ∨ s.input.value.toNat = p.active → exec .pcsw s = .next s) ∧
    (p.live = true → p.slice ≠ 0 → p.switching = none → p.activeSince.toNat + p.slice.toNat ≤ s.dtime.toNat → s.hasWork n ((p.active + 1) % 3) = true →
      ∃ t, exec .contextSliceExpire s = .next t ∧ (t.part n).switching = some ((p.active + 1) % 3, false)) ∧
    (∀ c, p.switching = some (c, false) → s.halted n = true → ∃ t, exec .contextHaltDone s = .next t ∧ (t.part n).switching = some (c, true) ∧
      (∀ h ∈ t.holders, (s.partCores n).contains h.core = false) ∧ comes t .contextRestoreDone { part := n } ∧
      ∀ w ∈ s.waves, w.part = n → w.cx = p.active → ∀ i, w.life = .parked (.emulate i) → ∃ w' ∈ t.waves, w'.uid = w.uid ∧ w'.life = .ready ∧ w'.pc = w.pc) ∧
    (∀ c, p.switching = some (c, true) → ∃ t, exec .contextRestoreDone s = .next t ∧ (t.part n).active = c ∧ (t.part n).switching = none ∧
      (t.part n).activeSince = s.dtime))

/-! ### The device and its host -/

/-- R400, R406 to R410: bring-up, power, the counters of field life, and trust. The model's choices in it: log entries 5, 8, 50, 52. -/
def Obligations.PowerLifeAndTrustResults : Prop :=
  ∀ (s : State) (x : FirmwareImage),
    let count (t : State) (i : Nat) : DWord := kvGet 0 t.life i
    let plus (v : DWord) : DWord := if v = BitVec.allOnes 64 then v else v + 1
    (∃ t, exec .powerOn s = .next t ∧ t.waves = [] ∧ t.queues = [] ∧ t.ops = [] ∧ t.launches = [] ∧ (∀ a, a < Config.dramBytes → memByte t.mem a = 0) ∧
      (∀ n, n < 16 → (t.part n).live = false) ∧ t.running = (s.flash.filterMap id).find? imagePasses ∧ (t.running.isSome = true → t.power = .running) ∧
      (t.running = none → t.power = .recovery) ∧ (∀ l ∈ t.links, l.trained = true) ∧ (s.power = .off → count t 1 = plus (kvGet 0 s.lifeSaved 1))) ∧
    (s.input.img = some x → s.power = .recovery → s.input.slot < 2 → ∃ t, exec .recoveryImageLoad s = .next t ∧
      t.flash = s.flash.set s.input.slot (some x) ∧ t.running = (if imagePasses x then some x else s.running) ∧
      t.power = (if imagePasses x then .running else .recovery)) ∧
    exec .lifeCommit s = .next { s with lifeSaved := s.life } ∧
    (∃ t, exec .powerDown s = .next t ∧ t.power = .off ∧ t.lifeSaved = s.life ∧ t.waves = [] ∧ t.queues = [] ∧ ∀ a, a < Config.dramBytes → memByte t.mem a = 0) ∧
    (∃ t, exec .powerOnHour s = .next t ∧ count t 0 = plus (count s 0) ∧
      count t (0x10 + min 31 (s.input.size / 5)) = plus (count s (0x10 + min 31 (s.input.size / 5))) ∧ t.mem = s.mem ∧ t.waves = s.waves) ∧
    exec .thermalThrottle s = .next { s with clockMHz := if 100 < s.clockMHz then s.clockMHz - 100 else s.clockMHz } ∧
    (∃ t, exec .thermalTrip s = .next t ∧ t.power = .off ∧ count t 2 = plus (count s 2) ∧ t.waves = [] ∧ ∀ l ∈ t.links, l.trained = false) ∧
    (1 ≤ s.input.fn → s.input.fn < 65 → s.funcs.length = 65 → s.parts.length = 16 → let f := s.func s.input.fn
      (f.tdi = .unlocked → ∃ t, exec .tdiConfigLocked s = .next t ∧ (t.func s.input.fn).tdi = .locked ∧
        (f.assigned = true → f.part < 16 → (t.part f.part).confidential = true)) ∧
      (f.tdi ≠ .unlocked → f.assigned = true → s.queues = [] → s.stillWrites f.part = true → ∃ t, exec .tdiLeaveRun s = .next t ∧
        t.func s.input.fn = f ∧ Turn.ev .tdiLeaveRun { s.input with op := 1 } ∈ t.waiting) ∧
      (f.tdi ≠ .unlocked → f.assigned = true → f.part < 16 → s.queues = [] → s.stillWrites f.part = false → (∀ j, j < 65 → (s.func j).assigned = true → (s.func j).part = f.part → j = s.input.fn) →
        ∃ t, exec .tdiLeaveRun s = .next t ∧ (t.func s.input.fn).tdi = .unlocked ∧ (t.part f.part).confidential = false ∧
        ∀ a, (s.part f.part).dbase * 2 ^ 30 ≤ a → a < ((s.part f.part).dbase + (s.part f.part).dsize) * 2 ^ 30 → memByte t.mem a = 0)) ∧
    (s.running = some x → ∃ t r, exec .attestationRequest s = .next t ∧ t.hostOut = r :: s.hostOut ∧ r.take 4 = toBytes 4 0x50545341 ∧
      (r.drop 4).take 32 = toBytes 32 s.input.nonce.toNat ∧ (r.drop 36).take 48 = toBytes 48 x.bodyDigest.toNat)

/-- R319, R399 to R405: links and peer ports train and go down; a peer's and the host's requests act at their homes or are turned
away. The model's choices in it: log entries 13, 49. -/
def Obligations.LinkPeerAndHostResults : Prop :=
  (∀ (s : State) (l : Link), s.links[s.input.port]? = some l → s.input.slot = 16 ∨ s.input.slot = 8 ∨ s.input.slot = 4 → 25 ≤ s.input.size → s.input.size ≤ 1280 →
    ∃ t, exec .pcieLinkTrain s = .next t ∧ t.links[s.input.port]? = some { l with trained := true, width := s.input.slot, rate := s.input.size }) ∧
  (∀ (s : State) (p : Port), s.ports[s.input.port]? = some p →
    let peer : Half := s.input.value.truncate 16
    (∃ t p', exec .peerPortTrain s = .next t ∧ t.ports[s.input.port]? = some p' ∧ p'.neighbour = peer ∧ p'.trained = true ∧
      (p'.up = true ↔ s.peerId ≠ 0 ∧ peer ≠ 0 ∧ peer ≠ s.peerId ∧ s.windowNames s.input.port peer.toNat = true)) ∧
    (p.up = true → ∃ t, exec .peerPortDown s = .next t ∧
      t.ports[s.input.port]? = some { p with up := false, outstanding := [], lost := p.lost ++ p.outstanding.map (fun id => (id, s.dtime + 50000)) }) ∧
    (p.up = false → exec .peerPortDown s = .next s) ∧
    ((∀ e ∈ p.lost, e.2.toNat ≤ s.dtime.toNat ∧ ∀ o ∈ s.ops, o.id ≠ e.1) → ∃ t, exec .peerDownTimeout s = .next t ∧
      t.ports[s.input.port]? = some { p with lost := [] }) ∧
    (∀ o time, s.ops = [o] → o.kind = .store → p.lost = [(o.id, time)] → time.toNat ≤ s.dtime.toNat → ∃ t, exec .peerDownTimeout s = .next t ∧ t.ops = []) ∧
    let free (n : Nat) : Prop := s.runHeld none s.input.addr n = false ∧ s.queuedBefore .peerRequestIn s.input.port = false
    (p.up = true → s.input.write = true → s.exportOk p.neighbour.toNat s.input.addr s.input.data.length true = true → free s.input.data.length → s.input.addr % 128 + s.input.data.length ≤ 128 →
      ∃ t, exec .peerRequestIn s = .next t ∧ memBytes t.mem s.input.addr s.input.data.length = s.input.data ∧
        ∀ a, a < s.input.addr ∨ s.input.addr + s.input.data.length ≤ a → memByte t.mem a = memByte s.mem a) ∧
    (p.up = true → s.input.write = false → s.exportOk p.neighbour.toNat s.input.addr s.input.size false = true → free s.input.size →
      (linesOf s.input.addr s.input.size).any s.lineBad = false →
      ∃ t, exec .peerRequestIn s = .next t ∧ t.hostOut = memBytes t.mem s.input.addr s.input.size :: s.hostOut) ∧
    (p.up = true → s.input.write = true → s.exportOk p.neighbour.toNat s.input.addr s.input.data.length true = false →
      ∃ t, exec .peerRequestIn s = .next t ∧ t.mem = s.mem)) ∧
  (∀ (s : State), let a := s.input.addr
    (a % 128 + s.input.data.length ≤ 128 → a + s.input.data.length ≤ Config.dramBytes → s.sealedBytes a s.input.data.length s.input.fn = false →
      s.runHeld none a s.input.data.length = false →
      ∃ t, exec .hostWriteIn s = .next t ∧ memBytes t.mem a s.input.data.length = s.input.data ∧
        ∀ x, x < a ∨ a + s.input.data.length ≤ x → memByte t.mem x = memByte s.mem x) ∧
    (s.sealedBytes a s.input.data.length s.input.fn = true → a < Config.sysBase → exec .hostWriteIn s = .next s) ∧
    (Config.sysBase ≤ a → a + s.input.data.length ≤ Config.peerBase → ∃ t, exec .hostWriteIn s = .next t ∧
      memBytes t.mem a s.input.data.length = s.input.data ∧ ∀ x, x < a ∨ a + s.input.data.length ≤ x → memByte t.mem x = memByte s.mem x) ∧
    (s.input.port = 0 → a + s.input.size ≤ Config.dramBytes → s.sealedBytes a s.input.size s.input.fn = false → s.runHeld none a s.input.size = false →
      (linesOf a s.input.size).any s.lineBad = false →
      ∃ t, exec .hostReadIn s = .next t ∧ t.hostOut = memBytes t.mem a s.input.size :: s.hostOut) ∧
    (s.input.port = 0 → a + s.input.size ≤ Config.dramBytes → s.sealedBytes a s.input.size s.input.fn = true →
      exec .hostReadIn s = .next { s with hostOut := [] :: s.hostOut }) ∧
    (∀ x q, s.input.port = 1 → s.input.fn < 65 → q < 256 → s.queue? s.input.fn q = some x →
      let answers (b : List Byte) : Prop := exec .hostReadIn s = .next { s with hostOut := b :: s.hostOut }
      (a = 0x10000 + 16 * q → s.input.size = 8 → answers (toBytes 8 x.qdescAddr.toNat)) ∧
      (a = 0x10008 + 16 * q → s.input.size = 4 → answers (toBytes 4 (match x.state with | .idle => 0 | .active => 1 | .error => 2 | .disabled => 3)))) ∧
    (∀ x, s.input.port = 2 → s.input.fn < 65 → s.input.queue < 256 → s.queue? s.input.fn s.input.queue = some x →
      let answers (b : List Byte) : Prop := exec .hostReadIn s = .next { s with hostOut := b :: s.hostOut }
      (a = 0 → s.input.size = 8 → x.widx < 2 ^ 64 → answers (toBytes 8 x.widx)) ∧
      (a = 8 → s.input.size = 8 → answers (toBytes 8 x.status.toNat)) ∧ (16 ≤ a → answers (List.replicate s.input.size 0))))

/-- R57, R58, R66, R92, R246, R379, R380: partitions are created and destroyed by their checks; register writes; RESRIDX; the
invalidations of a function's page tables with BUSY and DROP, and the pin fault. The model's choices in it: log entries 48, 59. -/
def Obligations.PartitionAndRegisterResults : Prop :=
  (∀ (s : State), s.parts.length = 16 → s.input.part < 16 → (s.part s.input.part).confidential = false →
    let n := s.input.part
    let p := s.part n
    (p.live = false → s.createCheck n = 0 → ∃ t, exec .pctlCreate s = .next t ∧ (t.part n).live = true ∧ (t.part n).err = 0 ∧ (t.part n).active = 0 ∧
      (t.part n).switching = none ∧ (t.part n).heap = [] ∧ ∀ w ∈ t.waves, w.part ≠ n) ∧
    (p.live = false → s.createCheck n ≠ 0 → ∃ t, exec .pctlCreate s = .next t ∧ t.part n = { p with err := s.createCheck n }) ∧
    (p.live = true → ∃ t, exec .pctlCreate s = .next t ∧ t.part n = { p with err := 4 }) ∧
    (p.live = true → (∀ f ∈ s.funcs, ¬ (f.assigned = true ∧ f.part = n)) → ∃ t, exec .pctlDestroy s = .next t ∧ (t.part n).live = false ∧ (t.part n).err = 0) ∧
    (p.live = true → (∃ f ∈ s.funcs, f.assigned = true ∧ f.part = n) → ∃ t, exec .pctlDestroy s = .next t ∧ t.part n = { p with err := 3 }) ∧
    (s.input.value.toNat % 64 = 0 → s.input.value.toNat ≤ p.resWidx.toNat → s.blocks = [] → ∃ t, exec .resridxWrite s = .next t ∧ (t.part n).resRidx = s.input.value) ∧
    (p.resWidx.toNat < s.input.value.toNat → exec .resridxWrite s = .next s) ∧
    (s.input.fn = 0 → s.input.addr = 0x20000 + 0x100 * n → s.input.size = 8 → s.input.value.toNat < 2 ^ 32 → ∃ t, exec .registerWrite s = .next t ∧
      t.part n = { p with affwin := s.input.value.truncate 32 }) ∧
    (s.input.fn = 0 → s.input.addr = 0x20070 + 0x100 * n → s.input.size = 8 → p.live = true → exec .registerWrite s = .next s)) ∧
  (∀ (s : State), s.funcs.length = 65 → s.input.fn < 65 → let f := s.func s.input.fn
    (s.input.addr = 0x30000 → s.input.size = 8 → s.noneEnabled s.input.fn = true → ∃ t, exec .registerWrite s = .next t ∧
      (t.func s.input.fn).dptRoot.toNat = s.input.value.toNat / 4096 * 4096 % 2 ^ 57) ∧
    (s.dptBarred s.input.fn = false → f.busy = false → ∃ t, exec .dptinvAll s = .next t ∧ (t.func s.input.fn).busy = true ∧
      (t.func s.input.fn).busySince = s.dtime ∧ comes t .dptinvBusyClear { fn := s.input.fn }) ∧
    (s.dptBarred s.input.fn = false → f.busy = true → ∃ t, exec .dptinvAll s = .next t ∧ t.func s.input.fn = { f with drop := true }) ∧
    (s.dptBarred s.input.fn = false → f.busy = false → s.input.size < 4 → ∃ t, exec .dptinvPage s = .next t ∧ (t.func s.input.fn).busy = true) ∧
    (f.busy = true → (∀ o ∈ s.ops, o.id ∉ f.busyOps) → s.flushL1s.dirtyOwners = [] →
      s.flushL1s.l1.any (fun x => x.dirty != 0 && s.flushL1s.owned x.line) = false → ∃ t, exec .dptinvBusyClear s = .next t ∧ t.func s.input.fn = { f with busy := false, busyOps := [] }) ∧
    (f.busy = true → (∃ o ∈ s.ops, o.id ∈ f.busyOps) → ∃ t, exec .dptinvBusyClear s = .next t ∧ (t.func s.input.fn).busy = true) ∧
    (∃ t, exec .dptstatRead s = .next t ∧ (t.func s.input.fn).drop = false ∧
      t.hostOut = toBytes 4 ((if f.busy then 1 else 0) + (if f.drop then 2 else 0)) :: s.hostOut) ∧
    (f.busy = true → f.busySince.toNat + 50000 ≤ s.dtime.toNat → s.waves = [] → s.queues = [] → ∃ t, exec .pinFault s = .next t ∧
      (t.func s.input.fn).busy = false ∧ ∀ o ∈ t.ops, o.id ∈ f.busyOps → o.pins.any (·.held) = false))

/-! ### Reset, decoding, the step -/

/-- R17, R34, R57, R58, R66, R84, R92, R246, R249, R400, R402, R403, R408 to R410: what reset leaves, where the rules give a value; memory
has its canonical form. The agenda, a field of the model's own, is empty (log entry 1). -/
def Obligations.ResetLeaves : Prop :=
  let s := State.reset
  Memory.wf s.mem = true ∧ s.waves = [] ∧ s.queues = [] ∧ s.launches = [] ∧ s.ops = [] ∧ s.cards = [] ∧ s.blocks = [] ∧ s.agenda = [] ∧
  s.parts.length = 16 ∧ s.funcs.length = 65 ∧ s.ports.length = 16 ∧ s.peerId = 0 ∧
  (∀ n, n < 16 → (s.part n).live = false ∧ (s.part n).err = 0 ∧ (s.part n).affwin = 2000 ∧ (s.part n).bflim = 20000 ∧ (s.part n).slice = 2000000 ∧
    (s.part n).active = 0 ∧ (s.part n).confidential = false) ∧
  (∀ f, f < 65 → (s.func f).assigned = false ∧ (s.func f).busy = false ∧ (s.func f).drop = false ∧ (s.func f).dptRoot = 0 ∧ (s.func f).tdi = .unlocked) ∧
  (∀ p ∈ s.ports, p.up = false) ∧ (∀ part dom, (s.domain part dom).state = .closed) ∧
  (∀ a, a < Config.dramBytes → memByte s.mem a = 0 ∧ s.version (a / 128) = 0 ∧ s.poisoned (a / 128) = false)

/-- R109, R118 to R124, R185, R186: words written out from the encodings stand for their instructions: the scalar forms at every
operand, and one word each of a call, a mask operation, a permutation, a scratchpad load, a sleep, a return from a handler and an exit. The model's choices in it: log entry 21. -/
def Obligations.DecodeWords : Prop :=
  (∀ (op : Nat) (d a b : R8) (imm : BitVec 24) (imm32 : Word), 2 ≤ op → op ≤ 20 →
    decodeWords false [] [leadW false op (p3 d a b)] = .ok (registerForm op false d a b) 1 ∧
    decodeWords false [] [leadW false 0x15 (p3 d a (BitVec.ofNat 8 op)), extW false imm] = .ok (immForm op false d a imm) 2 ∧
    decodeWords false [] [leadW false 0x16 (p3 d a (BitVec.ofNat 8 op)), extW false (fld imm32 0 24), extW false ((fld imm32 24 8).zeroExtend 24)] =
      .ok (imm32Form op d a imm32) 3) ∧
  decodeWords false [] [0x01000000] = .ok (.nop false) 1 ∧
  decodeWords false [] [0x07020304] = .ok (.sdiv false 2 3 4) 1 ∧
  decodeWords false [] [0x2400000A] = .ok (.call 10) 1 ∧
  decodeWords false [] [0x2B423000] = .ok (.kand false 4 2 3) 1 ∧
  decodeWords false [] [0x4C010203, 0x7F000000] = .ok (.vperm false { vd := 1, va := 2, vb := 3, vc := 0, km := 0, z := false, ty := 0, rnd := 0, sat := false, nega := false, negb := false, absa := false, fnx := false }) 2 ∧
  decodeWords false [] [0x60030204, 0x7F040000] = .ok (.ldp false { vt := 3, sbase := 2, voff := 4, km := 0, width := 2, scope := 0, order := 0, cache := 0, imm := 0 }) 2 ∧
  decodeWords false [] [0x79082400] = .ok (.sleep 9 false) 1 ∧
  decodeWords false [] [0x7A000000] = .ok .rte 1 ∧
  decodeWords false [] [0x7D000000] = .ok .exit 1 ∧
  decodeWords false [] [0x00000000] = .illegalOpcode

/-- R129: a step in which the chosen wave's next instruction reads as i is exec of i on the device with that wave at the issue
stage, its overdue mark gone; an event that is due is exec of the event with its operands; both add nothing else. The model's choices in it: log entries 1, 20. -/
def Obligations.StepRunsDecodedInstruction : Prop :=
  (∀ (s : State) (sched : Nat) (w : Wave) (i : Instr), s.agenda = [] → s.calm.nextSched = some sched →
    (s.calm.parkFetching sched).choose sched = some w → w.refused = [] →
    let s' := atIssue (s.calm.parkFetching sched) sched w
    s'.fetchNext { w with overdueAt := 0 } = .run i → step s = exec i s') ∧
  (∀ (s : State) (core k : Nat) (rest : List Turn) (w : Wave) (i : Instr), s.agenda = .issue core k :: rest → s.power ≠ .off →
    let s0 := { s.calm with agenda := rest }.parkFetching (4 * core + k)
    s0.choose (4 * core + k) = some w → w.refused = [] →
    let s' := atIssue s0 (4 * core + k) w
    s'.fetchNext { w with overdueAt := 0 } = .run i → step s = exec i s') ∧
  (∀ (s : State) (rest : List Turn) (i : Instr) (inp : Input), s.agenda = .ev i inp :: rest → Instr.isEvent i = true → s.power ≠ .off ∨ i = .powerOn →
    (Instr.overLink i inp = false ∨ (s.linkUp = true ∧ s.waiting.any Turn.isHostWrite = false)) →
    step s = exec i { s.calm with agenda := rest, cur := none, input := inp }) ∧
  (∀ (s : State) (w : Wave) (x y z : Word) (i : Instr) (n : Nat), w.pc.toNat % 12 = 0 → s.codeWord w w.pc.toNat = .word x →
    s.codeWord w (w.pc.toNat + 4) = .word y → s.codeWord w (w.pc.toNat + 8) = .word z → opWords (opOf x) ≤ 3 →
    decodeWords w.desc.permits w.grp [x, y, z] = .ok i n → s.fetchNext w = .run i)

/-- R109 to R124, R26: decoding the encoding of a well-formed instruction gives it back with every operand, whatever words follow:
an instruction that carries no C bit, in any group, and one that carries it where R112 lets it. An experimental form where R25 permits it. The model's choices in it: log entry 21. -/
def Obligations.DecodeEncodeRoundTrip : Prop :=
  ∀ (exp : Bool) (grp : List Pipe) (i : Instr) (rest : List Word), Sys2Proof.Instr.wf i = true → Instr.isEvent i = false →
    (i.experimental = false ∨ exp = true) →
    (cOf ((encode i).getLastD 0) = false ∨ chainOk (opPipe (opOf ((encode i).headD 0)) :: grp) rest = true) →
    decodeWords exp grp (encode i ++ rest) = .ok i (encode i).length

/-- Every step, from every state that keeps the form, answers a next state that keeps it: memory in its canonical form, and no
device line among the cached lines of host memory (R249, R253). No rule of the spec stops the device. The model's choices in it: log entries 1, 3, 15. -/
def Obligations.StepKeepsMemoryForm : Prop :=
  ∀ s : State, Memory.wf s.mem = true → ProxiesOk s → ∃ t, step s = .next t ∧ Memory.wf t.mem = true ∧ ProxiesOk t
end

