-- ==== Sys2Proof/Laws/Store.lean ====
section
/-! SUPPORT. Laws of sparse tables and of memory: read after write, and the canonical form. -/

namespace Sys2Proof.Machine

theorem kvGet_drop_ne {α : Type} (d : α) (m : KV α) {k j : Nat} (h : j ≠ k) : kvGet d (kvDrop m k) j = kvGet d m j := by
  induction m with
  | nil => rfl
  | cons e r ih =>
    obtain ⟨k', v'⟩ := e
    by_cases hk : k' = k
    · subst hk
      simp only [kvDrop, List.filter, bne_self_eq_false, kvGet, if_neg (Ne.symm h)] at ih ⊢
      exact ih
    · have : (k' != k) = true := by simpa using hk
      simp only [kvDrop, List.filter, this, kvGet] at ih ⊢
      rw [ih]

variable {α : Type} [DecidableEq α] (d : α)

/-- Reading what was just written. -/
@[simp] theorem kvGet_put_same (m : KV α) (k : Nat) (v : α) : kvGet d (kvPut d m k v) k = v := by
  induction m with
  | nil => by_cases h : v = d <;> simp [kvPut, kvGet, h]
  | cons e r ih =>
    obtain ⟨k', v'⟩ := e
    by_cases hk : k' = k
    · simpa [kvPut, hk] using ih
    · by_cases hi : k < k' ∧ v ≠ d
      · simp [kvPut, hk, hi, kvGet]
      · simpa [kvPut, hk, hi, kvGet] using ih

/-- A write leaves every other key alone. -/
theorem kvGet_put_ne (m : KV α) {k j : Nat} (v : α) (h : j ≠ k) : kvGet d (kvPut d m k v) j = kvGet d m j := by
  induction m with
  | nil => by_cases hv : v = d <;> simp [kvPut, kvGet, hv, Ne.symm h]
  | cons e r ih =>
    obtain ⟨k', v'⟩ := e
    by_cases hk : k' = k
    · subst hk; simp [kvPut, kvGet, Ne.symm h, ih]
    · by_cases hi : k < k' ∧ v ≠ d
      · simp [kvPut, hk, hi, kvGet, Ne.symm h, kvGet_drop_ne d r h]
      · simp [kvPut, hk, hi, kvGet, ih]

/-! ### The canonical form -/

theorem kvWfFrom_head {lo : Option Nat} {k : Nat} {v : α} {r : KV α} :
    kvWfFrom d lo ((k, v) :: r) = true ↔ (∀ l, lo = some l → l < k) ∧ v ≠ d ∧ kvWfFrom d (some k) r = true := by
  cases lo <;> simp [kvWfFrom, and_assoc]

theorem kvWfFrom_mono {m : KV α} {a b : Nat} (h : kvWfFrom d (some b) m = true) (hab : a ≤ b) : kvWfFrom d (some a) m = true := by
  cases m with
  | nil => rfl
  | cons e r =>
    obtain ⟨k, v⟩ := e
    rw [kvWfFrom_head] at h ⊢
    exact ⟨fun l hl => by cases hl; exact lt_of_le_of_lt hab (h.1 b rfl), h.2⟩

theorem kvDrop_of_above {m : KV α} {k : Nat} (h : kvWfFrom d (some k) m = true) : kvDrop m k = m := by
  induction m generalizing k with
  | nil => rfl
  | cons e r ih =>
    obtain ⟨k', v'⟩ := e
    rw [kvWfFrom_head] at h
    have hk : k < k' := h.1 k rfl
    have : (k' != k) = true := by simpa using Nat.ne_of_gt hk
    simp only [kvDrop, List.filter, this]
    exact congrArg _ (ih (kvWfFrom_mono d h.2.2 hk.le))

theorem kvWfFrom_put {m : KV α} {lo : Option Nat} {k : Nat} (v : α) (h : kvWfFrom d lo m = true) (hk : ∀ l, lo = some l → l < k) :
    kvWfFrom d lo (kvPut d m k v) = true := by
  induction m generalizing lo with
  | nil =>
    by_cases hv : v = d
    · simp [kvPut, hv, kvWfFrom]
    · simp only [kvPut, hv, if_false]
      exact (kvWfFrom_head d).2 ⟨hk, hv, rfl⟩
  | cons e r ih =>
    obtain ⟨k', v'⟩ := e
    have h' := (kvWfFrom_head d).1 h
    by_cases he : k' = k
    · subst he
      simp only [kvPut, if_true]
      refine ih ?_ hk
      cases lo with
      | none => cases r with
        | nil => rfl
        | cons e2 r2 => obtain ⟨a, b⟩ := e2; rw [kvWfFrom_head] at h' ⊢; exact ⟨by simp, h'.2.2.2⟩
      | some l => exact kvWfFrom_mono d h'.2.2 (h'.1 l rfl).le
    · by_cases hi : k < k' ∧ v ≠ d
      · simp only [kvPut, he, if_false]
        rw [if_pos hi]
        have hd := kvDrop_of_above d (kvWfFrom_mono d h'.2.2 hi.1.le)
        rw [hd]
        exact (kvWfFrom_head d).2 ⟨hk, hi.2, (kvWfFrom_head d).2 ⟨fun l hl => by cases hl; exact hi.1, h'.2⟩⟩
      · simp only [kvPut, he, if_false, hi]
        by_cases hlt : k < k'
        · have hv : v = d := by_contra fun hne => hi ⟨hlt, hne⟩
          subst hv
          refine (kvWfFrom_head v).2 ⟨h'.1, h'.2.1, ?_⟩
          have aux : ∀ (x : Nat) (q : KV α), k < x → kvWfFrom v (some x) q = true → kvPut v q k v = q := by
            intro x q hx hq
            induction q generalizing x with
            | nil => simp [kvPut]
            | cons e3 r3 ih3 =>
              obtain ⟨a, b⟩ := e3
              have hq' := (kvWfFrom_head v).1 hq
              have ha : k < a := hx.trans (hq'.1 x rfl)
              simp [kvPut, Nat.ne_of_gt ha, ih3 a ha hq'.2.2]
          rw [aux k' r hlt h'.2.2]; exact h'.2.2
        · have hgt : k' < k := lt_of_le_of_ne (Nat.not_lt.1 hlt) he
          exact (kvWfFrom_head d).2 ⟨h'.1, h'.2.1, ih h'.2.2 (fun l hl => by cases hl; exact hgt)⟩

/-- Every write keeps the canonical form. -/
theorem kvWf_put {m : KV α} (k : Nat) (v : α) (h : kvWf d m = true) : kvWf d (kvPut d m k v) = true :=
  kvWfFrom_put d v h (fun _ hl => by cases hl)

/-! ### Memory -/

theorem memPut_wf {m : List Host.Cell} (h : Memory.wf m = true) (a : Nat) (b : Byte) : Memory.wf (memPut m a b) = true :=
  kvWf_put 0 a b h

theorem memPutAll_wf {m : List Host.Cell} (h : Memory.wf m = true) (a : Nat) (bs : List Byte) : Memory.wf (memPutAll m a bs) = true := by
  induction bs generalizing m a with
  | nil => exact h
  | cons b r ih => exact ih (memPut_wf h a b) (a + 1)

@[simp] theorem memByte_put_same (m : List Host.Cell) (a : Nat) (b : Byte) : memByte (memPut m a b) a = b := kvGet_put_same 0 m a b

theorem memByte_put_ne (m : List Host.Cell) {a x : Nat} (b : Byte) (h : x ≠ a) : memByte (memPut m a b) x = memByte m x :=
  kvGet_put_ne 0 m b h

/-- Bytes outside those put stay. -/
theorem memByte_putAll_outside (m : List Host.Cell) (a x : Nat) (bs : List Byte) (h : x < a ∨ a + bs.length ≤ x) :
    memByte (memPutAll m a bs) x = memByte m x := by
  induction bs generalizing m a with
  | nil => rfl
  | cons b r ih =>
    simp only [List.length_cons] at h
    rw [memPutAll, ih _ _ (by omega), memByte_put_ne _ _ (by omega)]

/-- The bytes put are read back. -/
theorem memByte_putAll_inside (m : List Host.Cell) (a i : Nat) (bs : List Byte) (h : i < bs.length) :
    memByte (memPutAll m a bs) (a + i) = bs.getD i 0 := by
  induction bs generalizing m a i with
  | nil => simp at h
  | cons b r ih =>
    cases i with
    | zero => rw [memPutAll, memByte_putAll_outside _ _ _ _ (by omega)]; simp
    | succ j =>
      have := ih (memPut m a b) (a + 1) j (by simpa using h)
      rw [memPutAll, show a + (j + 1) = a + 1 + j by omega, this]; simp

theorem length_toBytes (n v : Nat) : (toBytes n v).length = n := by
  induction n generalizing v with
  | zero => rfl
  | succ n ih => simp [toBytes, ih]

/-- The number that its own bytes stand for. -/
theorem leNat_toBytes (n v : Nat) : leNat (toBytes n v) = v % 256 ^ n := by
  induction n generalizing v with
  | zero => simp [toBytes, leNat, Nat.mod_one]
  | succ n ih =>
    simp only [toBytes, leNat, ih, BitVec.toNat_ofNat]
    rw [show 256 ^ (n + 1) = 256 * 256 ^ n by ring, Nat.mod_mul]

end Sys2Proof.Machine
end

