-- ==== Sys2Proof/Laws/Mem.lean ====
section
/-! SUPPORT. What the operations of the memory system can do: each changes the memory system alone, and each keeps the
canonical form of memory. -/

namespace Sys2Proof.Machine

/-- t is s but for the memory system: memory, versions, poison, integrity values, ECC, the caches, the proxies, the holders, FLOOR,
the field-life counters and the requests that the links have carried. -/
def MemOnly (s t : State) : Prop :=
  t = { s with mem := t.mem, versions := t.versions, poison := t.poison, icv := t.icv, ecc := t.ecc, l1 := t.l1, rdc := t.rdc, proxy := t.proxy,
               holders := t.holders, floors := t.floors, life := t.life, links := t.links }

/-- What an operation of the memory system does: it changes nothing else, and memory keeps its form. -/
def MemStep (s t : State) : Prop := MemOnly s t ∧ (Memory.wf s.mem = true → Memory.wf t.mem = true)

theorem MemStep.refl (s : State) : MemStep s s := ⟨rfl, id⟩

theorem MemStep.trans {s t u : State} (h : MemStep s t) (k : MemStep t u) : MemStep s u := by
  refine ⟨?_, fun w => k.2 (h.2 w)⟩
  have a := h.1; have b := k.1
  unfold MemOnly at a b ⊢
  rw [a] at b
  exact b

/-- A change of memory that keeps its form, with what describes its lines. -/
theorem MemStep.bytes (s : State) (m : List Host.Cell) (v : KV (BitVec 48)) (p : KV Bool) (i : KV Half) (e : KV Ecc) (x : List ProxyLine) (k : List Link)
    (hm : Memory.wf s.mem = true → Memory.wf m = true) :
    MemStep s { s with mem := m, versions := v, poison := p, icv := i, ecc := e, proxy := x, links := k } := ⟨rfl, hm⟩

theorem MemStep.foldl {α : Type} (f : State → α → State) (hf : ∀ s a, MemStep s (f s a)) (l : List α) (s : State) : MemStep s (l.foldl f s) := by
  induction l generalizing s with
  | nil => exact .refl s
  | cons a r ih => exact (hf s a).trans (ih (f s a))

theorem State.lifeAdd_step (s : State) (i : Nat) : MemStep s (s.lifeAdd i) := ⟨rfl, id⟩
theorem State.carry_step (s : State) (line : Nat) : MemStep s (s.carry line) := ⟨rfl, id⟩

theorem State.setPoison_step (s : State) (line : Nat) : MemStep s (s.setPoison line) := by
  unfold State.setPoison
  dsimp only
  split <;> exact ⟨rfl, id⟩

theorem State.eccCheck_step (s : State) (line : Nat) : MemStep s (s.eccCheck line) := by
  unfold State.eccCheck
  split
  · exact .refl s
  · exact ⟨rfl, id⟩
  · exact ((s.lifeAdd_step 0x61).trans (State.setPoison_step _ line)).trans ⟨rfl, id⟩

theorem State.checkLine_step (s : State) (line : Nat) : MemStep s (s.checkLine line) := by
  unfold State.checkLine
  dsimp only
  split
  · exact s.eccCheck_step line
  · exact (s.eccCheck_step line).trans (State.setPoison_step _ line)

theorem State.proxyClean_step (s : State) (line : Nat) : MemStep s (s.proxyClean line) := by
  unfold State.proxyClean
  split
  · split
    · exact .refl s
    · exact MemStep.bytes s _ s.versions s.poison s.icv s.ecc _ _ (fun h => memPutAll_wf h _ _)
  · exact .refl s

theorem State.proxyDrop_step (s : State) (line : Nat) : MemStep s (s.proxyDrop line) := by
  unfold State.proxyDrop
  split
  · exact (s.proxyClean_step line).trans ⟨rfl, id⟩
  · exact .refl s

theorem State.proxyWrite_step (s : State) (line : Nat) (m : BitVec 128) (d : List Byte) : MemStep s (s.proxyWrite line m d) := ⟨rfl, id⟩

theorem State.lineWrite_step (s : State) (line : Nat) (m : BitVec 128) (d : List Byte) : MemStep s (s.lineWrite line m d) := by
  unfold State.lineWrite
  dsimp only
  split
  · exact MemStep.bytes s _ _ _ _ _ s.proxy s.links (fun h => memPutAll_wf h _ _)
  · exact (s.checkLine_step line).trans (MemStep.bytes _ _ _ _ _ _ (s.checkLine line).proxy (s.checkLine line).links (fun h => memPutAll_wf h _ _))

/-- A write at the home changes the memory system alone. -/
abbrev PutStep (put : State → Nat → BitVec 128 → List Byte → State) : Prop := ∀ s line m d, MemStep s (put s line m d)

theorem State.roomWrite_step : PutStep State.roomWrite := by
  intro s line m d
  unfold State.roomWrite
  split
  · split
    · exact s.proxyWrite_step line m d
    · refine ((s.carry_step line).trans ?_).trans ((State.proxyWrite_step _ line m d).trans (State.proxyDrop_step _ line))
      exact ⟨rfl, id⟩
  · exact s.lineWrite_step line m d

theorem State.released_step (s : State) (core line : Nat) : MemStep s (s.released core line) := ⟨rfl, id⟩

theorem State.writeBackBy_step {put : State → Nat → BitVec 128 → List Byte → State} (hp : PutStep put) (s : State) (core line : Nat) :
    MemStep s (s.writeBackBy put core line) := by
  unfold State.writeBackBy
  split
  · split
    · exact .refl s
    · next x _ _ =>
      have a := (hp s line x.dirty x.data).trans (State.released_step _ core line)
      dsimp only
      split <;> exact a.trans ⟨rfl, id⟩
  · exact .refl s

theorem State.recallBy_step {put : State → Nat → BitVec 128 → List Byte → State} (hp : PutStep put) (s : State) (line : Nat) (reader : Option Nat) :
    MemStep s (s.recallBy put line reader) := by
  unfold State.recallBy
  apply MemStep.foldl
  intro s h
  exact (MemStep.foldl _ (fun s l => State.writeBackBy_step hp s h.core l) h.released s).trans ⟨rfl, id⟩

theorem State.proxyRoom_step (s : State) (die : Nat) : MemStep s (s.proxyRoom die) := by
  unfold State.proxyRoom
  dsimp only
  split
  · exact .refl s
  · split
    · exact (State.recallBy_step State.roomWrite_step s _ none).trans (State.proxyDrop_step _ _)
    · exact .refl s

theorem State.fillProxy_step (s : State) (line : Nat) : MemStep s (s.fillProxy line) := by
  unfold State.fillProxy
  split
  · exact ((s.proxyRoom_step (homeDie line)).trans (State.carry_step _ line)).trans ⟨rfl, id⟩
  · exact .refl s

theorem State.homeWrite_step : PutStep State.homeWrite := by
  intro s line m d
  unfold State.homeWrite
  split
  · exact (s.fillProxy_step line).trans (State.proxyWrite_step _ line m d)
  · exact s.lineWrite_step line m d

theorem State.homePut_step (s : State) (pa : Nat) (b : List Byte) : MemStep s (s.homePut pa b) := State.homeWrite_step s _ _ _

theorem State.homeRun_step (s : State) (pa : Nat) (b : List Byte) : MemStep s (s.homeRun pa b) :=
  .foldl _ (fun s _ => s.homePut_step _ _) _ s

theorem State.l1Drop_step (s : State) (core line : Nat) : MemStep s (s.l1Drop core line) := ⟨rfl, id⟩
theorem State.l1Put_step (s : State) (x : L1Line) : MemStep s (s.l1Put x) := ⟨rfl, id⟩
theorem State.rdcDrop_step (s : State) (die line : Nat) : MemStep s (s.rdcDrop die line) := ⟨rfl, id⟩
theorem State.writeBack_step (s : State) (core line : Nat) : MemStep s (s.writeBack core line) :=
  State.writeBackBy_step State.homeWrite_step s core line

theorem State.writeBackAll_step (s : State) (core : Nat) (lines : List Nat) : MemStep s (s.writeBackAll core lines) :=
  .foldl _ (fun s l => s.writeBack_step core l) _ s

theorem State.recall_step (s : State) (line : Nat) (reader : Option Nat) : MemStep s (s.recall line reader) :=
  State.recallBy_step State.homeWrite_step s line reader

theorem State.l1Room_step (s : State) (core : Nat) : MemStep s (s.l1Room core) := by
  unfold State.l1Room
  dsimp only
  split
  · exact .refl s
  · split
    · exact (s.writeBack_step core _).trans (State.l1Drop_step _ core _)
    · exact .refl s

theorem State.l1Fill_step (s : State) (x : L1Line) : MemStep s (s.l1Fill x) := by
  have h := (s.l1Room_step x.core).trans (State.l1Put_step _ x)
  unfold State.l1Fill
  dsimp only
  split
  · exact h
  · exact h.trans ((State.writeBack_step _ x.core x.line).trans (State.l1Drop_step _ x.core x.line))

theorem State.rdcFill_step (s : State) (die line : Nat) (d : List Byte) : MemStep s (s.rdcFill die line d) := by
  unfold State.rdcFill
  dsimp only
  split
  · exact ⟨rfl, id⟩
  · split <;> exact ⟨rfl, id⟩

theorem State.homeRead_step (s : State) (line : Nat) (reader : Option Nat) : MemStep s (s.homeRead line reader).1 :=
  ((s.recall_step line reader).trans (State.eccCheck_step _ line)).trans (State.fillProxy_step _ line)

theorem State.fetchLine_step (s : State) (core line : Nat) : MemStep s (s.fetchLine core line).1 := by
  unfold State.fetchLine
  split
  · exact s.homeRead_step line (some core)
  · split
    · exact .refl s
    · exact (s.homeRead_step line (some core)).trans (State.rdcFill_step _ _ _ _)

theorem State.homeTake_step (s : State) (core line : Nat) : MemStep s (s.homeTake core line) :=
  (((((s.writeBack_step core line).trans (State.l1Drop_step _ core line)).trans (State.rdcDrop_step _ (coreDie core) line)).trans
    (State.recall_step _ line (some core))).trans (State.eccCheck_step _ line)).trans (State.fillProxy_step _ line)

theorem State.coreLine_step (s : State) (core line : Nat) (need : BitVec 128) (nol1 : Bool) : MemStep s (s.coreLine core line need nol1).1 := by
  unfold State.coreLine
  split
  · exact s.homeTake_step core line
  · split
    · split
      · exact .refl s
      · exact (s.fetchLine_step core line).trans (State.l1Put_step _ _)
    · exact (s.fetchLine_step core line).trans (State.l1Fill_step _ _)

theorem State.coreLoad_step (s : State) (core pa n : Nat) (nol1 : Bool) : MemStep s (s.coreLoad core pa n nol1).1 := s.coreLine_step _ _ _ _

theorem State.acquireLine_step (s : State) (core line : Nat) : MemStep s (s.acquireLine core line).1 := by
  unfold State.acquireLine
  dsimp only
  split
  · exact (s.homeRead_step line (some core)).trans ⟨rfl, id⟩
  · exact (s.homeRead_step line (some core)).trans ⟨rfl, id⟩

theorem State.acquireLoad_step (s : State) (core pa n : Nat) : MemStep s (s.acquireLoad core pa n).1 := s.acquireLine_step _ _

theorem State.plainStore_step (s : State) (core line : Nat) (m : BitVec 128) (d : List Byte) (nol1 : Bool) : MemStep s (s.plainStore core line m d nol1) := by
  unfold State.plainStore
  split
  · exact (((s.writeBack_step core line).trans (State.l1Drop_step _ core line)).trans (State.rdcDrop_step _ (coreDie core) line)).trans
      (State.homeWrite_step _ line m d)
  · split
    · exact s.l1Put_step _
    · exact s.l1Fill_step _

theorem State.coreStore_step (s : State) (core pa : Nat) (b : List Byte) (nol1 : Bool) : MemStep s (s.coreStore core pa b nol1) := s.plainStore_step _ _ _ _ _

theorem State.homeLoad_step (s : State) (pa n : Nat) : MemStep s (s.homeLoad pa n).1 :=
  .foldl _ (fun s _ => s.homeRead_step _ none) _ s

theorem State.invalidate_step (s : State) (core scope : Nat) : MemStep s (s.invalidate core scope) := by
  have drops (t : State) : MemStep t ((t.proxy.map (·.line)).foldl (fun s line => s.proxyDrop line) t) := .foldl _ (fun s l => s.proxyDrop_step l) _ t
  unfold State.invalidate
  dsimp only
  by_cases h2 : 2 ≤ scope <;> by_cases h4 : 4 ≤ scope <;> by_cases h5 : 5 ≤ scope <;> simp only [h2, h4, h5, if_true, if_false] <;>
    first
      | exact ⟨rfl, id⟩
      | (refine MemStep.trans ?_ (drops _); exact ⟨rfl, id⟩)

theorem State.eagerRelease_step (s : State) (core : Nat) (system : Bool) : MemStep s (s.eagerRelease core system) := by
  unfold State.eagerRelease
  dsimp only
  split
  · exact (s.writeBackAll_step core _).trans (.foldl _ (fun s l => s.proxyClean_step l) _ _)
  · exact s.writeBackAll_step core _

theorem State.cpRelease_step (s : State) : MemStep s s.cpRelease := .foldl _ (fun s l => s.proxyClean_step l) _ s
theorem State.cpAcquire_step (s : State) : MemStep s s.cpAcquire := .foldl _ (fun s l => s.proxyDrop_step l) _ s

theorem State.recordRelease_step (s : State) (core line scope : Nat) : MemStep s (s.recordRelease core line scope) := by
  unfold State.recordRelease
  split
  · exact s.eagerRelease_step core _
  · dsimp only
    split <;> exact ⟨rfl, id⟩

theorem State.releaseLine_step (s : State) (core line : Nat) (m : BitVec 128) (d : List Byte) (scope : Nat) : MemStep s (s.releaseLine core line m d scope) :=
  (((s.writeBack_step core line).trans (State.l1Drop_step _ core line)).trans (State.rdcDrop_step _ (coreDie core) line)).trans
    ((State.recordRelease_step _ core line scope).trans (State.homeWrite_step _ line m d))

theorem kvWfFrom_none {α : Type} [DecidableEq α] (d : α) {m : KV α} {a : Nat} (h : kvWfFrom d (some a) m = true) : kvWfFrom d none m = true := by
  cases m with
  | nil => rfl
  | cons e r =>
    obtain ⟨k, v⟩ := e
    exact (kvWfFrom_head d).mpr ⟨by simp, ((kvWfFrom_head d).mp h).2⟩

/-- A filter keeps the form of memory. -/
theorem kvWfFrom_filter {α : Type} [DecidableEq α] (d : α) (p : Nat × α → Bool) (m : KV α) (lo : Option Nat) (h : kvWfFrom d lo m = true) :
    kvWfFrom d lo (m.filter p) = true := by
  induction m generalizing lo with
  | nil => exact h
  | cons e r ih =>
    obtain ⟨k, v⟩ := e
    have hh := (kvWfFrom_head d).mp h
    rw [List.filter_cons]
    split
    · exact (kvWfFrom_head d).mpr ⟨hh.1, hh.2.1, ih _ hh.2.2⟩
    · cases lo with
      | none => exact ih none (kvWfFrom_none d hh.2.2)
      | some b => exact ih (some b) (kvWfFrom_mono d hh.2.2 (hh.1 b rfl).le)

theorem memFilter_wf {m : List Host.Cell} (h : Memory.wf m = true) (p : Host.Cell → Bool) : Memory.wf (m.filter p) = true := kvWfFrom_filter 0 p m none h

end Sys2Proof.Machine
end

