-- ==== Sys2Proof/Laws/State.lean ====
section
/-! SUPPORT. What each plain update of a state or a wave leaves alone: one lemma per field per update. -/

namespace Sys2Proof.Machine

/-! ### State.putWave -/

@[simp] theorem State.putWave_dtime (s : State) (w : Wave) : (s.putWave w).dtime = s.dtime := rfl
@[simp] theorem State.putWave_cur (s : State) (w : Wave) : (s.putWave w).cur = s.cur := rfl
@[simp] theorem State.putWave_input (s : State) (w : Wave) : (s.putWave w).input = s.input := rfl
@[simp] theorem State.putWave_agenda (s : State) (w : Wave) : (s.putWave w).agenda = s.agenda := rfl
@[simp] theorem State.putWave_draws (s : State) (w : Wave) : (s.putWave w).draws = s.draws := rfl
@[simp] theorem State.putWave_nextUid (s : State) (w : Wave) : (s.putWave w).nextUid = s.nextUid := rfl
@[simp] theorem State.putWave_nextOp (s : State) (w : Wave) : (s.putWave w).nextOp = s.nextOp := rfl
@[simp] theorem State.putWave_nextLaunch (s : State) (w : Wave) : (s.putWave w).nextLaunch = s.nextLaunch := rfl
@[simp] theorem State.putWave_nextBlock (s : State) (w : Wave) : (s.putWave w).nextBlock = s.nextBlock := rfl
@[simp] theorem State.putWave_lastSched (s : State) (w : Wave) : (s.putWave w).lastSched = s.lastSched := rfl
@[simp] theorem State.putWave_lastSlots (s : State) (w : Wave) : (s.putWave w).lastSlots = s.lastSlots := rfl
@[simp] theorem State.putWave_waiting (s : State) (w : Wave) : (s.putWave w).waiting = s.waiting := rfl
@[simp] theorem State.putWave_ops (s : State) (w : Wave) : (s.putWave w).ops = s.ops := rfl
@[simp] theorem State.putWave_mem (s : State) (w : Wave) : (s.putWave w).mem = s.mem := rfl
@[simp] theorem State.putWave_versions (s : State) (w : Wave) : (s.putWave w).versions = s.versions := rfl
@[simp] theorem State.putWave_poison (s : State) (w : Wave) : (s.putWave w).poison = s.poison := rfl
@[simp] theorem State.putWave_icv (s : State) (w : Wave) : (s.putWave w).icv = s.icv := rfl
@[simp] theorem State.putWave_ecc (s : State) (w : Wave) : (s.putWave w).ecc = s.ecc := rfl
@[simp] theorem State.putWave_tlb (s : State) (w : Wave) : (s.putWave w).tlb = s.tlb := rfl
@[simp] theorem State.putWave_icache (s : State) (w : Wave) : (s.putWave w).icache = s.icache := rfl
@[simp] theorem State.putWave_l1 (s : State) (w : Wave) : (s.putWave w).l1 = s.l1 := rfl
@[simp] theorem State.putWave_rdc (s : State) (w : Wave) : (s.putWave w).rdc = s.rdc := rfl
@[simp] theorem State.putWave_proxy (s : State) (w : Wave) : (s.putWave w).proxy = s.proxy := rfl
@[simp] theorem State.putWave_floors (s : State) (w : Wave) : (s.putWave w).floors = s.floors := rfl
@[simp] theorem State.putWave_holders (s : State) (w : Wave) : (s.putWave w).holders = s.holders := rfl
@[simp] theorem State.putWave_rf (s : State) (w : Wave) : (s.putWave w).rf = s.rf := rfl
@[simp] theorem State.putWave_scratch (s : State) (w : Wave) : (s.putWave w).scratch = s.scratch := rfl
@[simp] theorem State.putWave_tags (s : State) (w : Wave) : (s.putWave w).tags = s.tags := rfl
@[simp] theorem State.putWave_spadPoison (s : State) (w : Wave) : (s.putWave w).spadPoison = s.spadPoison := rfl
@[simp] theorem State.putWave_sems (s : State) (w : Wave) : (s.putWave w).sems = s.sems := rfl
@[simp] theorem State.putWave_tiles (s : State) (w : Wave) : (s.putWave w).tiles = s.tiles := rfl
@[simp] theorem State.putWave_bslots (s : State) (w : Wave) : (s.putWave w).bslots = s.bslots := rfl
@[simp] theorem State.putWave_quarters (s : State) (w : Wave) : (s.putWave w).quarters = s.quarters := rfl
@[simp] theorem State.putWave_passes (s : State) (w : Wave) : (s.putWave w).passes = s.passes := rfl
@[simp] theorem State.putWave_cards (s : State) (w : Wave) : (s.putWave w).cards = s.cards := rfl
@[simp] theorem State.putWave_queues (s : State) (w : Wave) : (s.putWave w).queues = s.queues := rfl
@[simp] theorem State.putWave_launches (s : State) (w : Wave) : (s.putWave w).launches = s.launches := rfl
@[simp] theorem State.putWave_parts (s : State) (w : Wave) : (s.putWave w).parts = s.parts := rfl
@[simp] theorem State.putWave_funcs (s : State) (w : Wave) : (s.putWave w).funcs = s.funcs := rfl
@[simp] theorem State.putWave_domains (s : State) (w : Wave) : (s.putWave w).domains = s.domains := rfl
@[simp] theorem State.putWave_blocks (s : State) (w : Wave) : (s.putWave w).blocks = s.blocks := rfl
@[simp] theorem State.putWave_places (s : State) (w : Wave) : (s.putWave w).places = s.places := rfl
@[simp] theorem State.putWave_cohorts (s : State) (w : Wave) : (s.putWave w).cohorts = s.cohorts := rfl
@[simp] theorem State.putWave_groups (s : State) (w : Wave) : (s.putWave w).groups = s.groups := rfl
@[simp] theorem State.putWave_feeds (s : State) (w : Wave) : (s.putWave w).feeds = s.feeds := rfl
@[simp] theorem State.putWave_ats (s : State) (w : Wave) : (s.putWave w).ats = s.ats := rfl
@[simp] theorem State.putWave_pageReqs (s : State) (w : Wave) : (s.putWave w).pageReqs = s.pageReqs := rfl
@[simp] theorem State.putWave_atsFailed (s : State) (w : Wave) : (s.putWave w).atsFailed = s.atsFailed := rfl
@[simp] theorem State.putWave_link1Map (s : State) (w : Wave) : (s.putWave w).link1Map = s.link1Map := rfl
@[simp] theorem State.putWave_peerId (s : State) (w : Wave) : (s.putWave w).peerId = s.peerId := rfl
@[simp] theorem State.putWave_ports (s : State) (w : Wave) : (s.putWave w).ports = s.ports := rfl
@[simp] theorem State.putWave_links (s : State) (w : Wave) : (s.putWave w).links = s.links := rfl
@[simp] theorem State.putWave_lifeIdx (s : State) (w : Wave) : (s.putWave w).lifeIdx = s.lifeIdx := rfl
@[simp] theorem State.putWave_life (s : State) (w : Wave) : (s.putWave w).life = s.life := rfl
@[simp] theorem State.putWave_lifeSaved (s : State) (w : Wave) : (s.putWave w).lifeSaved = s.lifeSaved := rfl
@[simp] theorem State.putWave_pcap (s : State) (w : Wave) : (s.putWave w).pcap = s.pcap := rfl
@[simp] theorem State.putWave_clockMHz (s : State) (w : Wave) : (s.putWave w).clockMHz = s.clockMHz := rfl
@[simp] theorem State.putWave_power (s : State) (w : Wave) : (s.putWave w).power = s.power := rfl
@[simp] theorem State.putWave_flash (s : State) (w : Wave) : (s.putWave w).flash = s.flash := rfl
@[simp] theorem State.putWave_running (s : State) (w : Wave) : (s.putWave w).running = s.running := rfl
@[simp] theorem State.putWave_msix (s : State) (w : Wave) : (s.putWave w).msix = s.msix := rfl
@[simp] theorem State.putWave_hostOut (s : State) (w : Wave) : (s.putWave w).hostOut = s.hostOut := rfl
@[simp] theorem State.putWave_peerOut (s : State) (w : Wave) : (s.putWave w).peerOut = s.peerOut := rfl
@[simp] theorem State.putWave_spillCalls (s : State) (w : Wave) : (s.putWave w).spillCalls = s.spillCalls := rfl
@[simp] theorem State.putWave_spillBytes (s : State) (w : Wave) : (s.putWave w).spillBytes = s.spillBytes := rfl
@[simp] theorem State.putWave_beqFold (s : State) (w : Wave) : (s.putWave w).beqFold = s.beqFold := rfl
@[simp] theorem State.putWave_estEvict (s : State) (w : Wave) : (s.putWave w).estEvict = s.estEvict := rfl
@[simp] theorem State.putWave_emulOps (s : State) (w : Wave) : (s.putWave w).emulOps = s.emulOps := rfl

/-! ### State.modWave -/

@[simp] theorem State.modWave_dtime (s : State) (u : Nat) (f : Wave → Wave) : (s.modWave u f).dtime = s.dtime := rfl
@[simp] theorem State.modWave_cur (s : State) (u : Nat) (f : Wave → Wave) : (s.modWave u f).cur = s.cur := rfl
@[simp] theorem State.modWave_input (s : State) (u : Nat) (f : Wave → Wave) : (s.modWave u f).input = s.input := rfl
@[simp] theorem State.modWave_agenda (s : State) (u : Nat) (f : Wave → Wave) : (s.modWave u f).agenda = s.agenda := rfl
@[simp] theorem State.modWave_draws (s : State) (u : Nat) (f : Wave → Wave) : (s.modWave u f).draws = s.draws := rfl
@[simp] theorem State.modWave_nextUid (s : State) (u : Nat) (f : Wave → Wave) : (s.modWave u f).nextUid = s.nextUid := rfl
@[simp] theorem State.modWave_nextOp (s : State) (u : Nat) (f : Wave → Wave) : (s.modWave u f).nextOp = s.nextOp := rfl
@[simp] theorem State.modWave_nextLaunch (s : State) (u : Nat) (f : Wave → Wave) : (s.modWave u f).nextLaunch = s.nextLaunch := rfl
@[simp] theorem State.modWave_nextBlock (s : State) (u : Nat) (f : Wave → Wave) : (s.modWave u f).nextBlock = s.nextBlock := rfl
@[simp] theorem State.modWave_lastSched (s : State) (u : Nat) (f : Wave → Wave) : (s.modWave u f).lastSched = s.lastSched := rfl
@[simp] theorem State.modWave_lastSlots (s : State) (u : Nat) (f : Wave → Wave) : (s.modWave u f).lastSlots = s.lastSlots := rfl
@[simp] theorem State.modWave_waiting (s : State) (u : Nat) (f : Wave → Wave) : (s.modWave u f).waiting = s.waiting := rfl
@[simp] theorem State.modWave_ops (s : State) (u : Nat) (f : Wave → Wave) : (s.modWave u f).ops = s.ops := rfl
@[simp] theorem State.modWave_mem (s : State) (u : Nat) (f : Wave → Wave) : (s.modWave u f).mem = s.mem := rfl
@[simp] theorem State.modWave_versions (s : State) (u : Nat) (f : Wave → Wave) : (s.modWave u f).versions = s.versions := rfl
@[simp] theorem State.modWave_poison (s : State) (u : Nat) (f : Wave → Wave) : (s.modWave u f).poison = s.poison := rfl
@[simp] theorem State.modWave_icv (s : State) (u : Nat) (f : Wave → Wave) : (s.modWave u f).icv = s.icv := rfl
@[simp] theorem State.modWave_ecc (s : State) (u : Nat) (f : Wave → Wave) : (s.modWave u f).ecc = s.ecc := rfl
@[simp] theorem State.modWave_tlb (s : State) (u : Nat) (f : Wave → Wave) : (s.modWave u f).tlb = s.tlb := rfl
@[simp] theorem State.modWave_icache (s : State) (u : Nat) (f : Wave → Wave) : (s.modWave u f).icache = s.icache := rfl
@[simp] theorem State.modWave_l1 (s : State) (u : Nat) (f : Wave → Wave) : (s.modWave u f).l1 = s.l1 := rfl
@[simp] theorem State.modWave_rdc (s : State) (u : Nat) (f : Wave → Wave) : (s.modWave u f).rdc = s.rdc := rfl
@[simp] theorem State.modWave_proxy (s : State) (u : Nat) (f : Wave → Wave) : (s.modWave u f).proxy = s.proxy := rfl
@[simp] theorem State.modWave_floors (s : State) (u : Nat) (f : Wave → Wave) : (s.modWave u f).floors = s.floors := rfl
@[simp] theorem State.modWave_holders (s : State) (u : Nat) (f : Wave → Wave) : (s.modWave u f).holders = s.holders := rfl
@[simp] theorem State.modWave_rf (s : State) (u : Nat) (f : Wave → Wave) : (s.modWave u f).rf = s.rf := rfl
@[simp] theorem State.modWave_scratch (s : State) (u : Nat) (f : Wave → Wave) : (s.modWave u f).scratch = s.scratch := rfl
@[simp] theorem State.modWave_tags (s : State) (u : Nat) (f : Wave → Wave) : (s.modWave u f).tags = s.tags := rfl
@[simp] theorem State.modWave_spadPoison (s : State) (u : Nat) (f : Wave → Wave) : (s.modWave u f).spadPoison = s.spadPoison := rfl
@[simp] theorem State.modWave_sems (s : State) (u : Nat) (f : Wave → Wave) : (s.modWave u f).sems = s.sems := rfl
@[simp] theorem State.modWave_tiles (s : State) (u : Nat) (f : Wave → Wave) : (s.modWave u f).tiles = s.tiles := rfl
@[simp] theorem State.modWave_bslots (s : State) (u : Nat) (f : Wave → Wave) : (s.modWave u f).bslots = s.bslots := rfl
@[simp] theorem State.modWave_quarters (s : State) (u : Nat) (f : Wave → Wave) : (s.modWave u f).quarters = s.quarters := rfl
@[simp] theorem State.modWave_passes (s : State) (u : Nat) (f : Wave → Wave) : (s.modWave u f).passes = s.passes := rfl
@[simp] theorem State.modWave_cards (s : State) (u : Nat) (f : Wave → Wave) : (s.modWave u f).cards = s.cards := rfl
@[simp] theorem State.modWave_queues (s : State) (u : Nat) (f : Wave → Wave) : (s.modWave u f).queues = s.queues := rfl
@[simp] theorem State.modWave_launches (s : State) (u : Nat) (f : Wave → Wave) : (s.modWave u f).launches = s.launches := rfl
@[simp] theorem State.modWave_parts (s : State) (u : Nat) (f : Wave → Wave) : (s.modWave u f).parts = s.parts := rfl
@[simp] theorem State.modWave_funcs (s : State) (u : Nat) (f : Wave → Wave) : (s.modWave u f).funcs = s.funcs := rfl
@[simp] theorem State.modWave_domains (s : State) (u : Nat) (f : Wave → Wave) : (s.modWave u f).domains = s.domains := rfl
@[simp] theorem State.modWave_blocks (s : State) (u : Nat) (f : Wave → Wave) : (s.modWave u f).blocks = s.blocks := rfl
@[simp] theorem State.modWave_places (s : State) (u : Nat) (f : Wave → Wave) : (s.modWave u f).places = s.places := rfl
@[simp] theorem State.modWave_cohorts (s : State) (u : Nat) (f : Wave → Wave) : (s.modWave u f).cohorts = s.cohorts := rfl
@[simp] theorem State.modWave_groups (s : State) (u : Nat) (f : Wave → Wave) : (s.modWave u f).groups = s.groups := rfl
@[simp] theorem State.modWave_feeds (s : State) (u : Nat) (f : Wave → Wave) : (s.modWave u f).feeds = s.feeds := rfl
@[simp] theorem State.modWave_ats (s : State) (u : Nat) (f : Wave → Wave) : (s.modWave u f).ats = s.ats := rfl
@[simp] theorem State.modWave_pageReqs (s : State) (u : Nat) (f : Wave → Wave) : (s.modWave u f).pageReqs = s.pageReqs := rfl
@[simp] theorem State.modWave_atsFailed (s : State) (u : Nat) (f : Wave → Wave) : (s.modWave u f).atsFailed = s.atsFailed := rfl
@[simp] theorem State.modWave_link1Map (s : State) (u : Nat) (f : Wave → Wave) : (s.modWave u f).link1Map = s.link1Map := rfl
@[simp] theorem State.modWave_peerId (s : State) (u : Nat) (f : Wave → Wave) : (s.modWave u f).peerId = s.peerId := rfl
@[simp] theorem State.modWave_ports (s : State) (u : Nat) (f : Wave → Wave) : (s.modWave u f).ports = s.ports := rfl
@[simp] theorem State.modWave_links (s : State) (u : Nat) (f : Wave → Wave) : (s.modWave u f).links = s.links := rfl
@[simp] theorem State.modWave_lifeIdx (s : State) (u : Nat) (f : Wave → Wave) : (s.modWave u f).lifeIdx = s.lifeIdx := rfl
@[simp] theorem State.modWave_life (s : State) (u : Nat) (f : Wave → Wave) : (s.modWave u f).life = s.life := rfl
@[simp] theorem State.modWave_lifeSaved (s : State) (u : Nat) (f : Wave → Wave) : (s.modWave u f).lifeSaved = s.lifeSaved := rfl
@[simp] theorem State.modWave_pcap (s : State) (u : Nat) (f : Wave → Wave) : (s.modWave u f).pcap = s.pcap := rfl
@[simp] theorem State.modWave_clockMHz (s : State) (u : Nat) (f : Wave → Wave) : (s.modWave u f).clockMHz = s.clockMHz := rfl
@[simp] theorem State.modWave_power (s : State) (u : Nat) (f : Wave → Wave) : (s.modWave u f).power = s.power := rfl
@[simp] theorem State.modWave_flash (s : State) (u : Nat) (f : Wave → Wave) : (s.modWave u f).flash = s.flash := rfl
@[simp] theorem State.modWave_running (s : State) (u : Nat) (f : Wave → Wave) : (s.modWave u f).running = s.running := rfl
@[simp] theorem State.modWave_msix (s : State) (u : Nat) (f : Wave → Wave) : (s.modWave u f).msix = s.msix := rfl
@[simp] theorem State.modWave_hostOut (s : State) (u : Nat) (f : Wave → Wave) : (s.modWave u f).hostOut = s.hostOut := rfl
@[simp] theorem State.modWave_peerOut (s : State) (u : Nat) (f : Wave → Wave) : (s.modWave u f).peerOut = s.peerOut := rfl
@[simp] theorem State.modWave_spillCalls (s : State) (u : Nat) (f : Wave → Wave) : (s.modWave u f).spillCalls = s.spillCalls := rfl
@[simp] theorem State.modWave_spillBytes (s : State) (u : Nat) (f : Wave → Wave) : (s.modWave u f).spillBytes = s.spillBytes := rfl
@[simp] theorem State.modWave_beqFold (s : State) (u : Nat) (f : Wave → Wave) : (s.modWave u f).beqFold = s.beqFold := rfl
@[simp] theorem State.modWave_estEvict (s : State) (u : Nat) (f : Wave → Wave) : (s.modWave u f).estEvict = s.estEvict := rfl
@[simp] theorem State.modWave_emulOps (s : State) (u : Nat) (f : Wave → Wave) : (s.modWave u f).emulOps = s.emulOps := rfl

/-! ### State.putPart -/

@[simp] theorem State.putPart_dtime (s : State) (p : Nat) (x : Part) : (s.putPart p x).dtime = s.dtime := rfl
@[simp] theorem State.putPart_cur (s : State) (p : Nat) (x : Part) : (s.putPart p x).cur = s.cur := rfl
@[simp] theorem State.putPart_input (s : State) (p : Nat) (x : Part) : (s.putPart p x).input = s.input := rfl
@[simp] theorem State.putPart_agenda (s : State) (p : Nat) (x : Part) : (s.putPart p x).agenda = s.agenda := rfl
@[simp] theorem State.putPart_draws (s : State) (p : Nat) (x : Part) : (s.putPart p x).draws = s.draws := rfl
@[simp] theorem State.putPart_nextUid (s : State) (p : Nat) (x : Part) : (s.putPart p x).nextUid = s.nextUid := rfl
@[simp] theorem State.putPart_nextOp (s : State) (p : Nat) (x : Part) : (s.putPart p x).nextOp = s.nextOp := rfl
@[simp] theorem State.putPart_nextLaunch (s : State) (p : Nat) (x : Part) : (s.putPart p x).nextLaunch = s.nextLaunch := rfl
@[simp] theorem State.putPart_nextBlock (s : State) (p : Nat) (x : Part) : (s.putPart p x).nextBlock = s.nextBlock := rfl
@[simp] theorem State.putPart_lastSched (s : State) (p : Nat) (x : Part) : (s.putPart p x).lastSched = s.lastSched := rfl
@[simp] theorem State.putPart_lastSlots (s : State) (p : Nat) (x : Part) : (s.putPart p x).lastSlots = s.lastSlots := rfl
@[simp] theorem State.putPart_waiting (s : State) (p : Nat) (x : Part) : (s.putPart p x).waiting = s.waiting := rfl
@[simp] theorem State.putPart_waves (s : State) (p : Nat) (x : Part) : (s.putPart p x).waves = s.waves := rfl
@[simp] theorem State.putPart_ops (s : State) (p : Nat) (x : Part) : (s.putPart p x).ops = s.ops := rfl
@[simp] theorem State.putPart_mem (s : State) (p : Nat) (x : Part) : (s.putPart p x).mem = s.mem := rfl
@[simp] theorem State.putPart_versions (s : State) (p : Nat) (x : Part) : (s.putPart p x).versions = s.versions := rfl
@[simp] theorem State.putPart_poison (s : State) (p : Nat) (x : Part) : (s.putPart p x).poison = s.poison := rfl
@[simp] theorem State.putPart_icv (s : State) (p : Nat) (x : Part) : (s.putPart p x).icv = s.icv := rfl
@[simp] theorem State.putPart_ecc (s : State) (p : Nat) (x : Part) : (s.putPart p x).ecc = s.ecc := rfl
@[simp] theorem State.putPart_tlb (s : State) (p : Nat) (x : Part) : (s.putPart p x).tlb = s.tlb := rfl
@[simp] theorem State.putPart_icache (s : State) (p : Nat) (x : Part) : (s.putPart p x).icache = s.icache := rfl
@[simp] theorem State.putPart_l1 (s : State) (p : Nat) (x : Part) : (s.putPart p x).l1 = s.l1 := rfl
@[simp] theorem State.putPart_rdc (s : State) (p : Nat) (x : Part) : (s.putPart p x).rdc = s.rdc := rfl
@[simp] theorem State.putPart_proxy (s : State) (p : Nat) (x : Part) : (s.putPart p x).proxy = s.proxy := rfl
@[simp] theorem State.putPart_floors (s : State) (p : Nat) (x : Part) : (s.putPart p x).floors = s.floors := rfl
@[simp] theorem State.putPart_holders (s : State) (p : Nat) (x : Part) : (s.putPart p x).holders = s.holders := rfl
@[simp] theorem State.putPart_rf (s : State) (p : Nat) (x : Part) : (s.putPart p x).rf = s.rf := rfl
@[simp] theorem State.putPart_scratch (s : State) (p : Nat) (x : Part) : (s.putPart p x).scratch = s.scratch := rfl
@[simp] theorem State.putPart_tags (s : State) (p : Nat) (x : Part) : (s.putPart p x).tags = s.tags := rfl
@[simp] theorem State.putPart_spadPoison (s : State) (p : Nat) (x : Part) : (s.putPart p x).spadPoison = s.spadPoison := rfl
@[simp] theorem State.putPart_sems (s : State) (p : Nat) (x : Part) : (s.putPart p x).sems = s.sems := rfl
@[simp] theorem State.putPart_tiles (s : State) (p : Nat) (x : Part) : (s.putPart p x).tiles = s.tiles := rfl
@[simp] theorem State.putPart_bslots (s : State) (p : Nat) (x : Part) : (s.putPart p x).bslots = s.bslots := rfl
@[simp] theorem State.putPart_quarters (s : State) (p : Nat) (x : Part) : (s.putPart p x).quarters = s.quarters := rfl
@[simp] theorem State.putPart_passes (s : State) (p : Nat) (x : Part) : (s.putPart p x).passes = s.passes := rfl
@[simp] theorem State.putPart_cards (s : State) (p : Nat) (x : Part) : (s.putPart p x).cards = s.cards := rfl
@[simp] theorem State.putPart_queues (s : State) (p : Nat) (x : Part) : (s.putPart p x).queues = s.queues := rfl
@[simp] theorem State.putPart_launches (s : State) (p : Nat) (x : Part) : (s.putPart p x).launches = s.launches := rfl
@[simp] theorem State.putPart_funcs (s : State) (p : Nat) (x : Part) : (s.putPart p x).funcs = s.funcs := rfl
@[simp] theorem State.putPart_domains (s : State) (p : Nat) (x : Part) : (s.putPart p x).domains = s.domains := rfl
@[simp] theorem State.putPart_blocks (s : State) (p : Nat) (x : Part) : (s.putPart p x).blocks = s.blocks := rfl
@[simp] theorem State.putPart_places (s : State) (p : Nat) (x : Part) : (s.putPart p x).places = s.places := rfl
@[simp] theorem State.putPart_cohorts (s : State) (p : Nat) (x : Part) : (s.putPart p x).cohorts = s.cohorts := rfl
@[simp] theorem State.putPart_groups (s : State) (p : Nat) (x : Part) : (s.putPart p x).groups = s.groups := rfl
@[simp] theorem State.putPart_feeds (s : State) (p : Nat) (x : Part) : (s.putPart p x).feeds = s.feeds := rfl
@[simp] theorem State.putPart_ats (s : State) (p : Nat) (x : Part) : (s.putPart p x).ats = s.ats := rfl
@[simp] theorem State.putPart_pageReqs (s : State) (p : Nat) (x : Part) : (s.putPart p x).pageReqs = s.pageReqs := rfl
@[simp] theorem State.putPart_atsFailed (s : State) (p : Nat) (x : Part) : (s.putPart p x).atsFailed = s.atsFailed := rfl
@[simp] theorem State.putPart_link1Map (s : State) (p : Nat) (x : Part) : (s.putPart p x).link1Map = s.link1Map := rfl
@[simp] theorem State.putPart_peerId (s : State) (p : Nat) (x : Part) : (s.putPart p x).peerId = s.peerId := rfl
@[simp] theorem State.putPart_ports (s : State) (p : Nat) (x : Part) : (s.putPart p x).ports = s.ports := rfl
@[simp] theorem State.putPart_links (s : State) (p : Nat) (x : Part) : (s.putPart p x).links = s.links := rfl
@[simp] theorem State.putPart_lifeIdx (s : State) (p : Nat) (x : Part) : (s.putPart p x).lifeIdx = s.lifeIdx := rfl
@[simp] theorem State.putPart_life (s : State) (p : Nat) (x : Part) : (s.putPart p x).life = s.life := rfl
@[simp] theorem State.putPart_lifeSaved (s : State) (p : Nat) (x : Part) : (s.putPart p x).lifeSaved = s.lifeSaved := rfl
@[simp] theorem State.putPart_pcap (s : State) (p : Nat) (x : Part) : (s.putPart p x).pcap = s.pcap := rfl
@[simp] theorem State.putPart_clockMHz (s : State) (p : Nat) (x : Part) : (s.putPart p x).clockMHz = s.clockMHz := rfl
@[simp] theorem State.putPart_power (s : State) (p : Nat) (x : Part) : (s.putPart p x).power = s.power := rfl
@[simp] theorem State.putPart_flash (s : State) (p : Nat) (x : Part) : (s.putPart p x).flash = s.flash := rfl
@[simp] theorem State.putPart_running (s : State) (p : Nat) (x : Part) : (s.putPart p x).running = s.running := rfl
@[simp] theorem State.putPart_msix (s : State) (p : Nat) (x : Part) : (s.putPart p x).msix = s.msix := rfl
@[simp] theorem State.putPart_hostOut (s : State) (p : Nat) (x : Part) : (s.putPart p x).hostOut = s.hostOut := rfl
@[simp] theorem State.putPart_peerOut (s : State) (p : Nat) (x : Part) : (s.putPart p x).peerOut = s.peerOut := rfl
@[simp] theorem State.putPart_spillCalls (s : State) (p : Nat) (x : Part) : (s.putPart p x).spillCalls = s.spillCalls := rfl
@[simp] theorem State.putPart_spillBytes (s : State) (p : Nat) (x : Part) : (s.putPart p x).spillBytes = s.spillBytes := rfl
@[simp] theorem State.putPart_beqFold (s : State) (p : Nat) (x : Part) : (s.putPart p x).beqFold = s.beqFold := rfl
@[simp] theorem State.putPart_estEvict (s : State) (p : Nat) (x : Part) : (s.putPart p x).estEvict = s.estEvict := rfl
@[simp] theorem State.putPart_emulOps (s : State) (p : Nat) (x : Part) : (s.putPart p x).emulOps = s.emulOps := rfl

/-! ### State.putFunc -/

@[simp] theorem State.putFunc_dtime (s : State) (f : Nat) (x : Func) : (s.putFunc f x).dtime = s.dtime := rfl
@[simp] theorem State.putFunc_cur (s : State) (f : Nat) (x : Func) : (s.putFunc f x).cur = s.cur := rfl
@[simp] theorem State.putFunc_input (s : State) (f : Nat) (x : Func) : (s.putFunc f x).input = s.input := rfl
@[simp] theorem State.putFunc_agenda (s : State) (f : Nat) (x : Func) : (s.putFunc f x).agenda = s.agenda := rfl
@[simp] theorem State.putFunc_draws (s : State) (f : Nat) (x : Func) : (s.putFunc f x).draws = s.draws := rfl
@[simp] theorem State.putFunc_nextUid (s : State) (f : Nat) (x : Func) : (s.putFunc f x).nextUid = s.nextUid := rfl
@[simp] theorem State.putFunc_nextOp (s : State) (f : Nat) (x : Func) : (s.putFunc f x).nextOp = s.nextOp := rfl
@[simp] theorem State.putFunc_nextLaunch (s : State) (f : Nat) (x : Func) : (s.putFunc f x).nextLaunch = s.nextLaunch := rfl
@[simp] theorem State.putFunc_nextBlock (s : State) (f : Nat) (x : Func) : (s.putFunc f x).nextBlock = s.nextBlock := rfl
@[simp] theorem State.putFunc_lastSched (s : State) (f : Nat) (x : Func) : (s.putFunc f x).lastSched = s.lastSched := rfl
@[simp] theorem State.putFunc_lastSlots (s : State) (f : Nat) (x : Func) : (s.putFunc f x).lastSlots = s.lastSlots := rfl
@[simp] theorem State.putFunc_waiting (s : State) (f : Nat) (x : Func) : (s.putFunc f x).waiting = s.waiting := rfl
@[simp] theorem State.putFunc_waves (s : State) (f : Nat) (x : Func) : (s.putFunc f x).waves = s.waves := rfl
@[simp] theorem State.putFunc_ops (s : State) (f : Nat) (x : Func) : (s.putFunc f x).ops = s.ops := rfl
@[simp] theorem State.putFunc_mem (s : State) (f : Nat) (x : Func) : (s.putFunc f x).mem = s.mem := rfl
@[simp] theorem State.putFunc_versions (s : State) (f : Nat) (x : Func) : (s.putFunc f x).versions = s.versions := rfl
@[simp] theorem State.putFunc_poison (s : State) (f : Nat) (x : Func) : (s.putFunc f x).poison = s.poison := rfl
@[simp] theorem State.putFunc_icv (s : State) (f : Nat) (x : Func) : (s.putFunc f x).icv = s.icv := rfl
@[simp] theorem State.putFunc_ecc (s : State) (f : Nat) (x : Func) : (s.putFunc f x).ecc = s.ecc := rfl
@[simp] theorem State.putFunc_tlb (s : State) (f : Nat) (x : Func) : (s.putFunc f x).tlb = s.tlb := rfl
@[simp] theorem State.putFunc_icache (s : State) (f : Nat) (x : Func) : (s.putFunc f x).icache = s.icache := rfl
@[simp] theorem State.putFunc_l1 (s : State) (f : Nat) (x : Func) : (s.putFunc f x).l1 = s.l1 := rfl
@[simp] theorem State.putFunc_rdc (s : State) (f : Nat) (x : Func) : (s.putFunc f x).rdc = s.rdc := rfl
@[simp] theorem State.putFunc_proxy (s : State) (f : Nat) (x : Func) : (s.putFunc f x).proxy = s.proxy := rfl
@[simp] theorem State.putFunc_floors (s : State) (f : Nat) (x : Func) : (s.putFunc f x).floors = s.floors := rfl
@[simp] theorem State.putFunc_holders (s : State) (f : Nat) (x : Func) : (s.putFunc f x).holders = s.holders := rfl
@[simp] theorem State.putFunc_rf (s : State) (f : Nat) (x : Func) : (s.putFunc f x).rf = s.rf := rfl
@[simp] theorem State.putFunc_scratch (s : State) (f : Nat) (x : Func) : (s.putFunc f x).scratch = s.scratch := rfl
@[simp] theorem State.putFunc_tags (s : State) (f : Nat) (x : Func) : (s.putFunc f x).tags = s.tags := rfl
@[simp] theorem State.putFunc_spadPoison (s : State) (f : Nat) (x : Func) : (s.putFunc f x).spadPoison = s.spadPoison := rfl
@[simp] theorem State.putFunc_sems (s : State) (f : Nat) (x : Func) : (s.putFunc f x).sems = s.sems := rfl
@[simp] theorem State.putFunc_tiles (s : State) (f : Nat) (x : Func) : (s.putFunc f x).tiles = s.tiles := rfl
@[simp] theorem State.putFunc_bslots (s : State) (f : Nat) (x : Func) : (s.putFunc f x).bslots = s.bslots := rfl
@[simp] theorem State.putFunc_quarters (s : State) (f : Nat) (x : Func) : (s.putFunc f x).quarters = s.quarters := rfl
@[simp] theorem State.putFunc_passes (s : State) (f : Nat) (x : Func) : (s.putFunc f x).passes = s.passes := rfl
@[simp] theorem State.putFunc_cards (s : State) (f : Nat) (x : Func) : (s.putFunc f x).cards = s.cards := rfl
@[simp] theorem State.putFunc_queues (s : State) (f : Nat) (x : Func) : (s.putFunc f x).queues = s.queues := rfl
@[simp] theorem State.putFunc_launches (s : State) (f : Nat) (x : Func) : (s.putFunc f x).launches = s.launches := rfl
@[simp] theorem State.putFunc_parts (s : State) (f : Nat) (x : Func) : (s.putFunc f x).parts = s.parts := rfl
@[simp] theorem State.putFunc_domains (s : State) (f : Nat) (x : Func) : (s.putFunc f x).domains = s.domains := rfl
@[simp] theorem State.putFunc_blocks (s : State) (f : Nat) (x : Func) : (s.putFunc f x).blocks = s.blocks := rfl
@[simp] theorem State.putFunc_places (s : State) (f : Nat) (x : Func) : (s.putFunc f x).places = s.places := rfl
@[simp] theorem State.putFunc_cohorts (s : State) (f : Nat) (x : Func) : (s.putFunc f x).cohorts = s.cohorts := rfl
@[simp] theorem State.putFunc_groups (s : State) (f : Nat) (x : Func) : (s.putFunc f x).groups = s.groups := rfl
@[simp] theorem State.putFunc_feeds (s : State) (f : Nat) (x : Func) : (s.putFunc f x).feeds = s.feeds := rfl
@[simp] theorem State.putFunc_ats (s : State) (f : Nat) (x : Func) : (s.putFunc f x).ats = s.ats := rfl
@[simp] theorem State.putFunc_pageReqs (s : State) (f : Nat) (x : Func) : (s.putFunc f x).pageReqs = s.pageReqs := rfl
@[simp] theorem State.putFunc_atsFailed (s : State) (f : Nat) (x : Func) : (s.putFunc f x).atsFailed = s.atsFailed := rfl
@[simp] theorem State.putFunc_link1Map (s : State) (f : Nat) (x : Func) : (s.putFunc f x).link1Map = s.link1Map := rfl
@[simp] theorem State.putFunc_peerId (s : State) (f : Nat) (x : Func) : (s.putFunc f x).peerId = s.peerId := rfl
@[simp] theorem State.putFunc_ports (s : State) (f : Nat) (x : Func) : (s.putFunc f x).ports = s.ports := rfl
@[simp] theorem State.putFunc_links (s : State) (f : Nat) (x : Func) : (s.putFunc f x).links = s.links := rfl
@[simp] theorem State.putFunc_lifeIdx (s : State) (f : Nat) (x : Func) : (s.putFunc f x).lifeIdx = s.lifeIdx := rfl
@[simp] theorem State.putFunc_life (s : State) (f : Nat) (x : Func) : (s.putFunc f x).life = s.life := rfl
@[simp] theorem State.putFunc_lifeSaved (s : State) (f : Nat) (x : Func) : (s.putFunc f x).lifeSaved = s.lifeSaved := rfl
@[simp] theorem State.putFunc_pcap (s : State) (f : Nat) (x : Func) : (s.putFunc f x).pcap = s.pcap := rfl
@[simp] theorem State.putFunc_clockMHz (s : State) (f : Nat) (x : Func) : (s.putFunc f x).clockMHz = s.clockMHz := rfl
@[simp] theorem State.putFunc_power (s : State) (f : Nat) (x : Func) : (s.putFunc f x).power = s.power := rfl
@[simp] theorem State.putFunc_flash (s : State) (f : Nat) (x : Func) : (s.putFunc f x).flash = s.flash := rfl
@[simp] theorem State.putFunc_running (s : State) (f : Nat) (x : Func) : (s.putFunc f x).running = s.running := rfl
@[simp] theorem State.putFunc_msix (s : State) (f : Nat) (x : Func) : (s.putFunc f x).msix = s.msix := rfl
@[simp] theorem State.putFunc_hostOut (s : State) (f : Nat) (x : Func) : (s.putFunc f x).hostOut = s.hostOut := rfl
@[simp] theorem State.putFunc_peerOut (s : State) (f : Nat) (x : Func) : (s.putFunc f x).peerOut = s.peerOut := rfl
@[simp] theorem State.putFunc_spillCalls (s : State) (f : Nat) (x : Func) : (s.putFunc f x).spillCalls = s.spillCalls := rfl
@[simp] theorem State.putFunc_spillBytes (s : State) (f : Nat) (x : Func) : (s.putFunc f x).spillBytes = s.spillBytes := rfl
@[simp] theorem State.putFunc_beqFold (s : State) (f : Nat) (x : Func) : (s.putFunc f x).beqFold = s.beqFold := rfl
@[simp] theorem State.putFunc_estEvict (s : State) (f : Nat) (x : Func) : (s.putFunc f x).estEvict = s.estEvict := rfl
@[simp] theorem State.putFunc_emulOps (s : State) (f : Nat) (x : Func) : (s.putFunc f x).emulOps = s.emulOps := rfl

/-! ### State.due -/

@[simp] theorem State.due_dtime (s : State) (i : Instr) (inp : Input) : (s.due i inp).dtime = s.dtime := rfl
@[simp] theorem State.due_cur (s : State) (i : Instr) (inp : Input) : (s.due i inp).cur = s.cur := rfl
@[simp] theorem State.due_input (s : State) (i : Instr) (inp : Input) : (s.due i inp).input = s.input := rfl
@[simp] theorem State.due_draws (s : State) (i : Instr) (inp : Input) : (s.due i inp).draws = s.draws := rfl
@[simp] theorem State.due_nextUid (s : State) (i : Instr) (inp : Input) : (s.due i inp).nextUid = s.nextUid := rfl
@[simp] theorem State.due_nextOp (s : State) (i : Instr) (inp : Input) : (s.due i inp).nextOp = s.nextOp := rfl
@[simp] theorem State.due_nextLaunch (s : State) (i : Instr) (inp : Input) : (s.due i inp).nextLaunch = s.nextLaunch := rfl
@[simp] theorem State.due_nextBlock (s : State) (i : Instr) (inp : Input) : (s.due i inp).nextBlock = s.nextBlock := rfl
@[simp] theorem State.due_lastSched (s : State) (i : Instr) (inp : Input) : (s.due i inp).lastSched = s.lastSched := rfl
@[simp] theorem State.due_lastSlots (s : State) (i : Instr) (inp : Input) : (s.due i inp).lastSlots = s.lastSlots := rfl
@[simp] theorem State.due_waiting (s : State) (i : Instr) (inp : Input) : (s.due i inp).waiting = s.waiting := rfl
@[simp] theorem State.due_waves (s : State) (i : Instr) (inp : Input) : (s.due i inp).waves = s.waves := rfl
@[simp] theorem State.due_ops (s : State) (i : Instr) (inp : Input) : (s.due i inp).ops = s.ops := rfl
@[simp] theorem State.due_mem (s : State) (i : Instr) (inp : Input) : (s.due i inp).mem = s.mem := rfl
@[simp] theorem State.due_versions (s : State) (i : Instr) (inp : Input) : (s.due i inp).versions = s.versions := rfl
@[simp] theorem State.due_poison (s : State) (i : Instr) (inp : Input) : (s.due i inp).poison = s.poison := rfl
@[simp] theorem State.due_icv (s : State) (i : Instr) (inp : Input) : (s.due i inp).icv = s.icv := rfl
@[simp] theorem State.due_ecc (s : State) (i : Instr) (inp : Input) : (s.due i inp).ecc = s.ecc := rfl
@[simp] theorem State.due_tlb (s : State) (i : Instr) (inp : Input) : (s.due i inp).tlb = s.tlb := rfl
@[simp] theorem State.due_icache (s : State) (i : Instr) (inp : Input) : (s.due i inp).icache = s.icache := rfl
@[simp] theorem State.due_l1 (s : State) (i : Instr) (inp : Input) : (s.due i inp).l1 = s.l1 := rfl
@[simp] theorem State.due_rdc (s : State) (i : Instr) (inp : Input) : (s.due i inp).rdc = s.rdc := rfl
@[simp] theorem State.due_proxy (s : State) (i : Instr) (inp : Input) : (s.due i inp).proxy = s.proxy := rfl
@[simp] theorem State.due_floors (s : State) (i : Instr) (inp : Input) : (s.due i inp).floors = s.floors := rfl
@[simp] theorem State.due_holders (s : State) (i : Instr) (inp : Input) : (s.due i inp).holders = s.holders := rfl
@[simp] theorem State.due_rf (s : State) (i : Instr) (inp : Input) : (s.due i inp).rf = s.rf := rfl
@[simp] theorem State.due_scratch (s : State) (i : Instr) (inp : Input) : (s.due i inp).scratch = s.scratch := rfl
@[simp] theorem State.due_tags (s : State) (i : Instr) (inp : Input) : (s.due i inp).tags = s.tags := rfl
@[simp] theorem State.due_spadPoison (s : State) (i : Instr) (inp : Input) : (s.due i inp).spadPoison = s.spadPoison := rfl
@[simp] theorem State.due_sems (s : State) (i : Instr) (inp : Input) : (s.due i inp).sems = s.sems := rfl
@[simp] theorem State.due_tiles (s : State) (i : Instr) (inp : Input) : (s.due i inp).tiles = s.tiles := rfl
@[simp] theorem State.due_bslots (s : State) (i : Instr) (inp : Input) : (s.due i inp).bslots = s.bslots := rfl
@[simp] theorem State.due_quarters (s : State) (i : Instr) (inp : Input) : (s.due i inp).quarters = s.quarters := rfl
@[simp] theorem State.due_passes (s : State) (i : Instr) (inp : Input) : (s.due i inp).passes = s.passes := rfl
@[simp] theorem State.due_cards (s : State) (i : Instr) (inp : Input) : (s.due i inp).cards = s.cards := rfl
@[simp] theorem State.due_queues (s : State) (i : Instr) (inp : Input) : (s.due i inp).queues = s.queues := rfl
@[simp] theorem State.due_launches (s : State) (i : Instr) (inp : Input) : (s.due i inp).launches = s.launches := rfl
@[simp] theorem State.due_parts (s : State) (i : Instr) (inp : Input) : (s.due i inp).parts = s.parts := rfl
@[simp] theorem State.due_funcs (s : State) (i : Instr) (inp : Input) : (s.due i inp).funcs = s.funcs := rfl
@[simp] theorem State.due_domains (s : State) (i : Instr) (inp : Input) : (s.due i inp).domains = s.domains := rfl
@[simp] theorem State.due_blocks (s : State) (i : Instr) (inp : Input) : (s.due i inp).blocks = s.blocks := rfl
@[simp] theorem State.due_places (s : State) (i : Instr) (inp : Input) : (s.due i inp).places = s.places := rfl
@[simp] theorem State.due_cohorts (s : State) (i : Instr) (inp : Input) : (s.due i inp).cohorts = s.cohorts := rfl
@[simp] theorem State.due_groups (s : State) (i : Instr) (inp : Input) : (s.due i inp).groups = s.groups := rfl
@[simp] theorem State.due_feeds (s : State) (i : Instr) (inp : Input) : (s.due i inp).feeds = s.feeds := rfl
@[simp] theorem State.due_ats (s : State) (i : Instr) (inp : Input) : (s.due i inp).ats = s.ats := rfl
@[simp] theorem State.due_pageReqs (s : State) (i : Instr) (inp : Input) : (s.due i inp).pageReqs = s.pageReqs := rfl
@[simp] theorem State.due_atsFailed (s : State) (i : Instr) (inp : Input) : (s.due i inp).atsFailed = s.atsFailed := rfl
@[simp] theorem State.due_link1Map (s : State) (i : Instr) (inp : Input) : (s.due i inp).link1Map = s.link1Map := rfl
@[simp] theorem State.due_peerId (s : State) (i : Instr) (inp : Input) : (s.due i inp).peerId = s.peerId := rfl
@[simp] theorem State.due_ports (s : State) (i : Instr) (inp : Input) : (s.due i inp).ports = s.ports := rfl
@[simp] theorem State.due_links (s : State) (i : Instr) (inp : Input) : (s.due i inp).links = s.links := rfl
@[simp] theorem State.due_lifeIdx (s : State) (i : Instr) (inp : Input) : (s.due i inp).lifeIdx = s.lifeIdx := rfl
@[simp] theorem State.due_life (s : State) (i : Instr) (inp : Input) : (s.due i inp).life = s.life := rfl
@[simp] theorem State.due_lifeSaved (s : State) (i : Instr) (inp : Input) : (s.due i inp).lifeSaved = s.lifeSaved := rfl
@[simp] theorem State.due_pcap (s : State) (i : Instr) (inp : Input) : (s.due i inp).pcap = s.pcap := rfl
@[simp] theorem State.due_clockMHz (s : State) (i : Instr) (inp : Input) : (s.due i inp).clockMHz = s.clockMHz := rfl
@[simp] theorem State.due_power (s : State) (i : Instr) (inp : Input) : (s.due i inp).power = s.power := rfl
@[simp] theorem State.due_flash (s : State) (i : Instr) (inp : Input) : (s.due i inp).flash = s.flash := rfl
@[simp] theorem State.due_running (s : State) (i : Instr) (inp : Input) : (s.due i inp).running = s.running := rfl
@[simp] theorem State.due_msix (s : State) (i : Instr) (inp : Input) : (s.due i inp).msix = s.msix := rfl
@[simp] theorem State.due_hostOut (s : State) (i : Instr) (inp : Input) : (s.due i inp).hostOut = s.hostOut := rfl
@[simp] theorem State.due_peerOut (s : State) (i : Instr) (inp : Input) : (s.due i inp).peerOut = s.peerOut := rfl
@[simp] theorem State.due_spillCalls (s : State) (i : Instr) (inp : Input) : (s.due i inp).spillCalls = s.spillCalls := rfl
@[simp] theorem State.due_spillBytes (s : State) (i : Instr) (inp : Input) : (s.due i inp).spillBytes = s.spillBytes := rfl
@[simp] theorem State.due_beqFold (s : State) (i : Instr) (inp : Input) : (s.due i inp).beqFold = s.beqFold := rfl
@[simp] theorem State.due_estEvict (s : State) (i : Instr) (inp : Input) : (s.due i inp).estEvict = s.estEvict := rfl
@[simp] theorem State.due_emulOps (s : State) (i : Instr) (inp : Input) : (s.due i inp).emulOps = s.emulOps := rfl

/-! ### State.putSem -/

@[simp] theorem State.putSem_dtime (s : State) (k : Nat) (v : Word) : (s.putSem k v).dtime = s.dtime := rfl
@[simp] theorem State.putSem_cur (s : State) (k : Nat) (v : Word) : (s.putSem k v).cur = s.cur := rfl
@[simp] theorem State.putSem_input (s : State) (k : Nat) (v : Word) : (s.putSem k v).input = s.input := rfl
@[simp] theorem State.putSem_agenda (s : State) (k : Nat) (v : Word) : (s.putSem k v).agenda = s.agenda := rfl
@[simp] theorem State.putSem_draws (s : State) (k : Nat) (v : Word) : (s.putSem k v).draws = s.draws := rfl
@[simp] theorem State.putSem_nextUid (s : State) (k : Nat) (v : Word) : (s.putSem k v).nextUid = s.nextUid := rfl
@[simp] theorem State.putSem_nextOp (s : State) (k : Nat) (v : Word) : (s.putSem k v).nextOp = s.nextOp := rfl
@[simp] theorem State.putSem_nextLaunch (s : State) (k : Nat) (v : Word) : (s.putSem k v).nextLaunch = s.nextLaunch := rfl
@[simp] theorem State.putSem_nextBlock (s : State) (k : Nat) (v : Word) : (s.putSem k v).nextBlock = s.nextBlock := rfl
@[simp] theorem State.putSem_lastSched (s : State) (k : Nat) (v : Word) : (s.putSem k v).lastSched = s.lastSched := rfl
@[simp] theorem State.putSem_lastSlots (s : State) (k : Nat) (v : Word) : (s.putSem k v).lastSlots = s.lastSlots := rfl
@[simp] theorem State.putSem_waiting (s : State) (k : Nat) (v : Word) : (s.putSem k v).waiting = s.waiting := rfl
@[simp] theorem State.putSem_waves (s : State) (k : Nat) (v : Word) : (s.putSem k v).waves = s.waves := rfl
@[simp] theorem State.putSem_ops (s : State) (k : Nat) (v : Word) : (s.putSem k v).ops = s.ops := rfl
@[simp] theorem State.putSem_mem (s : State) (k : Nat) (v : Word) : (s.putSem k v).mem = s.mem := rfl
@[simp] theorem State.putSem_versions (s : State) (k : Nat) (v : Word) : (s.putSem k v).versions = s.versions := rfl
@[simp] theorem State.putSem_poison (s : State) (k : Nat) (v : Word) : (s.putSem k v).poison = s.poison := rfl
@[simp] theorem State.putSem_icv (s : State) (k : Nat) (v : Word) : (s.putSem k v).icv = s.icv := rfl
@[simp] theorem State.putSem_ecc (s : State) (k : Nat) (v : Word) : (s.putSem k v).ecc = s.ecc := rfl
@[simp] theorem State.putSem_tlb (s : State) (k : Nat) (v : Word) : (s.putSem k v).tlb = s.tlb := rfl
@[simp] theorem State.putSem_icache (s : State) (k : Nat) (v : Word) : (s.putSem k v).icache = s.icache := rfl
@[simp] theorem State.putSem_l1 (s : State) (k : Nat) (v : Word) : (s.putSem k v).l1 = s.l1 := rfl
@[simp] theorem State.putSem_rdc (s : State) (k : Nat) (v : Word) : (s.putSem k v).rdc = s.rdc := rfl
@[simp] theorem State.putSem_proxy (s : State) (k : Nat) (v : Word) : (s.putSem k v).proxy = s.proxy := rfl
@[simp] theorem State.putSem_floors (s : State) (k : Nat) (v : Word) : (s.putSem k v).floors = s.floors := rfl
@[simp] theorem State.putSem_holders (s : State) (k : Nat) (v : Word) : (s.putSem k v).holders = s.holders := rfl
@[simp] theorem State.putSem_rf (s : State) (k : Nat) (v : Word) : (s.putSem k v).rf = s.rf := rfl
@[simp] theorem State.putSem_scratch (s : State) (k : Nat) (v : Word) : (s.putSem k v).scratch = s.scratch := rfl
@[simp] theorem State.putSem_tags (s : State) (k : Nat) (v : Word) : (s.putSem k v).tags = s.tags := rfl
@[simp] theorem State.putSem_spadPoison (s : State) (k : Nat) (v : Word) : (s.putSem k v).spadPoison = s.spadPoison := rfl
@[simp] theorem State.putSem_tiles (s : State) (k : Nat) (v : Word) : (s.putSem k v).tiles = s.tiles := rfl
@[simp] theorem State.putSem_bslots (s : State) (k : Nat) (v : Word) : (s.putSem k v).bslots = s.bslots := rfl
@[simp] theorem State.putSem_quarters (s : State) (k : Nat) (v : Word) : (s.putSem k v).quarters = s.quarters := rfl
@[simp] theorem State.putSem_passes (s : State) (k : Nat) (v : Word) : (s.putSem k v).passes = s.passes := rfl
@[simp] theorem State.putSem_cards (s : State) (k : Nat) (v : Word) : (s.putSem k v).cards = s.cards := rfl
@[simp] theorem State.putSem_queues (s : State) (k : Nat) (v : Word) : (s.putSem k v).queues = s.queues := rfl
@[simp] theorem State.putSem_launches (s : State) (k : Nat) (v : Word) : (s.putSem k v).launches = s.launches := rfl
@[simp] theorem State.putSem_parts (s : State) (k : Nat) (v : Word) : (s.putSem k v).parts = s.parts := rfl
@[simp] theorem State.putSem_funcs (s : State) (k : Nat) (v : Word) : (s.putSem k v).funcs = s.funcs := rfl
@[simp] theorem State.putSem_domains (s : State) (k : Nat) (v : Word) : (s.putSem k v).domains = s.domains := rfl
@[simp] theorem State.putSem_blocks (s : State) (k : Nat) (v : Word) : (s.putSem k v).blocks = s.blocks := rfl
@[simp] theorem State.putSem_places (s : State) (k : Nat) (v : Word) : (s.putSem k v).places = s.places := rfl
@[simp] theorem State.putSem_cohorts (s : State) (k : Nat) (v : Word) : (s.putSem k v).cohorts = s.cohorts := rfl
@[simp] theorem State.putSem_groups (s : State) (k : Nat) (v : Word) : (s.putSem k v).groups = s.groups := rfl
@[simp] theorem State.putSem_feeds (s : State) (k : Nat) (v : Word) : (s.putSem k v).feeds = s.feeds := rfl
@[simp] theorem State.putSem_ats (s : State) (k : Nat) (v : Word) : (s.putSem k v).ats = s.ats := rfl
@[simp] theorem State.putSem_pageReqs (s : State) (k : Nat) (v : Word) : (s.putSem k v).pageReqs = s.pageReqs := rfl
@[simp] theorem State.putSem_atsFailed (s : State) (k : Nat) (v : Word) : (s.putSem k v).atsFailed = s.atsFailed := rfl
@[simp] theorem State.putSem_link1Map (s : State) (k : Nat) (v : Word) : (s.putSem k v).link1Map = s.link1Map := rfl
@[simp] theorem State.putSem_peerId (s : State) (k : Nat) (v : Word) : (s.putSem k v).peerId = s.peerId := rfl
@[simp] theorem State.putSem_ports (s : State) (k : Nat) (v : Word) : (s.putSem k v).ports = s.ports := rfl
@[simp] theorem State.putSem_links (s : State) (k : Nat) (v : Word) : (s.putSem k v).links = s.links := rfl
@[simp] theorem State.putSem_lifeIdx (s : State) (k : Nat) (v : Word) : (s.putSem k v).lifeIdx = s.lifeIdx := rfl
@[simp] theorem State.putSem_life (s : State) (k : Nat) (v : Word) : (s.putSem k v).life = s.life := rfl
@[simp] theorem State.putSem_lifeSaved (s : State) (k : Nat) (v : Word) : (s.putSem k v).lifeSaved = s.lifeSaved := rfl
@[simp] theorem State.putSem_pcap (s : State) (k : Nat) (v : Word) : (s.putSem k v).pcap = s.pcap := rfl
@[simp] theorem State.putSem_clockMHz (s : State) (k : Nat) (v : Word) : (s.putSem k v).clockMHz = s.clockMHz := rfl
@[simp] theorem State.putSem_power (s : State) (k : Nat) (v : Word) : (s.putSem k v).power = s.power := rfl
@[simp] theorem State.putSem_flash (s : State) (k : Nat) (v : Word) : (s.putSem k v).flash = s.flash := rfl
@[simp] theorem State.putSem_running (s : State) (k : Nat) (v : Word) : (s.putSem k v).running = s.running := rfl
@[simp] theorem State.putSem_msix (s : State) (k : Nat) (v : Word) : (s.putSem k v).msix = s.msix := rfl
@[simp] theorem State.putSem_hostOut (s : State) (k : Nat) (v : Word) : (s.putSem k v).hostOut = s.hostOut := rfl
@[simp] theorem State.putSem_peerOut (s : State) (k : Nat) (v : Word) : (s.putSem k v).peerOut = s.peerOut := rfl
@[simp] theorem State.putSem_spillCalls (s : State) (k : Nat) (v : Word) : (s.putSem k v).spillCalls = s.spillCalls := rfl
@[simp] theorem State.putSem_spillBytes (s : State) (k : Nat) (v : Word) : (s.putSem k v).spillBytes = s.spillBytes := rfl
@[simp] theorem State.putSem_beqFold (s : State) (k : Nat) (v : Word) : (s.putSem k v).beqFold = s.beqFold := rfl
@[simp] theorem State.putSem_estEvict (s : State) (k : Nat) (v : Word) : (s.putSem k v).estEvict = s.estEvict := rfl
@[simp] theorem State.putSem_emulOps (s : State) (k : Nat) (v : Word) : (s.putSem k v).emulOps = s.emulOps := rfl

/-! ### State.dropOp -/

@[simp] theorem State.dropOp_dtime (s : State) (id : Nat) : (s.dropOp id).dtime = s.dtime := rfl
@[simp] theorem State.dropOp_cur (s : State) (id : Nat) : (s.dropOp id).cur = s.cur := rfl
@[simp] theorem State.dropOp_input (s : State) (id : Nat) : (s.dropOp id).input = s.input := rfl
@[simp] theorem State.dropOp_agenda (s : State) (id : Nat) : (s.dropOp id).agenda = s.agenda := rfl
@[simp] theorem State.dropOp_draws (s : State) (id : Nat) : (s.dropOp id).draws = s.draws := rfl
@[simp] theorem State.dropOp_nextUid (s : State) (id : Nat) : (s.dropOp id).nextUid = s.nextUid := rfl
@[simp] theorem State.dropOp_nextOp (s : State) (id : Nat) : (s.dropOp id).nextOp = s.nextOp := rfl
@[simp] theorem State.dropOp_nextLaunch (s : State) (id : Nat) : (s.dropOp id).nextLaunch = s.nextLaunch := rfl
@[simp] theorem State.dropOp_nextBlock (s : State) (id : Nat) : (s.dropOp id).nextBlock = s.nextBlock := rfl
@[simp] theorem State.dropOp_lastSched (s : State) (id : Nat) : (s.dropOp id).lastSched = s.lastSched := rfl
@[simp] theorem State.dropOp_lastSlots (s : State) (id : Nat) : (s.dropOp id).lastSlots = s.lastSlots := rfl
@[simp] theorem State.dropOp_waiting (s : State) (id : Nat) : (s.dropOp id).waiting = s.waiting := rfl
@[simp] theorem State.dropOp_waves (s : State) (id : Nat) : (s.dropOp id).waves = s.waves := rfl
@[simp] theorem State.dropOp_mem (s : State) (id : Nat) : (s.dropOp id).mem = s.mem := rfl
@[simp] theorem State.dropOp_versions (s : State) (id : Nat) : (s.dropOp id).versions = s.versions := rfl
@[simp] theorem State.dropOp_poison (s : State) (id : Nat) : (s.dropOp id).poison = s.poison := rfl
@[simp] theorem State.dropOp_icv (s : State) (id : Nat) : (s.dropOp id).icv = s.icv := rfl
@[simp] theorem State.dropOp_ecc (s : State) (id : Nat) : (s.dropOp id).ecc = s.ecc := rfl
@[simp] theorem State.dropOp_tlb (s : State) (id : Nat) : (s.dropOp id).tlb = s.tlb := rfl
@[simp] theorem State.dropOp_icache (s : State) (id : Nat) : (s.dropOp id).icache = s.icache := rfl
@[simp] theorem State.dropOp_l1 (s : State) (id : Nat) : (s.dropOp id).l1 = s.l1 := rfl
@[simp] theorem State.dropOp_rdc (s : State) (id : Nat) : (s.dropOp id).rdc = s.rdc := rfl
@[simp] theorem State.dropOp_proxy (s : State) (id : Nat) : (s.dropOp id).proxy = s.proxy := rfl
@[simp] theorem State.dropOp_floors (s : State) (id : Nat) : (s.dropOp id).floors = s.floors := rfl
@[simp] theorem State.dropOp_holders (s : State) (id : Nat) : (s.dropOp id).holders = s.holders := rfl
@[simp] theorem State.dropOp_rf (s : State) (id : Nat) : (s.dropOp id).rf = s.rf := rfl
@[simp] theorem State.dropOp_scratch (s : State) (id : Nat) : (s.dropOp id).scratch = s.scratch := rfl
@[simp] theorem State.dropOp_tags (s : State) (id : Nat) : (s.dropOp id).tags = s.tags := rfl
@[simp] theorem State.dropOp_spadPoison (s : State) (id : Nat) : (s.dropOp id).spadPoison = s.spadPoison := rfl
@[simp] theorem State.dropOp_sems (s : State) (id : Nat) : (s.dropOp id).sems = s.sems := rfl
@[simp] theorem State.dropOp_tiles (s : State) (id : Nat) : (s.dropOp id).tiles = s.tiles := rfl
@[simp] theorem State.dropOp_bslots (s : State) (id : Nat) : (s.dropOp id).bslots = s.bslots := rfl
@[simp] theorem State.dropOp_quarters (s : State) (id : Nat) : (s.dropOp id).quarters = s.quarters := rfl
@[simp] theorem State.dropOp_passes (s : State) (id : Nat) : (s.dropOp id).passes = s.passes := rfl
@[simp] theorem State.dropOp_cards (s : State) (id : Nat) : (s.dropOp id).cards = s.cards := rfl
@[simp] theorem State.dropOp_queues (s : State) (id : Nat) : (s.dropOp id).queues = s.queues := rfl
@[simp] theorem State.dropOp_launches (s : State) (id : Nat) : (s.dropOp id).launches = s.launches := rfl
@[simp] theorem State.dropOp_parts (s : State) (id : Nat) : (s.dropOp id).parts = s.parts := rfl
@[simp] theorem State.dropOp_funcs (s : State) (id : Nat) : (s.dropOp id).funcs = s.funcs := rfl
@[simp] theorem State.dropOp_domains (s : State) (id : Nat) : (s.dropOp id).domains = s.domains := rfl
@[simp] theorem State.dropOp_blocks (s : State) (id : Nat) : (s.dropOp id).blocks = s.blocks := rfl
@[simp] theorem State.dropOp_places (s : State) (id : Nat) : (s.dropOp id).places = s.places := rfl
@[simp] theorem State.dropOp_cohorts (s : State) (id : Nat) : (s.dropOp id).cohorts = s.cohorts := rfl
@[simp] theorem State.dropOp_groups (s : State) (id : Nat) : (s.dropOp id).groups = s.groups := rfl
@[simp] theorem State.dropOp_feeds (s : State) (id : Nat) : (s.dropOp id).feeds = s.feeds := rfl
@[simp] theorem State.dropOp_ats (s : State) (id : Nat) : (s.dropOp id).ats = s.ats := rfl
@[simp] theorem State.dropOp_pageReqs (s : State) (id : Nat) : (s.dropOp id).pageReqs = s.pageReqs := rfl
@[simp] theorem State.dropOp_atsFailed (s : State) (id : Nat) : (s.dropOp id).atsFailed = s.atsFailed := rfl
@[simp] theorem State.dropOp_link1Map (s : State) (id : Nat) : (s.dropOp id).link1Map = s.link1Map := rfl
@[simp] theorem State.dropOp_peerId (s : State) (id : Nat) : (s.dropOp id).peerId = s.peerId := rfl
@[simp] theorem State.dropOp_ports (s : State) (id : Nat) : (s.dropOp id).ports = s.ports := rfl
@[simp] theorem State.dropOp_links (s : State) (id : Nat) : (s.dropOp id).links = s.links := rfl
@[simp] theorem State.dropOp_lifeIdx (s : State) (id : Nat) : (s.dropOp id).lifeIdx = s.lifeIdx := rfl
@[simp] theorem State.dropOp_life (s : State) (id : Nat) : (s.dropOp id).life = s.life := rfl
@[simp] theorem State.dropOp_lifeSaved (s : State) (id : Nat) : (s.dropOp id).lifeSaved = s.lifeSaved := rfl
@[simp] theorem State.dropOp_pcap (s : State) (id : Nat) : (s.dropOp id).pcap = s.pcap := rfl
@[simp] theorem State.dropOp_clockMHz (s : State) (id : Nat) : (s.dropOp id).clockMHz = s.clockMHz := rfl
@[simp] theorem State.dropOp_power (s : State) (id : Nat) : (s.dropOp id).power = s.power := rfl
@[simp] theorem State.dropOp_flash (s : State) (id : Nat) : (s.dropOp id).flash = s.flash := rfl
@[simp] theorem State.dropOp_running (s : State) (id : Nat) : (s.dropOp id).running = s.running := rfl
@[simp] theorem State.dropOp_msix (s : State) (id : Nat) : (s.dropOp id).msix = s.msix := rfl
@[simp] theorem State.dropOp_hostOut (s : State) (id : Nat) : (s.dropOp id).hostOut = s.hostOut := rfl
@[simp] theorem State.dropOp_peerOut (s : State) (id : Nat) : (s.dropOp id).peerOut = s.peerOut := rfl
@[simp] theorem State.dropOp_spillCalls (s : State) (id : Nat) : (s.dropOp id).spillCalls = s.spillCalls := rfl
@[simp] theorem State.dropOp_spillBytes (s : State) (id : Nat) : (s.dropOp id).spillBytes = s.spillBytes := rfl
@[simp] theorem State.dropOp_beqFold (s : State) (id : Nat) : (s.dropOp id).beqFold = s.beqFold := rfl
@[simp] theorem State.dropOp_estEvict (s : State) (id : Nat) : (s.dropOp id).estEvict = s.estEvict := rfl
@[simp] theorem State.dropOp_emulOps (s : State) (id : Nat) : (s.dropOp id).emulOps = s.emulOps := rfl

/-! ### State.modOp -/

@[simp] theorem State.modOp_dtime (s : State) (id : Nat) (f : Op → Op) : (s.modOp id f).dtime = s.dtime := rfl
@[simp] theorem State.modOp_cur (s : State) (id : Nat) (f : Op → Op) : (s.modOp id f).cur = s.cur := rfl
@[simp] theorem State.modOp_input (s : State) (id : Nat) (f : Op → Op) : (s.modOp id f).input = s.input := rfl
@[simp] theorem State.modOp_agenda (s : State) (id : Nat) (f : Op → Op) : (s.modOp id f).agenda = s.agenda := rfl
@[simp] theorem State.modOp_draws (s : State) (id : Nat) (f : Op → Op) : (s.modOp id f).draws = s.draws := rfl
@[simp] theorem State.modOp_nextUid (s : State) (id : Nat) (f : Op → Op) : (s.modOp id f).nextUid = s.nextUid := rfl
@[simp] theorem State.modOp_nextOp (s : State) (id : Nat) (f : Op → Op) : (s.modOp id f).nextOp = s.nextOp := rfl
@[simp] theorem State.modOp_nextLaunch (s : State) (id : Nat) (f : Op → Op) : (s.modOp id f).nextLaunch = s.nextLaunch := rfl
@[simp] theorem State.modOp_nextBlock (s : State) (id : Nat) (f : Op → Op) : (s.modOp id f).nextBlock = s.nextBlock := rfl
@[simp] theorem State.modOp_lastSched (s : State) (id : Nat) (f : Op → Op) : (s.modOp id f).lastSched = s.lastSched := rfl
@[simp] theorem State.modOp_lastSlots (s : State) (id : Nat) (f : Op → Op) : (s.modOp id f).lastSlots = s.lastSlots := rfl
@[simp] theorem State.modOp_waiting (s : State) (id : Nat) (f : Op → Op) : (s.modOp id f).waiting = s.waiting := rfl
@[simp] theorem State.modOp_waves (s : State) (id : Nat) (f : Op → Op) : (s.modOp id f).waves = s.waves := rfl
@[simp] theorem State.modOp_mem (s : State) (id : Nat) (f : Op → Op) : (s.modOp id f).mem = s.mem := rfl
@[simp] theorem State.modOp_versions (s : State) (id : Nat) (f : Op → Op) : (s.modOp id f).versions = s.versions := rfl
@[simp] theorem State.modOp_poison (s : State) (id : Nat) (f : Op → Op) : (s.modOp id f).poison = s.poison := rfl
@[simp] theorem State.modOp_icv (s : State) (id : Nat) (f : Op → Op) : (s.modOp id f).icv = s.icv := rfl
@[simp] theorem State.modOp_ecc (s : State) (id : Nat) (f : Op → Op) : (s.modOp id f).ecc = s.ecc := rfl
@[simp] theorem State.modOp_tlb (s : State) (id : Nat) (f : Op → Op) : (s.modOp id f).tlb = s.tlb := rfl
@[simp] theorem State.modOp_icache (s : State) (id : Nat) (f : Op → Op) : (s.modOp id f).icache = s.icache := rfl
@[simp] theorem State.modOp_l1 (s : State) (id : Nat) (f : Op → Op) : (s.modOp id f).l1 = s.l1 := rfl
@[simp] theorem State.modOp_rdc (s : State) (id : Nat) (f : Op → Op) : (s.modOp id f).rdc = s.rdc := rfl
@[simp] theorem State.modOp_proxy (s : State) (id : Nat) (f : Op → Op) : (s.modOp id f).proxy = s.proxy := rfl
@[simp] theorem State.modOp_floors (s : State) (id : Nat) (f : Op → Op) : (s.modOp id f).floors = s.floors := rfl
@[simp] theorem State.modOp_holders (s : State) (id : Nat) (f : Op → Op) : (s.modOp id f).holders = s.holders := rfl
@[simp] theorem State.modOp_rf (s : State) (id : Nat) (f : Op → Op) : (s.modOp id f).rf = s.rf := rfl
@[simp] theorem State.modOp_scratch (s : State) (id : Nat) (f : Op → Op) : (s.modOp id f).scratch = s.scratch := rfl
@[simp] theorem State.modOp_tags (s : State) (id : Nat) (f : Op → Op) : (s.modOp id f).tags = s.tags := rfl
@[simp] theorem State.modOp_spadPoison (s : State) (id : Nat) (f : Op → Op) : (s.modOp id f).spadPoison = s.spadPoison := rfl
@[simp] theorem State.modOp_sems (s : State) (id : Nat) (f : Op → Op) : (s.modOp id f).sems = s.sems := rfl
@[simp] theorem State.modOp_tiles (s : State) (id : Nat) (f : Op → Op) : (s.modOp id f).tiles = s.tiles := rfl
@[simp] theorem State.modOp_bslots (s : State) (id : Nat) (f : Op → Op) : (s.modOp id f).bslots = s.bslots := rfl
@[simp] theorem State.modOp_quarters (s : State) (id : Nat) (f : Op → Op) : (s.modOp id f).quarters = s.quarters := rfl
@[simp] theorem State.modOp_passes (s : State) (id : Nat) (f : Op → Op) : (s.modOp id f).passes = s.passes := rfl
@[simp] theorem State.modOp_cards (s : State) (id : Nat) (f : Op → Op) : (s.modOp id f).cards = s.cards := rfl
@[simp] theorem State.modOp_queues (s : State) (id : Nat) (f : Op → Op) : (s.modOp id f).queues = s.queues := rfl
@[simp] theorem State.modOp_launches (s : State) (id : Nat) (f : Op → Op) : (s.modOp id f).launches = s.launches := rfl
@[simp] theorem State.modOp_parts (s : State) (id : Nat) (f : Op → Op) : (s.modOp id f).parts = s.parts := rfl
@[simp] theorem State.modOp_funcs (s : State) (id : Nat) (f : Op → Op) : (s.modOp id f).funcs = s.funcs := rfl
@[simp] theorem State.modOp_domains (s : State) (id : Nat) (f : Op → Op) : (s.modOp id f).domains = s.domains := rfl
@[simp] theorem State.modOp_blocks (s : State) (id : Nat) (f : Op → Op) : (s.modOp id f).blocks = s.blocks := rfl
@[simp] theorem State.modOp_places (s : State) (id : Nat) (f : Op → Op) : (s.modOp id f).places = s.places := rfl
@[simp] theorem State.modOp_cohorts (s : State) (id : Nat) (f : Op → Op) : (s.modOp id f).cohorts = s.cohorts := rfl
@[simp] theorem State.modOp_groups (s : State) (id : Nat) (f : Op → Op) : (s.modOp id f).groups = s.groups := rfl
@[simp] theorem State.modOp_feeds (s : State) (id : Nat) (f : Op → Op) : (s.modOp id f).feeds = s.feeds := rfl
@[simp] theorem State.modOp_ats (s : State) (id : Nat) (f : Op → Op) : (s.modOp id f).ats = s.ats := rfl
@[simp] theorem State.modOp_pageReqs (s : State) (id : Nat) (f : Op → Op) : (s.modOp id f).pageReqs = s.pageReqs := rfl
@[simp] theorem State.modOp_atsFailed (s : State) (id : Nat) (f : Op → Op) : (s.modOp id f).atsFailed = s.atsFailed := rfl
@[simp] theorem State.modOp_link1Map (s : State) (id : Nat) (f : Op → Op) : (s.modOp id f).link1Map = s.link1Map := rfl
@[simp] theorem State.modOp_peerId (s : State) (id : Nat) (f : Op → Op) : (s.modOp id f).peerId = s.peerId := rfl
@[simp] theorem State.modOp_ports (s : State) (id : Nat) (f : Op → Op) : (s.modOp id f).ports = s.ports := rfl
@[simp] theorem State.modOp_links (s : State) (id : Nat) (f : Op → Op) : (s.modOp id f).links = s.links := rfl
@[simp] theorem State.modOp_lifeIdx (s : State) (id : Nat) (f : Op → Op) : (s.modOp id f).lifeIdx = s.lifeIdx := rfl
@[simp] theorem State.modOp_life (s : State) (id : Nat) (f : Op → Op) : (s.modOp id f).life = s.life := rfl
@[simp] theorem State.modOp_lifeSaved (s : State) (id : Nat) (f : Op → Op) : (s.modOp id f).lifeSaved = s.lifeSaved := rfl
@[simp] theorem State.modOp_pcap (s : State) (id : Nat) (f : Op → Op) : (s.modOp id f).pcap = s.pcap := rfl
@[simp] theorem State.modOp_clockMHz (s : State) (id : Nat) (f : Op → Op) : (s.modOp id f).clockMHz = s.clockMHz := rfl
@[simp] theorem State.modOp_power (s : State) (id : Nat) (f : Op → Op) : (s.modOp id f).power = s.power := rfl
@[simp] theorem State.modOp_flash (s : State) (id : Nat) (f : Op → Op) : (s.modOp id f).flash = s.flash := rfl
@[simp] theorem State.modOp_running (s : State) (id : Nat) (f : Op → Op) : (s.modOp id f).running = s.running := rfl
@[simp] theorem State.modOp_msix (s : State) (id : Nat) (f : Op → Op) : (s.modOp id f).msix = s.msix := rfl
@[simp] theorem State.modOp_hostOut (s : State) (id : Nat) (f : Op → Op) : (s.modOp id f).hostOut = s.hostOut := rfl
@[simp] theorem State.modOp_peerOut (s : State) (id : Nat) (f : Op → Op) : (s.modOp id f).peerOut = s.peerOut := rfl
@[simp] theorem State.modOp_spillCalls (s : State) (id : Nat) (f : Op → Op) : (s.modOp id f).spillCalls = s.spillCalls := rfl
@[simp] theorem State.modOp_spillBytes (s : State) (id : Nat) (f : Op → Op) : (s.modOp id f).spillBytes = s.spillBytes := rfl
@[simp] theorem State.modOp_beqFold (s : State) (id : Nat) (f : Op → Op) : (s.modOp id f).beqFold = s.beqFold := rfl
@[simp] theorem State.modOp_estEvict (s : State) (id : Nat) (f : Op → Op) : (s.modOp id f).estEvict = s.estEvict := rfl
@[simp] theorem State.modOp_emulOps (s : State) (id : Nat) (f : Op → Op) : (s.modOp id f).emulOps = s.emulOps := rfl

/-! ### State.modQueue -/

@[simp] theorem State.modQueue_dtime (s : State) (f q : Nat) (g : Queue → Queue) : (s.modQueue f q g).dtime = s.dtime := rfl
@[simp] theorem State.modQueue_cur (s : State) (f q : Nat) (g : Queue → Queue) : (s.modQueue f q g).cur = s.cur := rfl
@[simp] theorem State.modQueue_input (s : State) (f q : Nat) (g : Queue → Queue) : (s.modQueue f q g).input = s.input := rfl
@[simp] theorem State.modQueue_agenda (s : State) (f q : Nat) (g : Queue → Queue) : (s.modQueue f q g).agenda = s.agenda := rfl
@[simp] theorem State.modQueue_draws (s : State) (f q : Nat) (g : Queue → Queue) : (s.modQueue f q g).draws = s.draws := rfl
@[simp] theorem State.modQueue_nextUid (s : State) (f q : Nat) (g : Queue → Queue) : (s.modQueue f q g).nextUid = s.nextUid := rfl
@[simp] theorem State.modQueue_nextOp (s : State) (f q : Nat) (g : Queue → Queue) : (s.modQueue f q g).nextOp = s.nextOp := rfl
@[simp] theorem State.modQueue_nextLaunch (s : State) (f q : Nat) (g : Queue → Queue) : (s.modQueue f q g).nextLaunch = s.nextLaunch := rfl
@[simp] theorem State.modQueue_nextBlock (s : State) (f q : Nat) (g : Queue → Queue) : (s.modQueue f q g).nextBlock = s.nextBlock := rfl
@[simp] theorem State.modQueue_lastSched (s : State) (f q : Nat) (g : Queue → Queue) : (s.modQueue f q g).lastSched = s.lastSched := rfl
@[simp] theorem State.modQueue_lastSlots (s : State) (f q : Nat) (g : Queue → Queue) : (s.modQueue f q g).lastSlots = s.lastSlots := rfl
@[simp] theorem State.modQueue_waiting (s : State) (f q : Nat) (g : Queue → Queue) : (s.modQueue f q g).waiting = s.waiting := rfl
@[simp] theorem State.modQueue_waves (s : State) (f q : Nat) (g : Queue → Queue) : (s.modQueue f q g).waves = s.waves := rfl
@[simp] theorem State.modQueue_ops (s : State) (f q : Nat) (g : Queue → Queue) : (s.modQueue f q g).ops = s.ops := rfl
@[simp] theorem State.modQueue_mem (s : State) (f q : Nat) (g : Queue → Queue) : (s.modQueue f q g).mem = s.mem := rfl
@[simp] theorem State.modQueue_versions (s : State) (f q : Nat) (g : Queue → Queue) : (s.modQueue f q g).versions = s.versions := rfl
@[simp] theorem State.modQueue_poison (s : State) (f q : Nat) (g : Queue → Queue) : (s.modQueue f q g).poison = s.poison := rfl
@[simp] theorem State.modQueue_icv (s : State) (f q : Nat) (g : Queue → Queue) : (s.modQueue f q g).icv = s.icv := rfl
@[simp] theorem State.modQueue_ecc (s : State) (f q : Nat) (g : Queue → Queue) : (s.modQueue f q g).ecc = s.ecc := rfl
@[simp] theorem State.modQueue_tlb (s : State) (f q : Nat) (g : Queue → Queue) : (s.modQueue f q g).tlb = s.tlb := rfl
@[simp] theorem State.modQueue_icache (s : State) (f q : Nat) (g : Queue → Queue) : (s.modQueue f q g).icache = s.icache := rfl
@[simp] theorem State.modQueue_l1 (s : State) (f q : Nat) (g : Queue → Queue) : (s.modQueue f q g).l1 = s.l1 := rfl
@[simp] theorem State.modQueue_rdc (s : State) (f q : Nat) (g : Queue → Queue) : (s.modQueue f q g).rdc = s.rdc := rfl
@[simp] theorem State.modQueue_proxy (s : State) (f q : Nat) (g : Queue → Queue) : (s.modQueue f q g).proxy = s.proxy := rfl
@[simp] theorem State.modQueue_floors (s : State) (f q : Nat) (g : Queue → Queue) : (s.modQueue f q g).floors = s.floors := rfl
@[simp] theorem State.modQueue_holders (s : State) (f q : Nat) (g : Queue → Queue) : (s.modQueue f q g).holders = s.holders := rfl
@[simp] theorem State.modQueue_rf (s : State) (f q : Nat) (g : Queue → Queue) : (s.modQueue f q g).rf = s.rf := rfl
@[simp] theorem State.modQueue_scratch (s : State) (f q : Nat) (g : Queue → Queue) : (s.modQueue f q g).scratch = s.scratch := rfl
@[simp] theorem State.modQueue_tags (s : State) (f q : Nat) (g : Queue → Queue) : (s.modQueue f q g).tags = s.tags := rfl
@[simp] theorem State.modQueue_spadPoison (s : State) (f q : Nat) (g : Queue → Queue) : (s.modQueue f q g).spadPoison = s.spadPoison := rfl
@[simp] theorem State.modQueue_sems (s : State) (f q : Nat) (g : Queue → Queue) : (s.modQueue f q g).sems = s.sems := rfl
@[simp] theorem State.modQueue_tiles (s : State) (f q : Nat) (g : Queue → Queue) : (s.modQueue f q g).tiles = s.tiles := rfl
@[simp] theorem State.modQueue_bslots (s : State) (f q : Nat) (g : Queue → Queue) : (s.modQueue f q g).bslots = s.bslots := rfl
@[simp] theorem State.modQueue_quarters (s : State) (f q : Nat) (g : Queue → Queue) : (s.modQueue f q g).quarters = s.quarters := rfl
@[simp] theorem State.modQueue_passes (s : State) (f q : Nat) (g : Queue → Queue) : (s.modQueue f q g).passes = s.passes := rfl
@[simp] theorem State.modQueue_cards (s : State) (f q : Nat) (g : Queue → Queue) : (s.modQueue f q g).cards = s.cards := rfl
@[simp] theorem State.modQueue_launches (s : State) (f q : Nat) (g : Queue → Queue) : (s.modQueue f q g).launches = s.launches := rfl
@[simp] theorem State.modQueue_parts (s : State) (f q : Nat) (g : Queue → Queue) : (s.modQueue f q g).parts = s.parts := rfl
@[simp] theorem State.modQueue_funcs (s : State) (f q : Nat) (g : Queue → Queue) : (s.modQueue f q g).funcs = s.funcs := rfl
@[simp] theorem State.modQueue_domains (s : State) (f q : Nat) (g : Queue → Queue) : (s.modQueue f q g).domains = s.domains := rfl
@[simp] theorem State.modQueue_blocks (s : State) (f q : Nat) (g : Queue → Queue) : (s.modQueue f q g).blocks = s.blocks := rfl
@[simp] theorem State.modQueue_places (s : State) (f q : Nat) (g : Queue → Queue) : (s.modQueue f q g).places = s.places := rfl
@[simp] theorem State.modQueue_cohorts (s : State) (f q : Nat) (g : Queue → Queue) : (s.modQueue f q g).cohorts = s.cohorts := rfl
@[simp] theorem State.modQueue_groups (s : State) (f q : Nat) (g : Queue → Queue) : (s.modQueue f q g).groups = s.groups := rfl
@[simp] theorem State.modQueue_feeds (s : State) (f q : Nat) (g : Queue → Queue) : (s.modQueue f q g).feeds = s.feeds := rfl
@[simp] theorem State.modQueue_ats (s : State) (f q : Nat) (g : Queue → Queue) : (s.modQueue f q g).ats = s.ats := rfl
@[simp] theorem State.modQueue_pageReqs (s : State) (f q : Nat) (g : Queue → Queue) : (s.modQueue f q g).pageReqs = s.pageReqs := rfl
@[simp] theorem State.modQueue_atsFailed (s : State) (f q : Nat) (g : Queue → Queue) : (s.modQueue f q g).atsFailed = s.atsFailed := rfl
@[simp] theorem State.modQueue_link1Map (s : State) (f q : Nat) (g : Queue → Queue) : (s.modQueue f q g).link1Map = s.link1Map := rfl
@[simp] theorem State.modQueue_peerId (s : State) (f q : Nat) (g : Queue → Queue) : (s.modQueue f q g).peerId = s.peerId := rfl
@[simp] theorem State.modQueue_ports (s : State) (f q : Nat) (g : Queue → Queue) : (s.modQueue f q g).ports = s.ports := rfl
@[simp] theorem State.modQueue_links (s : State) (f q : Nat) (g : Queue → Queue) : (s.modQueue f q g).links = s.links := rfl
@[simp] theorem State.modQueue_lifeIdx (s : State) (f q : Nat) (g : Queue → Queue) : (s.modQueue f q g).lifeIdx = s.lifeIdx := rfl
@[simp] theorem State.modQueue_life (s : State) (f q : Nat) (g : Queue → Queue) : (s.modQueue f q g).life = s.life := rfl
@[simp] theorem State.modQueue_lifeSaved (s : State) (f q : Nat) (g : Queue → Queue) : (s.modQueue f q g).lifeSaved = s.lifeSaved := rfl
@[simp] theorem State.modQueue_pcap (s : State) (f q : Nat) (g : Queue → Queue) : (s.modQueue f q g).pcap = s.pcap := rfl
@[simp] theorem State.modQueue_clockMHz (s : State) (f q : Nat) (g : Queue → Queue) : (s.modQueue f q g).clockMHz = s.clockMHz := rfl
@[simp] theorem State.modQueue_power (s : State) (f q : Nat) (g : Queue → Queue) : (s.modQueue f q g).power = s.power := rfl
@[simp] theorem State.modQueue_flash (s : State) (f q : Nat) (g : Queue → Queue) : (s.modQueue f q g).flash = s.flash := rfl
@[simp] theorem State.modQueue_running (s : State) (f q : Nat) (g : Queue → Queue) : (s.modQueue f q g).running = s.running := rfl
@[simp] theorem State.modQueue_msix (s : State) (f q : Nat) (g : Queue → Queue) : (s.modQueue f q g).msix = s.msix := rfl
@[simp] theorem State.modQueue_hostOut (s : State) (f q : Nat) (g : Queue → Queue) : (s.modQueue f q g).hostOut = s.hostOut := rfl
@[simp] theorem State.modQueue_peerOut (s : State) (f q : Nat) (g : Queue → Queue) : (s.modQueue f q g).peerOut = s.peerOut := rfl
@[simp] theorem State.modQueue_spillCalls (s : State) (f q : Nat) (g : Queue → Queue) : (s.modQueue f q g).spillCalls = s.spillCalls := rfl
@[simp] theorem State.modQueue_spillBytes (s : State) (f q : Nat) (g : Queue → Queue) : (s.modQueue f q g).spillBytes = s.spillBytes := rfl
@[simp] theorem State.modQueue_beqFold (s : State) (f q : Nat) (g : Queue → Queue) : (s.modQueue f q g).beqFold = s.beqFold := rfl
@[simp] theorem State.modQueue_estEvict (s : State) (f q : Nat) (g : Queue → Queue) : (s.modQueue f q g).estEvict = s.estEvict := rfl
@[simp] theorem State.modQueue_emulOps (s : State) (f q : Nat) (g : Queue → Queue) : (s.modQueue f q g).emulOps = s.emulOps := rfl

/-! ### State.modLaunch -/

@[simp] theorem State.modLaunch_dtime (s : State) (id : Nat) (g : Launch → Launch) : (s.modLaunch id g).dtime = s.dtime := rfl
@[simp] theorem State.modLaunch_cur (s : State) (id : Nat) (g : Launch → Launch) : (s.modLaunch id g).cur = s.cur := rfl
@[simp] theorem State.modLaunch_input (s : State) (id : Nat) (g : Launch → Launch) : (s.modLaunch id g).input = s.input := rfl
@[simp] theorem State.modLaunch_agenda (s : State) (id : Nat) (g : Launch → Launch) : (s.modLaunch id g).agenda = s.agenda := rfl
@[simp] theorem State.modLaunch_draws (s : State) (id : Nat) (g : Launch → Launch) : (s.modLaunch id g).draws = s.draws := rfl
@[simp] theorem State.modLaunch_nextUid (s : State) (id : Nat) (g : Launch → Launch) : (s.modLaunch id g).nextUid = s.nextUid := rfl
@[simp] theorem State.modLaunch_nextOp (s : State) (id : Nat) (g : Launch → Launch) : (s.modLaunch id g).nextOp = s.nextOp := rfl
@[simp] theorem State.modLaunch_nextLaunch (s : State) (id : Nat) (g : Launch → Launch) : (s.modLaunch id g).nextLaunch = s.nextLaunch := rfl
@[simp] theorem State.modLaunch_nextBlock (s : State) (id : Nat) (g : Launch → Launch) : (s.modLaunch id g).nextBlock = s.nextBlock := rfl
@[simp] theorem State.modLaunch_lastSched (s : State) (id : Nat) (g : Launch → Launch) : (s.modLaunch id g).lastSched = s.lastSched := rfl
@[simp] theorem State.modLaunch_lastSlots (s : State) (id : Nat) (g : Launch → Launch) : (s.modLaunch id g).lastSlots = s.lastSlots := rfl
@[simp] theorem State.modLaunch_waiting (s : State) (id : Nat) (g : Launch → Launch) : (s.modLaunch id g).waiting = s.waiting := rfl
@[simp] theorem State.modLaunch_waves (s : State) (id : Nat) (g : Launch → Launch) : (s.modLaunch id g).waves = s.waves := rfl
@[simp] theorem State.modLaunch_ops (s : State) (id : Nat) (g : Launch → Launch) : (s.modLaunch id g).ops = s.ops := rfl
@[simp] theorem State.modLaunch_mem (s : State) (id : Nat) (g : Launch → Launch) : (s.modLaunch id g).mem = s.mem := rfl
@[simp] theorem State.modLaunch_versions (s : State) (id : Nat) (g : Launch → Launch) : (s.modLaunch id g).versions = s.versions := rfl
@[simp] theorem State.modLaunch_poison (s : State) (id : Nat) (g : Launch → Launch) : (s.modLaunch id g).poison = s.poison := rfl
@[simp] theorem State.modLaunch_icv (s : State) (id : Nat) (g : Launch → Launch) : (s.modLaunch id g).icv = s.icv := rfl
@[simp] theorem State.modLaunch_ecc (s : State) (id : Nat) (g : Launch → Launch) : (s.modLaunch id g).ecc = s.ecc := rfl
@[simp] theorem State.modLaunch_tlb (s : State) (id : Nat) (g : Launch → Launch) : (s.modLaunch id g).tlb = s.tlb := rfl
@[simp] theorem State.modLaunch_icache (s : State) (id : Nat) (g : Launch → Launch) : (s.modLaunch id g).icache = s.icache := rfl
@[simp] theorem State.modLaunch_l1 (s : State) (id : Nat) (g : Launch → Launch) : (s.modLaunch id g).l1 = s.l1 := rfl
@[simp] theorem State.modLaunch_rdc (s : State) (id : Nat) (g : Launch → Launch) : (s.modLaunch id g).rdc = s.rdc := rfl
@[simp] theorem State.modLaunch_proxy (s : State) (id : Nat) (g : Launch → Launch) : (s.modLaunch id g).proxy = s.proxy := rfl
@[simp] theorem State.modLaunch_floors (s : State) (id : Nat) (g : Launch → Launch) : (s.modLaunch id g).floors = s.floors := rfl
@[simp] theorem State.modLaunch_holders (s : State) (id : Nat) (g : Launch → Launch) : (s.modLaunch id g).holders = s.holders := rfl
@[simp] theorem State.modLaunch_rf (s : State) (id : Nat) (g : Launch → Launch) : (s.modLaunch id g).rf = s.rf := rfl
@[simp] theorem State.modLaunch_scratch (s : State) (id : Nat) (g : Launch → Launch) : (s.modLaunch id g).scratch = s.scratch := rfl
@[simp] theorem State.modLaunch_tags (s : State) (id : Nat) (g : Launch → Launch) : (s.modLaunch id g).tags = s.tags := rfl
@[simp] theorem State.modLaunch_spadPoison (s : State) (id : Nat) (g : Launch → Launch) : (s.modLaunch id g).spadPoison = s.spadPoison := rfl
@[simp] theorem State.modLaunch_sems (s : State) (id : Nat) (g : Launch → Launch) : (s.modLaunch id g).sems = s.sems := rfl
@[simp] theorem State.modLaunch_tiles (s : State) (id : Nat) (g : Launch → Launch) : (s.modLaunch id g).tiles = s.tiles := rfl
@[simp] theorem State.modLaunch_bslots (s : State) (id : Nat) (g : Launch → Launch) : (s.modLaunch id g).bslots = s.bslots := rfl
@[simp] theorem State.modLaunch_quarters (s : State) (id : Nat) (g : Launch → Launch) : (s.modLaunch id g).quarters = s.quarters := rfl
@[simp] theorem State.modLaunch_passes (s : State) (id : Nat) (g : Launch → Launch) : (s.modLaunch id g).passes = s.passes := rfl
@[simp] theorem State.modLaunch_cards (s : State) (id : Nat) (g : Launch → Launch) : (s.modLaunch id g).cards = s.cards := rfl
@[simp] theorem State.modLaunch_queues (s : State) (id : Nat) (g : Launch → Launch) : (s.modLaunch id g).queues = s.queues := rfl
@[simp] theorem State.modLaunch_parts (s : State) (id : Nat) (g : Launch → Launch) : (s.modLaunch id g).parts = s.parts := rfl
@[simp] theorem State.modLaunch_funcs (s : State) (id : Nat) (g : Launch → Launch) : (s.modLaunch id g).funcs = s.funcs := rfl
@[simp] theorem State.modLaunch_domains (s : State) (id : Nat) (g : Launch → Launch) : (s.modLaunch id g).domains = s.domains := rfl
@[simp] theorem State.modLaunch_blocks (s : State) (id : Nat) (g : Launch → Launch) : (s.modLaunch id g).blocks = s.blocks := rfl
@[simp] theorem State.modLaunch_places (s : State) (id : Nat) (g : Launch → Launch) : (s.modLaunch id g).places = s.places := rfl
@[simp] theorem State.modLaunch_cohorts (s : State) (id : Nat) (g : Launch → Launch) : (s.modLaunch id g).cohorts = s.cohorts := rfl
@[simp] theorem State.modLaunch_groups (s : State) (id : Nat) (g : Launch → Launch) : (s.modLaunch id g).groups = s.groups := rfl
@[simp] theorem State.modLaunch_feeds (s : State) (id : Nat) (g : Launch → Launch) : (s.modLaunch id g).feeds = s.feeds := rfl
@[simp] theorem State.modLaunch_ats (s : State) (id : Nat) (g : Launch → Launch) : (s.modLaunch id g).ats = s.ats := rfl
@[simp] theorem State.modLaunch_pageReqs (s : State) (id : Nat) (g : Launch → Launch) : (s.modLaunch id g).pageReqs = s.pageReqs := rfl
@[simp] theorem State.modLaunch_atsFailed (s : State) (id : Nat) (g : Launch → Launch) : (s.modLaunch id g).atsFailed = s.atsFailed := rfl
@[simp] theorem State.modLaunch_link1Map (s : State) (id : Nat) (g : Launch → Launch) : (s.modLaunch id g).link1Map = s.link1Map := rfl
@[simp] theorem State.modLaunch_peerId (s : State) (id : Nat) (g : Launch → Launch) : (s.modLaunch id g).peerId = s.peerId := rfl
@[simp] theorem State.modLaunch_ports (s : State) (id : Nat) (g : Launch → Launch) : (s.modLaunch id g).ports = s.ports := rfl
@[simp] theorem State.modLaunch_links (s : State) (id : Nat) (g : Launch → Launch) : (s.modLaunch id g).links = s.links := rfl
@[simp] theorem State.modLaunch_lifeIdx (s : State) (id : Nat) (g : Launch → Launch) : (s.modLaunch id g).lifeIdx = s.lifeIdx := rfl
@[simp] theorem State.modLaunch_life (s : State) (id : Nat) (g : Launch → Launch) : (s.modLaunch id g).life = s.life := rfl
@[simp] theorem State.modLaunch_lifeSaved (s : State) (id : Nat) (g : Launch → Launch) : (s.modLaunch id g).lifeSaved = s.lifeSaved := rfl
@[simp] theorem State.modLaunch_pcap (s : State) (id : Nat) (g : Launch → Launch) : (s.modLaunch id g).pcap = s.pcap := rfl
@[simp] theorem State.modLaunch_clockMHz (s : State) (id : Nat) (g : Launch → Launch) : (s.modLaunch id g).clockMHz = s.clockMHz := rfl
@[simp] theorem State.modLaunch_power (s : State) (id : Nat) (g : Launch → Launch) : (s.modLaunch id g).power = s.power := rfl
@[simp] theorem State.modLaunch_flash (s : State) (id : Nat) (g : Launch → Launch) : (s.modLaunch id g).flash = s.flash := rfl
@[simp] theorem State.modLaunch_running (s : State) (id : Nat) (g : Launch → Launch) : (s.modLaunch id g).running = s.running := rfl
@[simp] theorem State.modLaunch_msix (s : State) (id : Nat) (g : Launch → Launch) : (s.modLaunch id g).msix = s.msix := rfl
@[simp] theorem State.modLaunch_hostOut (s : State) (id : Nat) (g : Launch → Launch) : (s.modLaunch id g).hostOut = s.hostOut := rfl
@[simp] theorem State.modLaunch_peerOut (s : State) (id : Nat) (g : Launch → Launch) : (s.modLaunch id g).peerOut = s.peerOut := rfl
@[simp] theorem State.modLaunch_spillCalls (s : State) (id : Nat) (g : Launch → Launch) : (s.modLaunch id g).spillCalls = s.spillCalls := rfl
@[simp] theorem State.modLaunch_spillBytes (s : State) (id : Nat) (g : Launch → Launch) : (s.modLaunch id g).spillBytes = s.spillBytes := rfl
@[simp] theorem State.modLaunch_beqFold (s : State) (id : Nat) (g : Launch → Launch) : (s.modLaunch id g).beqFold = s.beqFold := rfl
@[simp] theorem State.modLaunch_estEvict (s : State) (id : Nat) (g : Launch → Launch) : (s.modLaunch id g).estEvict = s.estEvict := rfl
@[simp] theorem State.modLaunch_emulOps (s : State) (id : Nat) (g : Launch → Launch) : (s.modLaunch id g).emulOps = s.emulOps := rfl

/-! ### State.requestPages -/

@[simp] theorem State.requestPages_dtime (s : State) (sp : Space) (ps : List Nat) : (s.requestPages sp ps).dtime = s.dtime := rfl
@[simp] theorem State.requestPages_cur (s : State) (sp : Space) (ps : List Nat) : (s.requestPages sp ps).cur = s.cur := rfl
@[simp] theorem State.requestPages_input (s : State) (sp : Space) (ps : List Nat) : (s.requestPages sp ps).input = s.input := rfl
@[simp] theorem State.requestPages_agenda (s : State) (sp : Space) (ps : List Nat) : (s.requestPages sp ps).agenda = s.agenda := rfl
@[simp] theorem State.requestPages_draws (s : State) (sp : Space) (ps : List Nat) : (s.requestPages sp ps).draws = s.draws := rfl
@[simp] theorem State.requestPages_nextUid (s : State) (sp : Space) (ps : List Nat) : (s.requestPages sp ps).nextUid = s.nextUid := rfl
@[simp] theorem State.requestPages_nextOp (s : State) (sp : Space) (ps : List Nat) : (s.requestPages sp ps).nextOp = s.nextOp := rfl
@[simp] theorem State.requestPages_nextLaunch (s : State) (sp : Space) (ps : List Nat) : (s.requestPages sp ps).nextLaunch = s.nextLaunch := rfl
@[simp] theorem State.requestPages_nextBlock (s : State) (sp : Space) (ps : List Nat) : (s.requestPages sp ps).nextBlock = s.nextBlock := rfl
@[simp] theorem State.requestPages_lastSched (s : State) (sp : Space) (ps : List Nat) : (s.requestPages sp ps).lastSched = s.lastSched := rfl
@[simp] theorem State.requestPages_lastSlots (s : State) (sp : Space) (ps : List Nat) : (s.requestPages sp ps).lastSlots = s.lastSlots := rfl
@[simp] theorem State.requestPages_waiting (s : State) (sp : Space) (ps : List Nat) : (s.requestPages sp ps).waiting = s.waiting := rfl
@[simp] theorem State.requestPages_waves (s : State) (sp : Space) (ps : List Nat) : (s.requestPages sp ps).waves = s.waves := rfl
@[simp] theorem State.requestPages_ops (s : State) (sp : Space) (ps : List Nat) : (s.requestPages sp ps).ops = s.ops := rfl
@[simp] theorem State.requestPages_mem (s : State) (sp : Space) (ps : List Nat) : (s.requestPages sp ps).mem = s.mem := rfl
@[simp] theorem State.requestPages_versions (s : State) (sp : Space) (ps : List Nat) : (s.requestPages sp ps).versions = s.versions := rfl
@[simp] theorem State.requestPages_poison (s : State) (sp : Space) (ps : List Nat) : (s.requestPages sp ps).poison = s.poison := rfl
@[simp] theorem State.requestPages_icv (s : State) (sp : Space) (ps : List Nat) : (s.requestPages sp ps).icv = s.icv := rfl
@[simp] theorem State.requestPages_ecc (s : State) (sp : Space) (ps : List Nat) : (s.requestPages sp ps).ecc = s.ecc := rfl
@[simp] theorem State.requestPages_tlb (s : State) (sp : Space) (ps : List Nat) : (s.requestPages sp ps).tlb = s.tlb := rfl
@[simp] theorem State.requestPages_icache (s : State) (sp : Space) (ps : List Nat) : (s.requestPages sp ps).icache = s.icache := rfl
@[simp] theorem State.requestPages_l1 (s : State) (sp : Space) (ps : List Nat) : (s.requestPages sp ps).l1 = s.l1 := rfl
@[simp] theorem State.requestPages_rdc (s : State) (sp : Space) (ps : List Nat) : (s.requestPages sp ps).rdc = s.rdc := rfl
@[simp] theorem State.requestPages_proxy (s : State) (sp : Space) (ps : List Nat) : (s.requestPages sp ps).proxy = s.proxy := rfl
@[simp] theorem State.requestPages_floors (s : State) (sp : Space) (ps : List Nat) : (s.requestPages sp ps).floors = s.floors := rfl
@[simp] theorem State.requestPages_holders (s : State) (sp : Space) (ps : List Nat) : (s.requestPages sp ps).holders = s.holders := rfl
@[simp] theorem State.requestPages_rf (s : State) (sp : Space) (ps : List Nat) : (s.requestPages sp ps).rf = s.rf := rfl
@[simp] theorem State.requestPages_scratch (s : State) (sp : Space) (ps : List Nat) : (s.requestPages sp ps).scratch = s.scratch := rfl
@[simp] theorem State.requestPages_tags (s : State) (sp : Space) (ps : List Nat) : (s.requestPages sp ps).tags = s.tags := rfl
@[simp] theorem State.requestPages_spadPoison (s : State) (sp : Space) (ps : List Nat) : (s.requestPages sp ps).spadPoison = s.spadPoison := rfl
@[simp] theorem State.requestPages_sems (s : State) (sp : Space) (ps : List Nat) : (s.requestPages sp ps).sems = s.sems := rfl
@[simp] theorem State.requestPages_tiles (s : State) (sp : Space) (ps : List Nat) : (s.requestPages sp ps).tiles = s.tiles := rfl
@[simp] theorem State.requestPages_bslots (s : State) (sp : Space) (ps : List Nat) : (s.requestPages sp ps).bslots = s.bslots := rfl
@[simp] theorem State.requestPages_quarters (s : State) (sp : Space) (ps : List Nat) : (s.requestPages sp ps).quarters = s.quarters := rfl
@[simp] theorem State.requestPages_passes (s : State) (sp : Space) (ps : List Nat) : (s.requestPages sp ps).passes = s.passes := rfl
@[simp] theorem State.requestPages_cards (s : State) (sp : Space) (ps : List Nat) : (s.requestPages sp ps).cards = s.cards := rfl
@[simp] theorem State.requestPages_queues (s : State) (sp : Space) (ps : List Nat) : (s.requestPages sp ps).queues = s.queues := rfl
@[simp] theorem State.requestPages_launches (s : State) (sp : Space) (ps : List Nat) : (s.requestPages sp ps).launches = s.launches := rfl
@[simp] theorem State.requestPages_parts (s : State) (sp : Space) (ps : List Nat) : (s.requestPages sp ps).parts = s.parts := rfl
@[simp] theorem State.requestPages_funcs (s : State) (sp : Space) (ps : List Nat) : (s.requestPages sp ps).funcs = s.funcs := rfl
@[simp] theorem State.requestPages_domains (s : State) (sp : Space) (ps : List Nat) : (s.requestPages sp ps).domains = s.domains := rfl
@[simp] theorem State.requestPages_blocks (s : State) (sp : Space) (ps : List Nat) : (s.requestPages sp ps).blocks = s.blocks := rfl
@[simp] theorem State.requestPages_places (s : State) (sp : Space) (ps : List Nat) : (s.requestPages sp ps).places = s.places := rfl
@[simp] theorem State.requestPages_cohorts (s : State) (sp : Space) (ps : List Nat) : (s.requestPages sp ps).cohorts = s.cohorts := rfl
@[simp] theorem State.requestPages_groups (s : State) (sp : Space) (ps : List Nat) : (s.requestPages sp ps).groups = s.groups := rfl
@[simp] theorem State.requestPages_feeds (s : State) (sp : Space) (ps : List Nat) : (s.requestPages sp ps).feeds = s.feeds := rfl
@[simp] theorem State.requestPages_ats (s : State) (sp : Space) (ps : List Nat) : (s.requestPages sp ps).ats = s.ats := rfl
@[simp] theorem State.requestPages_atsFailed (s : State) (sp : Space) (ps : List Nat) : (s.requestPages sp ps).atsFailed = s.atsFailed := rfl
@[simp] theorem State.requestPages_link1Map (s : State) (sp : Space) (ps : List Nat) : (s.requestPages sp ps).link1Map = s.link1Map := rfl
@[simp] theorem State.requestPages_peerId (s : State) (sp : Space) (ps : List Nat) : (s.requestPages sp ps).peerId = s.peerId := rfl
@[simp] theorem State.requestPages_ports (s : State) (sp : Space) (ps : List Nat) : (s.requestPages sp ps).ports = s.ports := rfl
@[simp] theorem State.requestPages_links (s : State) (sp : Space) (ps : List Nat) : (s.requestPages sp ps).links = s.links := rfl
@[simp] theorem State.requestPages_lifeIdx (s : State) (sp : Space) (ps : List Nat) : (s.requestPages sp ps).lifeIdx = s.lifeIdx := rfl
@[simp] theorem State.requestPages_life (s : State) (sp : Space) (ps : List Nat) : (s.requestPages sp ps).life = s.life := rfl
@[simp] theorem State.requestPages_lifeSaved (s : State) (sp : Space) (ps : List Nat) : (s.requestPages sp ps).lifeSaved = s.lifeSaved := rfl
@[simp] theorem State.requestPages_pcap (s : State) (sp : Space) (ps : List Nat) : (s.requestPages sp ps).pcap = s.pcap := rfl
@[simp] theorem State.requestPages_clockMHz (s : State) (sp : Space) (ps : List Nat) : (s.requestPages sp ps).clockMHz = s.clockMHz := rfl
@[simp] theorem State.requestPages_power (s : State) (sp : Space) (ps : List Nat) : (s.requestPages sp ps).power = s.power := rfl
@[simp] theorem State.requestPages_flash (s : State) (sp : Space) (ps : List Nat) : (s.requestPages sp ps).flash = s.flash := rfl
@[simp] theorem State.requestPages_running (s : State) (sp : Space) (ps : List Nat) : (s.requestPages sp ps).running = s.running := rfl
@[simp] theorem State.requestPages_msix (s : State) (sp : Space) (ps : List Nat) : (s.requestPages sp ps).msix = s.msix := rfl
@[simp] theorem State.requestPages_hostOut (s : State) (sp : Space) (ps : List Nat) : (s.requestPages sp ps).hostOut = s.hostOut := rfl
@[simp] theorem State.requestPages_peerOut (s : State) (sp : Space) (ps : List Nat) : (s.requestPages sp ps).peerOut = s.peerOut := rfl
@[simp] theorem State.requestPages_spillCalls (s : State) (sp : Space) (ps : List Nat) : (s.requestPages sp ps).spillCalls = s.spillCalls := rfl
@[simp] theorem State.requestPages_spillBytes (s : State) (sp : Space) (ps : List Nat) : (s.requestPages sp ps).spillBytes = s.spillBytes := rfl
@[simp] theorem State.requestPages_beqFold (s : State) (sp : Space) (ps : List Nat) : (s.requestPages sp ps).beqFold = s.beqFold := rfl
@[simp] theorem State.requestPages_estEvict (s : State) (sp : Space) (ps : List Nat) : (s.requestPages sp ps).estEvict = s.estEvict := rfl
@[simp] theorem State.requestPages_emulOps (s : State) (sp : Space) (ps : List Nat) : (s.requestPages sp ps).emulOps = s.emulOps := rfl

/-! ### State.advanceWave -/

@[simp] theorem State.advanceWave_dtime (s : State) (u n : Nat) (c : Bool) (p : Pipe) : (s.advanceWave u n c p).dtime = s.dtime := rfl
@[simp] theorem State.advanceWave_cur (s : State) (u n : Nat) (c : Bool) (p : Pipe) : (s.advanceWave u n c p).cur = s.cur := rfl
@[simp] theorem State.advanceWave_input (s : State) (u n : Nat) (c : Bool) (p : Pipe) : (s.advanceWave u n c p).input = s.input := rfl
@[simp] theorem State.advanceWave_agenda (s : State) (u n : Nat) (c : Bool) (p : Pipe) : (s.advanceWave u n c p).agenda = s.agenda := rfl
@[simp] theorem State.advanceWave_draws (s : State) (u n : Nat) (c : Bool) (p : Pipe) : (s.advanceWave u n c p).draws = s.draws := rfl
@[simp] theorem State.advanceWave_nextUid (s : State) (u n : Nat) (c : Bool) (p : Pipe) : (s.advanceWave u n c p).nextUid = s.nextUid := rfl
@[simp] theorem State.advanceWave_nextOp (s : State) (u n : Nat) (c : Bool) (p : Pipe) : (s.advanceWave u n c p).nextOp = s.nextOp := rfl
@[simp] theorem State.advanceWave_nextLaunch (s : State) (u n : Nat) (c : Bool) (p : Pipe) : (s.advanceWave u n c p).nextLaunch = s.nextLaunch := rfl
@[simp] theorem State.advanceWave_nextBlock (s : State) (u n : Nat) (c : Bool) (p : Pipe) : (s.advanceWave u n c p).nextBlock = s.nextBlock := rfl
@[simp] theorem State.advanceWave_lastSched (s : State) (u n : Nat) (c : Bool) (p : Pipe) : (s.advanceWave u n c p).lastSched = s.lastSched := rfl
@[simp] theorem State.advanceWave_lastSlots (s : State) (u n : Nat) (c : Bool) (p : Pipe) : (s.advanceWave u n c p).lastSlots = s.lastSlots := rfl
@[simp] theorem State.advanceWave_waiting (s : State) (u n : Nat) (c : Bool) (p : Pipe) : (s.advanceWave u n c p).waiting = s.waiting := rfl
@[simp] theorem State.advanceWave_ops (s : State) (u n : Nat) (c : Bool) (p : Pipe) : (s.advanceWave u n c p).ops = s.ops := rfl
@[simp] theorem State.advanceWave_mem (s : State) (u n : Nat) (c : Bool) (p : Pipe) : (s.advanceWave u n c p).mem = s.mem := rfl
@[simp] theorem State.advanceWave_versions (s : State) (u n : Nat) (c : Bool) (p : Pipe) : (s.advanceWave u n c p).versions = s.versions := rfl
@[simp] theorem State.advanceWave_poison (s : State) (u n : Nat) (c : Bool) (p : Pipe) : (s.advanceWave u n c p).poison = s.poison := rfl
@[simp] theorem State.advanceWave_icv (s : State) (u n : Nat) (c : Bool) (p : Pipe) : (s.advanceWave u n c p).icv = s.icv := rfl
@[simp] theorem State.advanceWave_ecc (s : State) (u n : Nat) (c : Bool) (p : Pipe) : (s.advanceWave u n c p).ecc = s.ecc := rfl
@[simp] theorem State.advanceWave_tlb (s : State) (u n : Nat) (c : Bool) (p : Pipe) : (s.advanceWave u n c p).tlb = s.tlb := rfl
@[simp] theorem State.advanceWave_icache (s : State) (u n : Nat) (c : Bool) (p : Pipe) : (s.advanceWave u n c p).icache = s.icache := rfl
@[simp] theorem State.advanceWave_l1 (s : State) (u n : Nat) (c : Bool) (p : Pipe) : (s.advanceWave u n c p).l1 = s.l1 := rfl
@[simp] theorem State.advanceWave_rdc (s : State) (u n : Nat) (c : Bool) (p : Pipe) : (s.advanceWave u n c p).rdc = s.rdc := rfl
@[simp] theorem State.advanceWave_proxy (s : State) (u n : Nat) (c : Bool) (p : Pipe) : (s.advanceWave u n c p).proxy = s.proxy := rfl
@[simp] theorem State.advanceWave_floors (s : State) (u n : Nat) (c : Bool) (p : Pipe) : (s.advanceWave u n c p).floors = s.floors := rfl
@[simp] theorem State.advanceWave_holders (s : State) (u n : Nat) (c : Bool) (p : Pipe) : (s.advanceWave u n c p).holders = s.holders := rfl
@[simp] theorem State.advanceWave_rf (s : State) (u n : Nat) (c : Bool) (p : Pipe) : (s.advanceWave u n c p).rf = s.rf := rfl
@[simp] theorem State.advanceWave_scratch (s : State) (u n : Nat) (c : Bool) (p : Pipe) : (s.advanceWave u n c p).scratch = s.scratch := rfl
@[simp] theorem State.advanceWave_tags (s : State) (u n : Nat) (c : Bool) (p : Pipe) : (s.advanceWave u n c p).tags = s.tags := rfl
@[simp] theorem State.advanceWave_spadPoison (s : State) (u n : Nat) (c : Bool) (p : Pipe) : (s.advanceWave u n c p).spadPoison = s.spadPoison := rfl
@[simp] theorem State.advanceWave_sems (s : State) (u n : Nat) (c : Bool) (p : Pipe) : (s.advanceWave u n c p).sems = s.sems := rfl
@[simp] theorem State.advanceWave_tiles (s : State) (u n : Nat) (c : Bool) (p : Pipe) : (s.advanceWave u n c p).tiles = s.tiles := rfl
@[simp] theorem State.advanceWave_bslots (s : State) (u n : Nat) (c : Bool) (p : Pipe) : (s.advanceWave u n c p).bslots = s.bslots := rfl
@[simp] theorem State.advanceWave_quarters (s : State) (u n : Nat) (c : Bool) (p : Pipe) : (s.advanceWave u n c p).quarters = s.quarters := rfl
@[simp] theorem State.advanceWave_passes (s : State) (u n : Nat) (c : Bool) (p : Pipe) : (s.advanceWave u n c p).passes = s.passes := rfl
@[simp] theorem State.advanceWave_cards (s : State) (u n : Nat) (c : Bool) (p : Pipe) : (s.advanceWave u n c p).cards = s.cards := rfl
@[simp] theorem State.advanceWave_queues (s : State) (u n : Nat) (c : Bool) (p : Pipe) : (s.advanceWave u n c p).queues = s.queues := rfl
@[simp] theorem State.advanceWave_launches (s : State) (u n : Nat) (c : Bool) (p : Pipe) : (s.advanceWave u n c p).launches = s.launches := rfl
@[simp] theorem State.advanceWave_parts (s : State) (u n : Nat) (c : Bool) (p : Pipe) : (s.advanceWave u n c p).parts = s.parts := rfl
@[simp] theorem State.advanceWave_funcs (s : State) (u n : Nat) (c : Bool) (p : Pipe) : (s.advanceWave u n c p).funcs = s.funcs := rfl
@[simp] theorem State.advanceWave_domains (s : State) (u n : Nat) (c : Bool) (p : Pipe) : (s.advanceWave u n c p).domains = s.domains := rfl
@[simp] theorem State.advanceWave_blocks (s : State) (u n : Nat) (c : Bool) (p : Pipe) : (s.advanceWave u n c p).blocks = s.blocks := rfl
@[simp] theorem State.advanceWave_places (s : State) (u n : Nat) (c : Bool) (p : Pipe) : (s.advanceWave u n c p).places = s.places := rfl
@[simp] theorem State.advanceWave_cohorts (s : State) (u n : Nat) (c : Bool) (p : Pipe) : (s.advanceWave u n c p).cohorts = s.cohorts := rfl
@[simp] theorem State.advanceWave_groups (s : State) (u n : Nat) (c : Bool) (p : Pipe) : (s.advanceWave u n c p).groups = s.groups := rfl
@[simp] theorem State.advanceWave_feeds (s : State) (u n : Nat) (c : Bool) (p : Pipe) : (s.advanceWave u n c p).feeds = s.feeds := rfl
@[simp] theorem State.advanceWave_ats (s : State) (u n : Nat) (c : Bool) (p : Pipe) : (s.advanceWave u n c p).ats = s.ats := rfl
@[simp] theorem State.advanceWave_pageReqs (s : State) (u n : Nat) (c : Bool) (p : Pipe) : (s.advanceWave u n c p).pageReqs = s.pageReqs := rfl
@[simp] theorem State.advanceWave_atsFailed (s : State) (u n : Nat) (c : Bool) (p : Pipe) : (s.advanceWave u n c p).atsFailed = s.atsFailed := rfl
@[simp] theorem State.advanceWave_link1Map (s : State) (u n : Nat) (c : Bool) (p : Pipe) : (s.advanceWave u n c p).link1Map = s.link1Map := rfl
@[simp] theorem State.advanceWave_peerId (s : State) (u n : Nat) (c : Bool) (p : Pipe) : (s.advanceWave u n c p).peerId = s.peerId := rfl
@[simp] theorem State.advanceWave_ports (s : State) (u n : Nat) (c : Bool) (p : Pipe) : (s.advanceWave u n c p).ports = s.ports := rfl
@[simp] theorem State.advanceWave_links (s : State) (u n : Nat) (c : Bool) (p : Pipe) : (s.advanceWave u n c p).links = s.links := rfl
@[simp] theorem State.advanceWave_lifeIdx (s : State) (u n : Nat) (c : Bool) (p : Pipe) : (s.advanceWave u n c p).lifeIdx = s.lifeIdx := rfl
@[simp] theorem State.advanceWave_life (s : State) (u n : Nat) (c : Bool) (p : Pipe) : (s.advanceWave u n c p).life = s.life := rfl
@[simp] theorem State.advanceWave_lifeSaved (s : State) (u n : Nat) (c : Bool) (p : Pipe) : (s.advanceWave u n c p).lifeSaved = s.lifeSaved := rfl
@[simp] theorem State.advanceWave_pcap (s : State) (u n : Nat) (c : Bool) (p : Pipe) : (s.advanceWave u n c p).pcap = s.pcap := rfl
@[simp] theorem State.advanceWave_clockMHz (s : State) (u n : Nat) (c : Bool) (p : Pipe) : (s.advanceWave u n c p).clockMHz = s.clockMHz := rfl
@[simp] theorem State.advanceWave_power (s : State) (u n : Nat) (c : Bool) (p : Pipe) : (s.advanceWave u n c p).power = s.power := rfl
@[simp] theorem State.advanceWave_flash (s : State) (u n : Nat) (c : Bool) (p : Pipe) : (s.advanceWave u n c p).flash = s.flash := rfl
@[simp] theorem State.advanceWave_running (s : State) (u n : Nat) (c : Bool) (p : Pipe) : (s.advanceWave u n c p).running = s.running := rfl
@[simp] theorem State.advanceWave_msix (s : State) (u n : Nat) (c : Bool) (p : Pipe) : (s.advanceWave u n c p).msix = s.msix := rfl
@[simp] theorem State.advanceWave_hostOut (s : State) (u n : Nat) (c : Bool) (p : Pipe) : (s.advanceWave u n c p).hostOut = s.hostOut := rfl
@[simp] theorem State.advanceWave_peerOut (s : State) (u n : Nat) (c : Bool) (p : Pipe) : (s.advanceWave u n c p).peerOut = s.peerOut := rfl
@[simp] theorem State.advanceWave_spillCalls (s : State) (u n : Nat) (c : Bool) (p : Pipe) : (s.advanceWave u n c p).spillCalls = s.spillCalls := rfl
@[simp] theorem State.advanceWave_spillBytes (s : State) (u n : Nat) (c : Bool) (p : Pipe) : (s.advanceWave u n c p).spillBytes = s.spillBytes := rfl
@[simp] theorem State.advanceWave_beqFold (s : State) (u n : Nat) (c : Bool) (p : Pipe) : (s.advanceWave u n c p).beqFold = s.beqFold := rfl
@[simp] theorem State.advanceWave_estEvict (s : State) (u n : Nat) (c : Bool) (p : Pipe) : (s.advanceWave u n c p).estEvict = s.estEvict := rfl
@[simp] theorem State.advanceWave_emulOps (s : State) (u n : Nat) (c : Bool) (p : Pipe) : (s.advanceWave u n c p).emulOps = s.emulOps := rfl

/-! ### State.spillRead -/

/-- Checking lines changes only what is known of their errors, their poison and the counters of field life. -/
theorem State.checkLines_frame (ls : List Nat) (s : State) :
    let t := ls.foldl State.checkLine s
    t = { s with ecc := t.ecc, poison := t.poison, life := t.life } := by
  induction ls generalizing s with
  | nil => rfl
  | cons a r ih =>
    have h : s.checkLine a = { s with ecc := (s.checkLine a).ecc, poison := (s.checkLine a).poison, life := (s.checkLine a).life } := by
      simp only [State.checkLine, State.eccCheck, State.setPoison, State.lifeAdd]
      repeat' split
      all_goals rfl
    simp only [List.foldl_cons]
    have k := ih (s.checkLine a)
    rw [h] at k ⊢
    exact k

/-- Reading registers of the backing store changes only that, and counts in SPILLBYTES (R100). -/
theorem State.spillRead_frame (s : State) (w : Wave) (rs : List Nat) :
    s.spillRead w rs = { s with ecc := (s.spillRead w rs).ecc, poison := (s.spillRead w rs).poison, life := (s.spillRead w rs).life,
                                spillBytes := (s.spillRead w rs).spillBytes } := by
  unfold State.spillRead
  have h := State.checkLines_frame (s.spillLines w rs) s
  simp only at h ⊢
  rw [h]

@[simp] theorem State.spillRead_dtime (s : State) (w : Wave) (rs : List Nat) : (s.spillRead w rs).dtime = s.dtime := by rw [s.spillRead_frame w rs]
@[simp] theorem State.spillRead_cur (s : State) (w : Wave) (rs : List Nat) : (s.spillRead w rs).cur = s.cur := by rw [s.spillRead_frame w rs]
@[simp] theorem State.spillRead_input (s : State) (w : Wave) (rs : List Nat) : (s.spillRead w rs).input = s.input := by rw [s.spillRead_frame w rs]
@[simp] theorem State.spillRead_agenda (s : State) (w : Wave) (rs : List Nat) : (s.spillRead w rs).agenda = s.agenda := by rw [s.spillRead_frame w rs]
@[simp] theorem State.spillRead_draws (s : State) (w : Wave) (rs : List Nat) : (s.spillRead w rs).draws = s.draws := by rw [s.spillRead_frame w rs]
@[simp] theorem State.spillRead_nextUid (s : State) (w : Wave) (rs : List Nat) : (s.spillRead w rs).nextUid = s.nextUid := by rw [s.spillRead_frame w rs]
@[simp] theorem State.spillRead_nextOp (s : State) (w : Wave) (rs : List Nat) : (s.spillRead w rs).nextOp = s.nextOp := by rw [s.spillRead_frame w rs]
@[simp] theorem State.spillRead_nextLaunch (s : State) (w : Wave) (rs : List Nat) : (s.spillRead w rs).nextLaunch = s.nextLaunch := by rw [s.spillRead_frame w rs]
@[simp] theorem State.spillRead_nextBlock (s : State) (w : Wave) (rs : List Nat) : (s.spillRead w rs).nextBlock = s.nextBlock := by rw [s.spillRead_frame w rs]
@[simp] theorem State.spillRead_lastSched (s : State) (w : Wave) (rs : List Nat) : (s.spillRead w rs).lastSched = s.lastSched := by rw [s.spillRead_frame w rs]
@[simp] theorem State.spillRead_lastSlots (s : State) (w : Wave) (rs : List Nat) : (s.spillRead w rs).lastSlots = s.lastSlots := by rw [s.spillRead_frame w rs]
@[simp] theorem State.spillRead_waiting (s : State) (w : Wave) (rs : List Nat) : (s.spillRead w rs).waiting = s.waiting := by rw [s.spillRead_frame w rs]
@[simp] theorem State.spillRead_waves (s : State) (w : Wave) (rs : List Nat) : (s.spillRead w rs).waves = s.waves := by rw [s.spillRead_frame w rs]
@[simp] theorem State.spillRead_ops (s : State) (w : Wave) (rs : List Nat) : (s.spillRead w rs).ops = s.ops := by rw [s.spillRead_frame w rs]
@[simp] theorem State.spillRead_mem (s : State) (w : Wave) (rs : List Nat) : (s.spillRead w rs).mem = s.mem := by rw [s.spillRead_frame w rs]
@[simp] theorem State.spillRead_versions (s : State) (w : Wave) (rs : List Nat) : (s.spillRead w rs).versions = s.versions := by rw [s.spillRead_frame w rs]
@[simp] theorem State.spillRead_icv (s : State) (w : Wave) (rs : List Nat) : (s.spillRead w rs).icv = s.icv := by rw [s.spillRead_frame w rs]
@[simp] theorem State.spillRead_tlb (s : State) (w : Wave) (rs : List Nat) : (s.spillRead w rs).tlb = s.tlb := by rw [s.spillRead_frame w rs]
@[simp] theorem State.spillRead_icache (s : State) (w : Wave) (rs : List Nat) : (s.spillRead w rs).icache = s.icache := by rw [s.spillRead_frame w rs]
@[simp] theorem State.spillRead_l1 (s : State) (w : Wave) (rs : List Nat) : (s.spillRead w rs).l1 = s.l1 := by rw [s.spillRead_frame w rs]
@[simp] theorem State.spillRead_rdc (s : State) (w : Wave) (rs : List Nat) : (s.spillRead w rs).rdc = s.rdc := by rw [s.spillRead_frame w rs]
@[simp] theorem State.spillRead_proxy (s : State) (w : Wave) (rs : List Nat) : (s.spillRead w rs).proxy = s.proxy := by rw [s.spillRead_frame w rs]
@[simp] theorem State.spillRead_floors (s : State) (w : Wave) (rs : List Nat) : (s.spillRead w rs).floors = s.floors := by rw [s.spillRead_frame w rs]
@[simp] theorem State.spillRead_holders (s : State) (w : Wave) (rs : List Nat) : (s.spillRead w rs).holders = s.holders := by rw [s.spillRead_frame w rs]
@[simp] theorem State.spillRead_rf (s : State) (w : Wave) (rs : List Nat) : (s.spillRead w rs).rf = s.rf := by rw [s.spillRead_frame w rs]
@[simp] theorem State.spillRead_scratch (s : State) (w : Wave) (rs : List Nat) : (s.spillRead w rs).scratch = s.scratch := by rw [s.spillRead_frame w rs]
@[simp] theorem State.spillRead_tags (s : State) (w : Wave) (rs : List Nat) : (s.spillRead w rs).tags = s.tags := by rw [s.spillRead_frame w rs]
@[simp] theorem State.spillRead_spadPoison (s : State) (w : Wave) (rs : List Nat) : (s.spillRead w rs).spadPoison = s.spadPoison := by rw [s.spillRead_frame w rs]
@[simp] theorem State.spillRead_sems (s : State) (w : Wave) (rs : List Nat) : (s.spillRead w rs).sems = s.sems := by rw [s.spillRead_frame w rs]
@[simp] theorem State.spillRead_tiles (s : State) (w : Wave) (rs : List Nat) : (s.spillRead w rs).tiles = s.tiles := by rw [s.spillRead_frame w rs]
@[simp] theorem State.spillRead_bslots (s : State) (w : Wave) (rs : List Nat) : (s.spillRead w rs).bslots = s.bslots := by rw [s.spillRead_frame w rs]
@[simp] theorem State.spillRead_quarters (s : State) (w : Wave) (rs : List Nat) : (s.spillRead w rs).quarters = s.quarters := by rw [s.spillRead_frame w rs]
@[simp] theorem State.spillRead_passes (s : State) (w : Wave) (rs : List Nat) : (s.spillRead w rs).passes = s.passes := by rw [s.spillRead_frame w rs]
@[simp] theorem State.spillRead_cards (s : State) (w : Wave) (rs : List Nat) : (s.spillRead w rs).cards = s.cards := by rw [s.spillRead_frame w rs]
@[simp] theorem State.spillRead_queues (s : State) (w : Wave) (rs : List Nat) : (s.spillRead w rs).queues = s.queues := by rw [s.spillRead_frame w rs]
@[simp] theorem State.spillRead_launches (s : State) (w : Wave) (rs : List Nat) : (s.spillRead w rs).launches = s.launches := by rw [s.spillRead_frame w rs]
@[simp] theorem State.spillRead_parts (s : State) (w : Wave) (rs : List Nat) : (s.spillRead w rs).parts = s.parts := by rw [s.spillRead_frame w rs]
@[simp] theorem State.spillRead_funcs (s : State) (w : Wave) (rs : List Nat) : (s.spillRead w rs).funcs = s.funcs := by rw [s.spillRead_frame w rs]
@[simp] theorem State.spillRead_domains (s : State) (w : Wave) (rs : List Nat) : (s.spillRead w rs).domains = s.domains := by rw [s.spillRead_frame w rs]
@[simp] theorem State.spillRead_blocks (s : State) (w : Wave) (rs : List Nat) : (s.spillRead w rs).blocks = s.blocks := by rw [s.spillRead_frame w rs]
@[simp] theorem State.spillRead_places (s : State) (w : Wave) (rs : List Nat) : (s.spillRead w rs).places = s.places := by rw [s.spillRead_frame w rs]
@[simp] theorem State.spillRead_cohorts (s : State) (w : Wave) (rs : List Nat) : (s.spillRead w rs).cohorts = s.cohorts := by rw [s.spillRead_frame w rs]
@[simp] theorem State.spillRead_groups (s : State) (w : Wave) (rs : List Nat) : (s.spillRead w rs).groups = s.groups := by rw [s.spillRead_frame w rs]
@[simp] theorem State.spillRead_feeds (s : State) (w : Wave) (rs : List Nat) : (s.spillRead w rs).feeds = s.feeds := by rw [s.spillRead_frame w rs]
@[simp] theorem State.spillRead_ats (s : State) (w : Wave) (rs : List Nat) : (s.spillRead w rs).ats = s.ats := by rw [s.spillRead_frame w rs]
@[simp] theorem State.spillRead_pageReqs (s : State) (w : Wave) (rs : List Nat) : (s.spillRead w rs).pageReqs = s.pageReqs := by rw [s.spillRead_frame w rs]
@[simp] theorem State.spillRead_atsFailed (s : State) (w : Wave) (rs : List Nat) : (s.spillRead w rs).atsFailed = s.atsFailed := by rw [s.spillRead_frame w rs]
@[simp] theorem State.spillRead_link1Map (s : State) (w : Wave) (rs : List Nat) : (s.spillRead w rs).link1Map = s.link1Map := by rw [s.spillRead_frame w rs]
@[simp] theorem State.spillRead_peerId (s : State) (w : Wave) (rs : List Nat) : (s.spillRead w rs).peerId = s.peerId := by rw [s.spillRead_frame w rs]
@[simp] theorem State.spillRead_ports (s : State) (w : Wave) (rs : List Nat) : (s.spillRead w rs).ports = s.ports := by rw [s.spillRead_frame w rs]
@[simp] theorem State.spillRead_links (s : State) (w : Wave) (rs : List Nat) : (s.spillRead w rs).links = s.links := by rw [s.spillRead_frame w rs]
@[simp] theorem State.spillRead_lifeIdx (s : State) (w : Wave) (rs : List Nat) : (s.spillRead w rs).lifeIdx = s.lifeIdx := by rw [s.spillRead_frame w rs]
@[simp] theorem State.spillRead_lifeSaved (s : State) (w : Wave) (rs : List Nat) : (s.spillRead w rs).lifeSaved = s.lifeSaved := by rw [s.spillRead_frame w rs]
@[simp] theorem State.spillRead_pcap (s : State) (w : Wave) (rs : List Nat) : (s.spillRead w rs).pcap = s.pcap := by rw [s.spillRead_frame w rs]
@[simp] theorem State.spillRead_clockMHz (s : State) (w : Wave) (rs : List Nat) : (s.spillRead w rs).clockMHz = s.clockMHz := by rw [s.spillRead_frame w rs]
@[simp] theorem State.spillRead_power (s : State) (w : Wave) (rs : List Nat) : (s.spillRead w rs).power = s.power := by rw [s.spillRead_frame w rs]
@[simp] theorem State.spillRead_flash (s : State) (w : Wave) (rs : List Nat) : (s.spillRead w rs).flash = s.flash := by rw [s.spillRead_frame w rs]
@[simp] theorem State.spillRead_running (s : State) (w : Wave) (rs : List Nat) : (s.spillRead w rs).running = s.running := by rw [s.spillRead_frame w rs]
@[simp] theorem State.spillRead_msix (s : State) (w : Wave) (rs : List Nat) : (s.spillRead w rs).msix = s.msix := by rw [s.spillRead_frame w rs]
@[simp] theorem State.spillRead_hostOut (s : State) (w : Wave) (rs : List Nat) : (s.spillRead w rs).hostOut = s.hostOut := by rw [s.spillRead_frame w rs]
@[simp] theorem State.spillRead_peerOut (s : State) (w : Wave) (rs : List Nat) : (s.spillRead w rs).peerOut = s.peerOut := by rw [s.spillRead_frame w rs]
@[simp] theorem State.spillRead_spillCalls (s : State) (w : Wave) (rs : List Nat) : (s.spillRead w rs).spillCalls = s.spillCalls := by rw [s.spillRead_frame w rs]
@[simp] theorem State.spillRead_beqFold (s : State) (w : Wave) (rs : List Nat) : (s.spillRead w rs).beqFold = s.beqFold := by rw [s.spillRead_frame w rs]
@[simp] theorem State.spillRead_estEvict (s : State) (w : Wave) (rs : List Nat) : (s.spillRead w rs).estEvict = s.estEvict := by rw [s.spillRead_frame w rs]
@[simp] theorem State.spillRead_emulOps (s : State) (w : Wave) (rs : List Nat) : (s.spillRead w rs).emulOps = s.emulOps := by rw [s.spillRead_frame w rs]

/-! ### Wave.setS -/

@[simp] theorem Wave.setS_uid (w : Wave) (r : Nat) (v : Word) : (w.setS r v).uid = w.uid := rfl
@[simp] theorem Wave.setS_core (w : Wave) (r : Nat) (v : Word) : (w.setS r v).core = w.core := rfl
@[simp] theorem Wave.setS_slot (w : Wave) (r : Nat) (v : Word) : (w.setS r v).slot = w.slot := rfl
@[simp] theorem Wave.setS_part (w : Wave) (r : Nat) (v : Word) : (w.setS r v).part = w.part := rfl
@[simp] theorem Wave.setS_cx (w : Wave) (r : Nat) (v : Word) : (w.setS r v).cx = w.cx := rfl
@[simp] theorem Wave.setS_fn (w : Wave) (r : Nat) (v : Word) : (w.setS r v).fn = w.fn := rfl
@[simp] theorem Wave.setS_queue (w : Wave) (r : Nat) (v : Word) : (w.setS r v).queue = w.queue := rfl
@[simp] theorem Wave.setS_launch (w : Wave) (r : Nat) (v : Word) : (w.setS r v).launch = w.launch := rfl
@[simp] theorem Wave.setS_index (w : Wave) (r : Nat) (v : Word) : (w.setS r v).index = w.index := rfl
@[simp] theorem Wave.setS_child (w : Wave) (r : Nat) (v : Word) : (w.setS r v).child = w.child := rfl
@[simp] theorem Wave.setS_desc (w : Wave) (r : Nat) (v : Word) : (w.setS r v).desc = w.desc := rfl
@[simp] theorem Wave.setS_foot (w : Wave) (r : Nat) (v : Word) : (w.setS r v).foot = w.foot := rfl
@[simp] theorem Wave.setS_space (w : Wave) (r : Nat) (v : Word) : (w.setS r v).space = w.space := rfl
@[simp] theorem Wave.setS_prio (w : Wave) (r : Nat) (v : Word) : (w.setS r v).prio = w.prio := rfl
@[simp] theorem Wave.setS_placed (w : Wave) (r : Nat) (v : Word) : (w.setS r v).placed = w.placed := rfl
@[simp] theorem Wave.setS_life (w : Wave) (r : Nat) (v : Word) : (w.setS r v).life = w.life := rfl
@[simp] theorem Wave.setS_pc (w : Wave) (r : Nat) (v : Word) : (w.setS r v).pc = w.pc := rfl
@[simp] theorem Wave.setS_grp (w : Wave) (r : Nat) (v : Word) : (w.setS r v).grp = w.grp := rfl
@[simp] theorem Wave.setS_xfer (w : Wave) (r : Nat) (v : Word) : (w.setS r v).xfer = w.xfer := rfl
@[simp] theorem Wave.setS_exec (w : Wave) (r : Nat) (v : Word) : (w.setS r v).exec = w.exec := rfl
@[simp] theorem Wave.setS_k (w : Wave) (r : Nat) (v : Word) : (w.setS r v).k = w.k := rfl
@[simp] theorem Wave.setS_fmt (w : Wave) (r : Nat) (v : Word) : (w.setS r v).fmt = w.fmt := rfl
@[simp] theorem Wave.setS_scc (w : Wave) (r : Nat) (v : Word) : (w.setS r v).scc = w.scc := rfl
@[simp] theorem Wave.setS_maskStack (w : Wave) (r : Nat) (v : Word) : (w.setS r v).maskStack = w.maskStack := rfl
@[simp] theorem Wave.setS_callStack (w : Wave) (r : Nat) (v : Word) : (w.setS r v).callStack = w.callStack := rfl
@[simp] theorem Wave.setS_tbudget (w : Wave) (r : Nat) (v : Word) : (w.setS r v).tbudget = w.tbudget := rfl
@[simp] theorem Wave.setS_inld (w : Wave) (r : Nat) (v : Word) : (w.setS r v).inld = w.inld := rfl
@[simp] theorem Wave.setS_sdepth (w : Wave) (r : Nat) (v : Word) : (w.setS r v).sdepth = w.sdepth := rfl
@[simp] theorem Wave.setS_args (w : Wave) (r : Nat) (v : Word) : (w.setS r v).args = w.args := rfl
@[simp] theorem Wave.setS_icount (w : Wave) (r : Nat) (v : Word) : (w.setS r v).icount = w.icount := rfl
@[simp] theorem Wave.setS_ibase (w : Wave) (r : Nat) (v : Word) : (w.setS r v).ibase = w.ibase := rfl
@[simp] theorem Wave.setS_ctaglo (w : Wave) (r : Nat) (v : Word) : (w.setS r v).ctaglo = w.ctaglo := rfl
@[simp] theorem Wave.setS_ctaghi (w : Wave) (r : Nat) (v : Word) : (w.setS r v).ctaghi = w.ctaghi := rfl
@[simp] theorem Wave.setS_parent (w : Wave) (r : Nat) (v : Word) : (w.setS r v).parent = w.parent := rfl
@[simp] theorem Wave.setS_ebase (w : Wave) (r : Nat) (v : Word) : (w.setS r v).ebase = w.ebase := rfl
@[simp] theorem Wave.setS_wbase (w : Wave) (r : Nat) (v : Word) : (w.setS r v).wbase = w.wbase := rfl
@[simp] theorem Wave.setS_spadBase (w : Wave) (r : Nat) (v : Word) : (w.setS r v).spadBase = w.spadBase := rfl
@[simp] theorem Wave.setS_accBase (w : Wave) (r : Nat) (v : Word) : (w.setS r v).accBase = w.accBase := rfl
@[simp] theorem Wave.setS_semBase (w : Wave) (r : Nat) (v : Word) : (w.setS r v).semBase = w.semBase := rfl
@[simp] theorem Wave.setS_backed (w : Wave) (r : Nat) (v : Word) : (w.setS r v).backed = w.backed := rfl
@[simp] theorem Wave.setS_sealFlag (w : Wave) (r : Nat) (v : Word) : (w.setS r v).sealFlag = w.sealFlag := rfl
@[simp] theorem Wave.setS_sealSince (w : Wave) (r : Nat) (v : Word) : (w.setS r v).sealSince = w.sealSince := rfl
@[simp] theorem Wave.setS_inTrap (w : Wave) (r : Nat) (v : Word) : (w.setS r v).inTrap = w.inTrap := rfl
@[simp] theorem Wave.setS_hidden (w : Wave) (r : Nat) (v : Word) : (w.setS r v).hidden = w.hidden := rfl
@[simp] theorem Wave.setS_hiddenSeal (w : Wave) (r : Nat) (v : Word) : (w.setS r v).hiddenSeal = w.hiddenSeal := rfl
@[simp] theorem Wave.setS_overdueAt (w : Wave) (r : Nat) (v : Word) : (w.setS r v).overdueAt = w.overdueAt := rfl
@[simp] theorem Wave.setS_last (w : Wave) (r : Nat) (v : Word) : (w.setS r v).last = w.last := rfl
@[simp] theorem Wave.setS_openOps (w : Wave) (r : Nat) (v : Word) : (w.setS r v).openOps = w.openOps := rfl
@[simp] theorem Wave.setS_batches (w : Wave) (r : Nat) (v : Word) : (w.setS r v).batches = w.batches := rfl
@[simp] theorem Wave.setS_params (w : Wave) (r : Nat) (v : Word) : (w.setS r v).params = w.params := rfl
@[simp] theorem Wave.setS_didWill (w : Wave) (r : Nat) (v : Word) : (w.setS r v).didWill = w.didWill := rfl
@[simp] theorem Wave.setS_claims (w : Wave) (r : Nat) (v : Word) : (w.setS r v).claims = w.claims := rfl
@[simp] theorem Wave.setS_keys (w : Wave) (r : Nat) (v : Word) : (w.setS r v).keys = w.keys := rfl
@[simp] theorem Wave.setS_takes (w : Wave) (r : Nat) (v : Word) : (w.setS r v).takes = w.takes := rfl
@[simp] theorem Wave.setS_fill (w : Wave) (r : Nat) (v : Word) : (w.setS r v).fill = w.fill := rfl
@[simp] theorem Wave.setS_chosen (w : Wave) (r : Nat) (v : Word) : (w.setS r v).chosen = w.chosen := rfl
@[simp] theorem Wave.setS_ckpt (w : Wave) (r : Nat) (v : Word) : (w.setS r v).ckpt = w.ckpt := rfl
@[simp] theorem Wave.setS_halted (w : Wave) (r : Nat) (v : Word) : (w.setS r v).halted = w.halted := rfl
@[simp] theorem Wave.setS_parkWords (w : Wave) (r : Nat) (v : Word) : (w.setS r v).parkWords = w.parkWords := rfl
@[simp] theorem Wave.setS_parkC (w : Wave) (r : Nat) (v : Word) : (w.setS r v).parkC = w.parkC := rfl
@[simp] theorem Wave.setS_parkPipe (w : Wave) (r : Nat) (v : Word) : (w.setS r v).parkPipe = w.parkPipe := rfl
@[simp] theorem Wave.setS_ticket (w : Wave) (r : Nat) (v : Word) : (w.setS r v).ticket = w.ticket := rfl
@[simp] theorem Wave.setS_fence (w : Wave) (r : Nat) (v : Word) : (w.setS r v).fence = w.fence := rfl
@[simp] theorem Wave.setS_stall (w : Wave) (r : Nat) (v : Word) : (w.setS r v).stall = w.stall := rfl
@[simp] theorem Wave.setS_refused (w : Wave) (r : Nat) (v : Word) : (w.setS r v).refused = w.refused := rfl
@[simp] theorem Wave.setS_blocked (w : Wave) (r : Nat) (v : Word) : (w.setS r v).blocked = w.blocked := rfl

/-! ### Wave.setPair -/

@[simp] theorem Wave.setPair_uid (w : Wave) (r : Nat) (v : DWord) : (w.setPair r v).uid = w.uid := rfl
@[simp] theorem Wave.setPair_core (w : Wave) (r : Nat) (v : DWord) : (w.setPair r v).core = w.core := rfl
@[simp] theorem Wave.setPair_slot (w : Wave) (r : Nat) (v : DWord) : (w.setPair r v).slot = w.slot := rfl
@[simp] theorem Wave.setPair_part (w : Wave) (r : Nat) (v : DWord) : (w.setPair r v).part = w.part := rfl
@[simp] theorem Wave.setPair_cx (w : Wave) (r : Nat) (v : DWord) : (w.setPair r v).cx = w.cx := rfl
@[simp] theorem Wave.setPair_fn (w : Wave) (r : Nat) (v : DWord) : (w.setPair r v).fn = w.fn := rfl
@[simp] theorem Wave.setPair_queue (w : Wave) (r : Nat) (v : DWord) : (w.setPair r v).queue = w.queue := rfl
@[simp] theorem Wave.setPair_launch (w : Wave) (r : Nat) (v : DWord) : (w.setPair r v).launch = w.launch := rfl
@[simp] theorem Wave.setPair_index (w : Wave) (r : Nat) (v : DWord) : (w.setPair r v).index = w.index := rfl
@[simp] theorem Wave.setPair_child (w : Wave) (r : Nat) (v : DWord) : (w.setPair r v).child = w.child := rfl
@[simp] theorem Wave.setPair_desc (w : Wave) (r : Nat) (v : DWord) : (w.setPair r v).desc = w.desc := rfl
@[simp] theorem Wave.setPair_foot (w : Wave) (r : Nat) (v : DWord) : (w.setPair r v).foot = w.foot := rfl
@[simp] theorem Wave.setPair_space (w : Wave) (r : Nat) (v : DWord) : (w.setPair r v).space = w.space := rfl
@[simp] theorem Wave.setPair_prio (w : Wave) (r : Nat) (v : DWord) : (w.setPair r v).prio = w.prio := rfl
@[simp] theorem Wave.setPair_placed (w : Wave) (r : Nat) (v : DWord) : (w.setPair r v).placed = w.placed := rfl
@[simp] theorem Wave.setPair_life (w : Wave) (r : Nat) (v : DWord) : (w.setPair r v).life = w.life := rfl
@[simp] theorem Wave.setPair_pc (w : Wave) (r : Nat) (v : DWord) : (w.setPair r v).pc = w.pc := rfl
@[simp] theorem Wave.setPair_grp (w : Wave) (r : Nat) (v : DWord) : (w.setPair r v).grp = w.grp := rfl
@[simp] theorem Wave.setPair_xfer (w : Wave) (r : Nat) (v : DWord) : (w.setPair r v).xfer = w.xfer := rfl
@[simp] theorem Wave.setPair_exec (w : Wave) (r : Nat) (v : DWord) : (w.setPair r v).exec = w.exec := rfl
@[simp] theorem Wave.setPair_k (w : Wave) (r : Nat) (v : DWord) : (w.setPair r v).k = w.k := rfl
@[simp] theorem Wave.setPair_fmt (w : Wave) (r : Nat) (v : DWord) : (w.setPair r v).fmt = w.fmt := rfl
@[simp] theorem Wave.setPair_scc (w : Wave) (r : Nat) (v : DWord) : (w.setPair r v).scc = w.scc := rfl
@[simp] theorem Wave.setPair_maskStack (w : Wave) (r : Nat) (v : DWord) : (w.setPair r v).maskStack = w.maskStack := rfl
@[simp] theorem Wave.setPair_callStack (w : Wave) (r : Nat) (v : DWord) : (w.setPair r v).callStack = w.callStack := rfl
@[simp] theorem Wave.setPair_tbudget (w : Wave) (r : Nat) (v : DWord) : (w.setPair r v).tbudget = w.tbudget := rfl
@[simp] theorem Wave.setPair_inld (w : Wave) (r : Nat) (v : DWord) : (w.setPair r v).inld = w.inld := rfl
@[simp] theorem Wave.setPair_sdepth (w : Wave) (r : Nat) (v : DWord) : (w.setPair r v).sdepth = w.sdepth := rfl
@[simp] theorem Wave.setPair_args (w : Wave) (r : Nat) (v : DWord) : (w.setPair r v).args = w.args := rfl
@[simp] theorem Wave.setPair_icount (w : Wave) (r : Nat) (v : DWord) : (w.setPair r v).icount = w.icount := rfl
@[simp] theorem Wave.setPair_ibase (w : Wave) (r : Nat) (v : DWord) : (w.setPair r v).ibase = w.ibase := rfl
@[simp] theorem Wave.setPair_ctaglo (w : Wave) (r : Nat) (v : DWord) : (w.setPair r v).ctaglo = w.ctaglo := rfl
@[simp] theorem Wave.setPair_ctaghi (w : Wave) (r : Nat) (v : DWord) : (w.setPair r v).ctaghi = w.ctaghi := rfl
@[simp] theorem Wave.setPair_parent (w : Wave) (r : Nat) (v : DWord) : (w.setPair r v).parent = w.parent := rfl
@[simp] theorem Wave.setPair_ebase (w : Wave) (r : Nat) (v : DWord) : (w.setPair r v).ebase = w.ebase := rfl
@[simp] theorem Wave.setPair_wbase (w : Wave) (r : Nat) (v : DWord) : (w.setPair r v).wbase = w.wbase := rfl
@[simp] theorem Wave.setPair_spadBase (w : Wave) (r : Nat) (v : DWord) : (w.setPair r v).spadBase = w.spadBase := rfl
@[simp] theorem Wave.setPair_accBase (w : Wave) (r : Nat) (v : DWord) : (w.setPair r v).accBase = w.accBase := rfl
@[simp] theorem Wave.setPair_semBase (w : Wave) (r : Nat) (v : DWord) : (w.setPair r v).semBase = w.semBase := rfl
@[simp] theorem Wave.setPair_backed (w : Wave) (r : Nat) (v : DWord) : (w.setPair r v).backed = w.backed := rfl
@[simp] theorem Wave.setPair_sealFlag (w : Wave) (r : Nat) (v : DWord) : (w.setPair r v).sealFlag = w.sealFlag := rfl
@[simp] theorem Wave.setPair_sealSince (w : Wave) (r : Nat) (v : DWord) : (w.setPair r v).sealSince = w.sealSince := rfl
@[simp] theorem Wave.setPair_inTrap (w : Wave) (r : Nat) (v : DWord) : (w.setPair r v).inTrap = w.inTrap := rfl
@[simp] theorem Wave.setPair_hidden (w : Wave) (r : Nat) (v : DWord) : (w.setPair r v).hidden = w.hidden := rfl
@[simp] theorem Wave.setPair_hiddenSeal (w : Wave) (r : Nat) (v : DWord) : (w.setPair r v).hiddenSeal = w.hiddenSeal := rfl
@[simp] theorem Wave.setPair_overdueAt (w : Wave) (r : Nat) (v : DWord) : (w.setPair r v).overdueAt = w.overdueAt := rfl
@[simp] theorem Wave.setPair_last (w : Wave) (r : Nat) (v : DWord) : (w.setPair r v).last = w.last := rfl
@[simp] theorem Wave.setPair_openOps (w : Wave) (r : Nat) (v : DWord) : (w.setPair r v).openOps = w.openOps := rfl
@[simp] theorem Wave.setPair_batches (w : Wave) (r : Nat) (v : DWord) : (w.setPair r v).batches = w.batches := rfl
@[simp] theorem Wave.setPair_params (w : Wave) (r : Nat) (v : DWord) : (w.setPair r v).params = w.params := rfl
@[simp] theorem Wave.setPair_didWill (w : Wave) (r : Nat) (v : DWord) : (w.setPair r v).didWill = w.didWill := rfl
@[simp] theorem Wave.setPair_claims (w : Wave) (r : Nat) (v : DWord) : (w.setPair r v).claims = w.claims := rfl
@[simp] theorem Wave.setPair_keys (w : Wave) (r : Nat) (v : DWord) : (w.setPair r v).keys = w.keys := rfl
@[simp] theorem Wave.setPair_takes (w : Wave) (r : Nat) (v : DWord) : (w.setPair r v).takes = w.takes := rfl
@[simp] theorem Wave.setPair_fill (w : Wave) (r : Nat) (v : DWord) : (w.setPair r v).fill = w.fill := rfl
@[simp] theorem Wave.setPair_chosen (w : Wave) (r : Nat) (v : DWord) : (w.setPair r v).chosen = w.chosen := rfl
@[simp] theorem Wave.setPair_ckpt (w : Wave) (r : Nat) (v : DWord) : (w.setPair r v).ckpt = w.ckpt := rfl
@[simp] theorem Wave.setPair_halted (w : Wave) (r : Nat) (v : DWord) : (w.setPair r v).halted = w.halted := rfl
@[simp] theorem Wave.setPair_parkWords (w : Wave) (r : Nat) (v : DWord) : (w.setPair r v).parkWords = w.parkWords := rfl
@[simp] theorem Wave.setPair_parkC (w : Wave) (r : Nat) (v : DWord) : (w.setPair r v).parkC = w.parkC := rfl
@[simp] theorem Wave.setPair_parkPipe (w : Wave) (r : Nat) (v : DWord) : (w.setPair r v).parkPipe = w.parkPipe := rfl
@[simp] theorem Wave.setPair_ticket (w : Wave) (r : Nat) (v : DWord) : (w.setPair r v).ticket = w.ticket := rfl
@[simp] theorem Wave.setPair_fence (w : Wave) (r : Nat) (v : DWord) : (w.setPair r v).fence = w.fence := rfl
@[simp] theorem Wave.setPair_stall (w : Wave) (r : Nat) (v : DWord) : (w.setPair r v).stall = w.stall := rfl
@[simp] theorem Wave.setPair_refused (w : Wave) (r : Nat) (v : DWord) : (w.setPair r v).refused = w.refused := rfl
@[simp] theorem Wave.setPair_blocked (w : Wave) (r : Nat) (v : DWord) : (w.setPair r v).blocked = w.blocked := rfl

/-! ### Wave.setK -/

@[simp] theorem Wave.setK_uid (w : Wave) (k : Nat) (m : LaneMask) : (w.setK k m).uid = w.uid := by unfold Wave.setK; split <;> rfl
@[simp] theorem Wave.setK_core (w : Wave) (k : Nat) (m : LaneMask) : (w.setK k m).core = w.core := by unfold Wave.setK; split <;> rfl
@[simp] theorem Wave.setK_slot (w : Wave) (k : Nat) (m : LaneMask) : (w.setK k m).slot = w.slot := by unfold Wave.setK; split <;> rfl
@[simp] theorem Wave.setK_part (w : Wave) (k : Nat) (m : LaneMask) : (w.setK k m).part = w.part := by unfold Wave.setK; split <;> rfl
@[simp] theorem Wave.setK_cx (w : Wave) (k : Nat) (m : LaneMask) : (w.setK k m).cx = w.cx := by unfold Wave.setK; split <;> rfl
@[simp] theorem Wave.setK_fn (w : Wave) (k : Nat) (m : LaneMask) : (w.setK k m).fn = w.fn := by unfold Wave.setK; split <;> rfl
@[simp] theorem Wave.setK_queue (w : Wave) (k : Nat) (m : LaneMask) : (w.setK k m).queue = w.queue := by unfold Wave.setK; split <;> rfl
@[simp] theorem Wave.setK_launch (w : Wave) (k : Nat) (m : LaneMask) : (w.setK k m).launch = w.launch := by unfold Wave.setK; split <;> rfl
@[simp] theorem Wave.setK_index (w : Wave) (k : Nat) (m : LaneMask) : (w.setK k m).index = w.index := by unfold Wave.setK; split <;> rfl
@[simp] theorem Wave.setK_child (w : Wave) (k : Nat) (m : LaneMask) : (w.setK k m).child = w.child := by unfold Wave.setK; split <;> rfl
@[simp] theorem Wave.setK_desc (w : Wave) (k : Nat) (m : LaneMask) : (w.setK k m).desc = w.desc := by unfold Wave.setK; split <;> rfl
@[simp] theorem Wave.setK_foot (w : Wave) (k : Nat) (m : LaneMask) : (w.setK k m).foot = w.foot := by unfold Wave.setK; split <;> rfl
@[simp] theorem Wave.setK_space (w : Wave) (k : Nat) (m : LaneMask) : (w.setK k m).space = w.space := by unfold Wave.setK; split <;> rfl
@[simp] theorem Wave.setK_prio (w : Wave) (k : Nat) (m : LaneMask) : (w.setK k m).prio = w.prio := by unfold Wave.setK; split <;> rfl
@[simp] theorem Wave.setK_placed (w : Wave) (k : Nat) (m : LaneMask) : (w.setK k m).placed = w.placed := by unfold Wave.setK; split <;> rfl
@[simp] theorem Wave.setK_life (w : Wave) (k : Nat) (m : LaneMask) : (w.setK k m).life = w.life := by unfold Wave.setK; split <;> rfl
@[simp] theorem Wave.setK_pc (w : Wave) (k : Nat) (m : LaneMask) : (w.setK k m).pc = w.pc := by unfold Wave.setK; split <;> rfl
@[simp] theorem Wave.setK_grp (w : Wave) (k : Nat) (m : LaneMask) : (w.setK k m).grp = w.grp := by unfold Wave.setK; split <;> rfl
@[simp] theorem Wave.setK_xfer (w : Wave) (k : Nat) (m : LaneMask) : (w.setK k m).xfer = w.xfer := by unfold Wave.setK; split <;> rfl
@[simp] theorem Wave.setK_exec (w : Wave) (k : Nat) (m : LaneMask) : (w.setK k m).exec = w.exec := by unfold Wave.setK; split <;> rfl
@[simp] theorem Wave.setK_s (w : Wave) (k : Nat) (m : LaneMask) : (w.setK k m).s = w.s := by unfold Wave.setK; split <;> rfl
@[simp] theorem Wave.setK_fmt (w : Wave) (k : Nat) (m : LaneMask) : (w.setK k m).fmt = w.fmt := by unfold Wave.setK; split <;> rfl
@[simp] theorem Wave.setK_scc (w : Wave) (k : Nat) (m : LaneMask) : (w.setK k m).scc = w.scc := by unfold Wave.setK; split <;> rfl
@[simp] theorem Wave.setK_maskStack (w : Wave) (k : Nat) (m : LaneMask) : (w.setK k m).maskStack = w.maskStack := by unfold Wave.setK; split <;> rfl
@[simp] theorem Wave.setK_callStack (w : Wave) (k : Nat) (m : LaneMask) : (w.setK k m).callStack = w.callStack := by unfold Wave.setK; split <;> rfl
@[simp] theorem Wave.setK_tbudget (w : Wave) (k : Nat) (m : LaneMask) : (w.setK k m).tbudget = w.tbudget := by unfold Wave.setK; split <;> rfl
@[simp] theorem Wave.setK_inld (w : Wave) (k : Nat) (m : LaneMask) : (w.setK k m).inld = w.inld := by unfold Wave.setK; split <;> rfl
@[simp] theorem Wave.setK_sdepth (w : Wave) (k : Nat) (m : LaneMask) : (w.setK k m).sdepth = w.sdepth := by unfold Wave.setK; split <;> rfl
@[simp] theorem Wave.setK_args (w : Wave) (k : Nat) (m : LaneMask) : (w.setK k m).args = w.args := by unfold Wave.setK; split <;> rfl
@[simp] theorem Wave.setK_icount (w : Wave) (k : Nat) (m : LaneMask) : (w.setK k m).icount = w.icount := by unfold Wave.setK; split <;> rfl
@[simp] theorem Wave.setK_ibase (w : Wave) (k : Nat) (m : LaneMask) : (w.setK k m).ibase = w.ibase := by unfold Wave.setK; split <;> rfl
@[simp] theorem Wave.setK_ctaglo (w : Wave) (k : Nat) (m : LaneMask) : (w.setK k m).ctaglo = w.ctaglo := by unfold Wave.setK; split <;> rfl
@[simp] theorem Wave.setK_ctaghi (w : Wave) (k : Nat) (m : LaneMask) : (w.setK k m).ctaghi = w.ctaghi := by unfold Wave.setK; split <;> rfl
@[simp] theorem Wave.setK_parent (w : Wave) (k : Nat) (m : LaneMask) : (w.setK k m).parent = w.parent := by unfold Wave.setK; split <;> rfl
@[simp] theorem Wave.setK_ebase (w : Wave) (k : Nat) (m : LaneMask) : (w.setK k m).ebase = w.ebase := by unfold Wave.setK; split <;> rfl
@[simp] theorem Wave.setK_wbase (w : Wave) (k : Nat) (m : LaneMask) : (w.setK k m).wbase = w.wbase := by unfold Wave.setK; split <;> rfl
@[simp] theorem Wave.setK_spadBase (w : Wave) (k : Nat) (m : LaneMask) : (w.setK k m).spadBase = w.spadBase := by unfold Wave.setK; split <;> rfl
@[simp] theorem Wave.setK_accBase (w : Wave) (k : Nat) (m : LaneMask) : (w.setK k m).accBase = w.accBase := by unfold Wave.setK; split <;> rfl
@[simp] theorem Wave.setK_semBase (w : Wave) (k : Nat) (m : LaneMask) : (w.setK k m).semBase = w.semBase := by unfold Wave.setK; split <;> rfl
@[simp] theorem Wave.setK_backed (w : Wave) (k : Nat) (m : LaneMask) : (w.setK k m).backed = w.backed := by unfold Wave.setK; split <;> rfl
@[simp] theorem Wave.setK_sealFlag (w : Wave) (k : Nat) (m : LaneMask) : (w.setK k m).sealFlag = w.sealFlag := by unfold Wave.setK; split <;> rfl
@[simp] theorem Wave.setK_sealSince (w : Wave) (k : Nat) (m : LaneMask) : (w.setK k m).sealSince = w.sealSince := by unfold Wave.setK; split <;> rfl
@[simp] theorem Wave.setK_inTrap (w : Wave) (k : Nat) (m : LaneMask) : (w.setK k m).inTrap = w.inTrap := by unfold Wave.setK; split <;> rfl
@[simp] theorem Wave.setK_hidden (w : Wave) (k : Nat) (m : LaneMask) : (w.setK k m).hidden = w.hidden := by unfold Wave.setK; split <;> rfl
@[simp] theorem Wave.setK_hiddenSeal (w : Wave) (k : Nat) (m : LaneMask) : (w.setK k m).hiddenSeal = w.hiddenSeal := by unfold Wave.setK; split <;> rfl
@[simp] theorem Wave.setK_overdueAt (w : Wave) (k : Nat) (m : LaneMask) : (w.setK k m).overdueAt = w.overdueAt := by unfold Wave.setK; split <;> rfl
@[simp] theorem Wave.setK_last (w : Wave) (k : Nat) (m : LaneMask) : (w.setK k m).last = w.last := by unfold Wave.setK; split <;> rfl
@[simp] theorem Wave.setK_openOps (w : Wave) (k : Nat) (m : LaneMask) : (w.setK k m).openOps = w.openOps := by unfold Wave.setK; split <;> rfl
@[simp] theorem Wave.setK_batches (w : Wave) (k : Nat) (m : LaneMask) : (w.setK k m).batches = w.batches := by unfold Wave.setK; split <;> rfl
@[simp] theorem Wave.setK_params (w : Wave) (k : Nat) (m : LaneMask) : (w.setK k m).params = w.params := by unfold Wave.setK; split <;> rfl
@[simp] theorem Wave.setK_didWill (w : Wave) (k : Nat) (m : LaneMask) : (w.setK k m).didWill = w.didWill := by unfold Wave.setK; split <;> rfl
@[simp] theorem Wave.setK_claims (w : Wave) (k : Nat) (m : LaneMask) : (w.setK k m).claims = w.claims := by unfold Wave.setK; split <;> rfl
@[simp] theorem Wave.setK_keys (w : Wave) (k : Nat) (m : LaneMask) : (w.setK k m).keys = w.keys := by unfold Wave.setK; split <;> rfl
@[simp] theorem Wave.setK_takes (w : Wave) (k : Nat) (m : LaneMask) : (w.setK k m).takes = w.takes := by unfold Wave.setK; split <;> rfl
@[simp] theorem Wave.setK_fill (w : Wave) (k : Nat) (m : LaneMask) : (w.setK k m).fill = w.fill := by unfold Wave.setK; split <;> rfl
@[simp] theorem Wave.setK_chosen (w : Wave) (k : Nat) (m : LaneMask) : (w.setK k m).chosen = w.chosen := by unfold Wave.setK; split <;> rfl
@[simp] theorem Wave.setK_ckpt (w : Wave) (k : Nat) (m : LaneMask) : (w.setK k m).ckpt = w.ckpt := by unfold Wave.setK; split <;> rfl
@[simp] theorem Wave.setK_halted (w : Wave) (k : Nat) (m : LaneMask) : (w.setK k m).halted = w.halted := by unfold Wave.setK; split <;> rfl
@[simp] theorem Wave.setK_parkWords (w : Wave) (k : Nat) (m : LaneMask) : (w.setK k m).parkWords = w.parkWords := by unfold Wave.setK; split <;> rfl
@[simp] theorem Wave.setK_parkC (w : Wave) (k : Nat) (m : LaneMask) : (w.setK k m).parkC = w.parkC := by unfold Wave.setK; split <;> rfl
@[simp] theorem Wave.setK_parkPipe (w : Wave) (k : Nat) (m : LaneMask) : (w.setK k m).parkPipe = w.parkPipe := by unfold Wave.setK; split <;> rfl
@[simp] theorem Wave.setK_ticket (w : Wave) (k : Nat) (m : LaneMask) : (w.setK k m).ticket = w.ticket := by unfold Wave.setK; split <;> rfl
@[simp] theorem Wave.setK_fence (w : Wave) (k : Nat) (m : LaneMask) : (w.setK k m).fence = w.fence := by unfold Wave.setK; split <;> rfl
@[simp] theorem Wave.setK_stall (w : Wave) (k : Nat) (m : LaneMask) : (w.setK k m).stall = w.stall := by unfold Wave.setK; split <;> rfl
@[simp] theorem Wave.setK_refused (w : Wave) (k : Nat) (m : LaneMask) : (w.setK k m).refused = w.refused := by unfold Wave.setK; split <;> rfl
@[simp] theorem Wave.setK_blocked (w : Wave) (k : Nat) (m : LaneMask) : (w.setK k m).blocked = w.blocked := by unfold Wave.setK; split <;> rfl

/-! ### Wave.jump -/

@[simp] theorem Wave.jump_uid (w : Wave) (t : DWord) : (w.jump t).uid = w.uid := rfl
@[simp] theorem Wave.jump_core (w : Wave) (t : DWord) : (w.jump t).core = w.core := rfl
@[simp] theorem Wave.jump_slot (w : Wave) (t : DWord) : (w.jump t).slot = w.slot := rfl
@[simp] theorem Wave.jump_part (w : Wave) (t : DWord) : (w.jump t).part = w.part := rfl
@[simp] theorem Wave.jump_cx (w : Wave) (t : DWord) : (w.jump t).cx = w.cx := rfl
@[simp] theorem Wave.jump_fn (w : Wave) (t : DWord) : (w.jump t).fn = w.fn := rfl
@[simp] theorem Wave.jump_queue (w : Wave) (t : DWord) : (w.jump t).queue = w.queue := rfl
@[simp] theorem Wave.jump_launch (w : Wave) (t : DWord) : (w.jump t).launch = w.launch := rfl
@[simp] theorem Wave.jump_index (w : Wave) (t : DWord) : (w.jump t).index = w.index := rfl
@[simp] theorem Wave.jump_child (w : Wave) (t : DWord) : (w.jump t).child = w.child := rfl
@[simp] theorem Wave.jump_desc (w : Wave) (t : DWord) : (w.jump t).desc = w.desc := rfl
@[simp] theorem Wave.jump_foot (w : Wave) (t : DWord) : (w.jump t).foot = w.foot := rfl
@[simp] theorem Wave.jump_space (w : Wave) (t : DWord) : (w.jump t).space = w.space := rfl
@[simp] theorem Wave.jump_prio (w : Wave) (t : DWord) : (w.jump t).prio = w.prio := rfl
@[simp] theorem Wave.jump_placed (w : Wave) (t : DWord) : (w.jump t).placed = w.placed := rfl
@[simp] theorem Wave.jump_life (w : Wave) (t : DWord) : (w.jump t).life = w.life := rfl
@[simp] theorem Wave.jump_pc (w : Wave) (t : DWord) : (w.jump t).pc = w.pc := rfl
@[simp] theorem Wave.jump_grp (w : Wave) (t : DWord) : (w.jump t).grp = w.grp := rfl
@[simp] theorem Wave.jump_exec (w : Wave) (t : DWord) : (w.jump t).exec = w.exec := rfl
@[simp] theorem Wave.jump_s (w : Wave) (t : DWord) : (w.jump t).s = w.s := rfl
@[simp] theorem Wave.jump_k (w : Wave) (t : DWord) : (w.jump t).k = w.k := rfl
@[simp] theorem Wave.jump_fmt (w : Wave) (t : DWord) : (w.jump t).fmt = w.fmt := rfl
@[simp] theorem Wave.jump_scc (w : Wave) (t : DWord) : (w.jump t).scc = w.scc := rfl
@[simp] theorem Wave.jump_maskStack (w : Wave) (t : DWord) : (w.jump t).maskStack = w.maskStack := rfl
@[simp] theorem Wave.jump_callStack (w : Wave) (t : DWord) : (w.jump t).callStack = w.callStack := rfl
@[simp] theorem Wave.jump_tbudget (w : Wave) (t : DWord) : (w.jump t).tbudget = w.tbudget := rfl
@[simp] theorem Wave.jump_inld (w : Wave) (t : DWord) : (w.jump t).inld = w.inld := rfl
@[simp] theorem Wave.jump_sdepth (w : Wave) (t : DWord) : (w.jump t).sdepth = w.sdepth := rfl
@[simp] theorem Wave.jump_args (w : Wave) (t : DWord) : (w.jump t).args = w.args := rfl
@[simp] theorem Wave.jump_icount (w : Wave) (t : DWord) : (w.jump t).icount = w.icount := rfl
@[simp] theorem Wave.jump_ibase (w : Wave) (t : DWord) : (w.jump t).ibase = w.ibase := rfl
@[simp] theorem Wave.jump_ctaglo (w : Wave) (t : DWord) : (w.jump t).ctaglo = w.ctaglo := rfl
@[simp] theorem Wave.jump_ctaghi (w : Wave) (t : DWord) : (w.jump t).ctaghi = w.ctaghi := rfl
@[simp] theorem Wave.jump_parent (w : Wave) (t : DWord) : (w.jump t).parent = w.parent := rfl
@[simp] theorem Wave.jump_ebase (w : Wave) (t : DWord) : (w.jump t).ebase = w.ebase := rfl
@[simp] theorem Wave.jump_wbase (w : Wave) (t : DWord) : (w.jump t).wbase = w.wbase := rfl
@[simp] theorem Wave.jump_spadBase (w : Wave) (t : DWord) : (w.jump t).spadBase = w.spadBase := rfl
@[simp] theorem Wave.jump_accBase (w : Wave) (t : DWord) : (w.jump t).accBase = w.accBase := rfl
@[simp] theorem Wave.jump_semBase (w : Wave) (t : DWord) : (w.jump t).semBase = w.semBase := rfl
@[simp] theorem Wave.jump_backed (w : Wave) (t : DWord) : (w.jump t).backed = w.backed := rfl
@[simp] theorem Wave.jump_sealFlag (w : Wave) (t : DWord) : (w.jump t).sealFlag = w.sealFlag := rfl
@[simp] theorem Wave.jump_sealSince (w : Wave) (t : DWord) : (w.jump t).sealSince = w.sealSince := rfl
@[simp] theorem Wave.jump_inTrap (w : Wave) (t : DWord) : (w.jump t).inTrap = w.inTrap := rfl
@[simp] theorem Wave.jump_hidden (w : Wave) (t : DWord) : (w.jump t).hidden = w.hidden := rfl
@[simp] theorem Wave.jump_hiddenSeal (w : Wave) (t : DWord) : (w.jump t).hiddenSeal = w.hiddenSeal := rfl
@[simp] theorem Wave.jump_overdueAt (w : Wave) (t : DWord) : (w.jump t).overdueAt = w.overdueAt := rfl
@[simp] theorem Wave.jump_last (w : Wave) (t : DWord) : (w.jump t).last = w.last := rfl
@[simp] theorem Wave.jump_openOps (w : Wave) (t : DWord) : (w.jump t).openOps = w.openOps := rfl
@[simp] theorem Wave.jump_batches (w : Wave) (t : DWord) : (w.jump t).batches = w.batches := rfl
@[simp] theorem Wave.jump_params (w : Wave) (t : DWord) : (w.jump t).params = w.params := rfl
@[simp] theorem Wave.jump_didWill (w : Wave) (t : DWord) : (w.jump t).didWill = w.didWill := rfl
@[simp] theorem Wave.jump_claims (w : Wave) (t : DWord) : (w.jump t).claims = w.claims := rfl
@[simp] theorem Wave.jump_keys (w : Wave) (t : DWord) : (w.jump t).keys = w.keys := rfl
@[simp] theorem Wave.jump_takes (w : Wave) (t : DWord) : (w.jump t).takes = w.takes := rfl
@[simp] theorem Wave.jump_fill (w : Wave) (t : DWord) : (w.jump t).fill = w.fill := rfl
@[simp] theorem Wave.jump_chosen (w : Wave) (t : DWord) : (w.jump t).chosen = w.chosen := rfl
@[simp] theorem Wave.jump_ckpt (w : Wave) (t : DWord) : (w.jump t).ckpt = w.ckpt := rfl
@[simp] theorem Wave.jump_halted (w : Wave) (t : DWord) : (w.jump t).halted = w.halted := rfl
@[simp] theorem Wave.jump_parkWords (w : Wave) (t : DWord) : (w.jump t).parkWords = w.parkWords := rfl
@[simp] theorem Wave.jump_parkC (w : Wave) (t : DWord) : (w.jump t).parkC = w.parkC := rfl
@[simp] theorem Wave.jump_parkPipe (w : Wave) (t : DWord) : (w.jump t).parkPipe = w.parkPipe := rfl
@[simp] theorem Wave.jump_ticket (w : Wave) (t : DWord) : (w.jump t).ticket = w.ticket := rfl
@[simp] theorem Wave.jump_fence (w : Wave) (t : DWord) : (w.jump t).fence = w.fence := rfl
@[simp] theorem Wave.jump_stall (w : Wave) (t : DWord) : (w.jump t).stall = w.stall := rfl
@[simp] theorem Wave.jump_refused (w : Wave) (t : DWord) : (w.jump t).refused = w.refused := rfl
@[simp] theorem Wave.jump_blocked (w : Wave) (t : DWord) : (w.jump t).blocked = w.blocked := rfl

/-! ### Wave.raise -/

@[simp] theorem Wave.raise_uid (w : Wave) (g : BitVec 6) : (w.raise g).uid = w.uid := rfl
@[simp] theorem Wave.raise_core (w : Wave) (g : BitVec 6) : (w.raise g).core = w.core := rfl
@[simp] theorem Wave.raise_slot (w : Wave) (g : BitVec 6) : (w.raise g).slot = w.slot := rfl
@[simp] theorem Wave.raise_part (w : Wave) (g : BitVec 6) : (w.raise g).part = w.part := rfl
@[simp] theorem Wave.raise_cx (w : Wave) (g : BitVec 6) : (w.raise g).cx = w.cx := rfl
@[simp] theorem Wave.raise_fn (w : Wave) (g : BitVec 6) : (w.raise g).fn = w.fn := rfl
@[simp] theorem Wave.raise_queue (w : Wave) (g : BitVec 6) : (w.raise g).queue = w.queue := rfl
@[simp] theorem Wave.raise_launch (w : Wave) (g : BitVec 6) : (w.raise g).launch = w.launch := rfl
@[simp] theorem Wave.raise_index (w : Wave) (g : BitVec 6) : (w.raise g).index = w.index := rfl
@[simp] theorem Wave.raise_child (w : Wave) (g : BitVec 6) : (w.raise g).child = w.child := rfl
@[simp] theorem Wave.raise_desc (w : Wave) (g : BitVec 6) : (w.raise g).desc = w.desc := rfl
@[simp] theorem Wave.raise_foot (w : Wave) (g : BitVec 6) : (w.raise g).foot = w.foot := rfl
@[simp] theorem Wave.raise_space (w : Wave) (g : BitVec 6) : (w.raise g).space = w.space := rfl
@[simp] theorem Wave.raise_prio (w : Wave) (g : BitVec 6) : (w.raise g).prio = w.prio := rfl
@[simp] theorem Wave.raise_placed (w : Wave) (g : BitVec 6) : (w.raise g).placed = w.placed := rfl
@[simp] theorem Wave.raise_life (w : Wave) (g : BitVec 6) : (w.raise g).life = w.life := rfl
@[simp] theorem Wave.raise_pc (w : Wave) (g : BitVec 6) : (w.raise g).pc = w.pc := rfl
@[simp] theorem Wave.raise_grp (w : Wave) (g : BitVec 6) : (w.raise g).grp = w.grp := rfl
@[simp] theorem Wave.raise_xfer (w : Wave) (g : BitVec 6) : (w.raise g).xfer = w.xfer := rfl
@[simp] theorem Wave.raise_exec (w : Wave) (g : BitVec 6) : (w.raise g).exec = w.exec := rfl
@[simp] theorem Wave.raise_s (w : Wave) (g : BitVec 6) : (w.raise g).s = w.s := rfl
@[simp] theorem Wave.raise_k (w : Wave) (g : BitVec 6) : (w.raise g).k = w.k := rfl
@[simp] theorem Wave.raise_scc (w : Wave) (g : BitVec 6) : (w.raise g).scc = w.scc := rfl
@[simp] theorem Wave.raise_maskStack (w : Wave) (g : BitVec 6) : (w.raise g).maskStack = w.maskStack := rfl
@[simp] theorem Wave.raise_callStack (w : Wave) (g : BitVec 6) : (w.raise g).callStack = w.callStack := rfl
@[simp] theorem Wave.raise_tbudget (w : Wave) (g : BitVec 6) : (w.raise g).tbudget = w.tbudget := rfl
@[simp] theorem Wave.raise_inld (w : Wave) (g : BitVec 6) : (w.raise g).inld = w.inld := rfl
@[simp] theorem Wave.raise_sdepth (w : Wave) (g : BitVec 6) : (w.raise g).sdepth = w.sdepth := rfl
@[simp] theorem Wave.raise_args (w : Wave) (g : BitVec 6) : (w.raise g).args = w.args := rfl
@[simp] theorem Wave.raise_icount (w : Wave) (g : BitVec 6) : (w.raise g).icount = w.icount := rfl
@[simp] theorem Wave.raise_ibase (w : Wave) (g : BitVec 6) : (w.raise g).ibase = w.ibase := rfl
@[simp] theorem Wave.raise_ctaglo (w : Wave) (g : BitVec 6) : (w.raise g).ctaglo = w.ctaglo := rfl
@[simp] theorem Wave.raise_ctaghi (w : Wave) (g : BitVec 6) : (w.raise g).ctaghi = w.ctaghi := rfl
@[simp] theorem Wave.raise_parent (w : Wave) (g : BitVec 6) : (w.raise g).parent = w.parent := rfl
@[simp] theorem Wave.raise_ebase (w : Wave) (g : BitVec 6) : (w.raise g).ebase = w.ebase := rfl
@[simp] theorem Wave.raise_wbase (w : Wave) (g : BitVec 6) : (w.raise g).wbase = w.wbase := rfl
@[simp] theorem Wave.raise_spadBase (w : Wave) (g : BitVec 6) : (w.raise g).spadBase = w.spadBase := rfl
@[simp] theorem Wave.raise_accBase (w : Wave) (g : BitVec 6) : (w.raise g).accBase = w.accBase := rfl
@[simp] theorem Wave.raise_semBase (w : Wave) (g : BitVec 6) : (w.raise g).semBase = w.semBase := rfl
@[simp] theorem Wave.raise_backed (w : Wave) (g : BitVec 6) : (w.raise g).backed = w.backed := rfl
@[simp] theorem Wave.raise_sealFlag (w : Wave) (g : BitVec 6) : (w.raise g).sealFlag = w.sealFlag := rfl
@[simp] theorem Wave.raise_sealSince (w : Wave) (g : BitVec 6) : (w.raise g).sealSince = w.sealSince := rfl
@[simp] theorem Wave.raise_inTrap (w : Wave) (g : BitVec 6) : (w.raise g).inTrap = w.inTrap := rfl
@[simp] theorem Wave.raise_hidden (w : Wave) (g : BitVec 6) : (w.raise g).hidden = w.hidden := rfl
@[simp] theorem Wave.raise_hiddenSeal (w : Wave) (g : BitVec 6) : (w.raise g).hiddenSeal = w.hiddenSeal := rfl
@[simp] theorem Wave.raise_overdueAt (w : Wave) (g : BitVec 6) : (w.raise g).overdueAt = w.overdueAt := rfl
@[simp] theorem Wave.raise_last (w : Wave) (g : BitVec 6) : (w.raise g).last = w.last := rfl
@[simp] theorem Wave.raise_openOps (w : Wave) (g : BitVec 6) : (w.raise g).openOps = w.openOps := rfl
@[simp] theorem Wave.raise_batches (w : Wave) (g : BitVec 6) : (w.raise g).batches = w.batches := rfl
@[simp] theorem Wave.raise_params (w : Wave) (g : BitVec 6) : (w.raise g).params = w.params := rfl
@[simp] theorem Wave.raise_didWill (w : Wave) (g : BitVec 6) : (w.raise g).didWill = w.didWill := rfl
@[simp] theorem Wave.raise_claims (w : Wave) (g : BitVec 6) : (w.raise g).claims = w.claims := rfl
@[simp] theorem Wave.raise_keys (w : Wave) (g : BitVec 6) : (w.raise g).keys = w.keys := rfl
@[simp] theorem Wave.raise_takes (w : Wave) (g : BitVec 6) : (w.raise g).takes = w.takes := rfl
@[simp] theorem Wave.raise_fill (w : Wave) (g : BitVec 6) : (w.raise g).fill = w.fill := rfl
@[simp] theorem Wave.raise_chosen (w : Wave) (g : BitVec 6) : (w.raise g).chosen = w.chosen := rfl
@[simp] theorem Wave.raise_ckpt (w : Wave) (g : BitVec 6) : (w.raise g).ckpt = w.ckpt := rfl
@[simp] theorem Wave.raise_halted (w : Wave) (g : BitVec 6) : (w.raise g).halted = w.halted := rfl
@[simp] theorem Wave.raise_parkWords (w : Wave) (g : BitVec 6) : (w.raise g).parkWords = w.parkWords := rfl
@[simp] theorem Wave.raise_parkC (w : Wave) (g : BitVec 6) : (w.raise g).parkC = w.parkC := rfl
@[simp] theorem Wave.raise_parkPipe (w : Wave) (g : BitVec 6) : (w.raise g).parkPipe = w.parkPipe := rfl
@[simp] theorem Wave.raise_ticket (w : Wave) (g : BitVec 6) : (w.raise g).ticket = w.ticket := rfl
@[simp] theorem Wave.raise_fence (w : Wave) (g : BitVec 6) : (w.raise g).fence = w.fence := rfl
@[simp] theorem Wave.raise_stall (w : Wave) (g : BitVec 6) : (w.raise g).stall = w.stall := rfl
@[simp] theorem Wave.raise_refused (w : Wave) (g : BitVec 6) : (w.raise g).refused = w.refused := rfl
@[simp] theorem Wave.raise_blocked (w : Wave) (g : BitVec 6) : (w.raise g).blocked = w.blocked := rfl

/-! ### Wave.advance -/

@[simp] theorem Wave.advance_uid (w : Wave) (n : Nat) (c : Bool) (p : Pipe) : (w.advance n c p).uid = w.uid := by cases c <;> rfl
@[simp] theorem Wave.advance_core (w : Wave) (n : Nat) (c : Bool) (p : Pipe) : (w.advance n c p).core = w.core := by cases c <;> rfl
@[simp] theorem Wave.advance_slot (w : Wave) (n : Nat) (c : Bool) (p : Pipe) : (w.advance n c p).slot = w.slot := by cases c <;> rfl
@[simp] theorem Wave.advance_part (w : Wave) (n : Nat) (c : Bool) (p : Pipe) : (w.advance n c p).part = w.part := by cases c <;> rfl
@[simp] theorem Wave.advance_cx (w : Wave) (n : Nat) (c : Bool) (p : Pipe) : (w.advance n c p).cx = w.cx := by cases c <;> rfl
@[simp] theorem Wave.advance_fn (w : Wave) (n : Nat) (c : Bool) (p : Pipe) : (w.advance n c p).fn = w.fn := by cases c <;> rfl
@[simp] theorem Wave.advance_queue (w : Wave) (n : Nat) (c : Bool) (p : Pipe) : (w.advance n c p).queue = w.queue := by cases c <;> rfl
@[simp] theorem Wave.advance_launch (w : Wave) (n : Nat) (c : Bool) (p : Pipe) : (w.advance n c p).launch = w.launch := by cases c <;> rfl
@[simp] theorem Wave.advance_index (w : Wave) (n : Nat) (c : Bool) (p : Pipe) : (w.advance n c p).index = w.index := by cases c <;> rfl
@[simp] theorem Wave.advance_child (w : Wave) (n : Nat) (c : Bool) (p : Pipe) : (w.advance n c p).child = w.child := by cases c <;> rfl
@[simp] theorem Wave.advance_desc (w : Wave) (n : Nat) (c : Bool) (p : Pipe) : (w.advance n c p).desc = w.desc := by cases c <;> rfl
@[simp] theorem Wave.advance_foot (w : Wave) (n : Nat) (c : Bool) (p : Pipe) : (w.advance n c p).foot = w.foot := by cases c <;> rfl
@[simp] theorem Wave.advance_space (w : Wave) (n : Nat) (c : Bool) (p : Pipe) : (w.advance n c p).space = w.space := by cases c <;> rfl
@[simp] theorem Wave.advance_prio (w : Wave) (n : Nat) (c : Bool) (p : Pipe) : (w.advance n c p).prio = w.prio := by cases c <;> rfl
@[simp] theorem Wave.advance_placed (w : Wave) (n : Nat) (c : Bool) (p : Pipe) : (w.advance n c p).placed = w.placed := by cases c <;> rfl
@[simp] theorem Wave.advance_life (w : Wave) (n : Nat) (c : Bool) (p : Pipe) : (w.advance n c p).life = w.life := by cases c <;> rfl
@[simp] theorem Wave.advance_exec (w : Wave) (n : Nat) (c : Bool) (p : Pipe) : (w.advance n c p).exec = w.exec := by cases c <;> rfl
@[simp] theorem Wave.advance_s (w : Wave) (n : Nat) (c : Bool) (p : Pipe) : (w.advance n c p).s = w.s := by cases c <;> rfl
@[simp] theorem Wave.advance_k (w : Wave) (n : Nat) (c : Bool) (p : Pipe) : (w.advance n c p).k = w.k := by cases c <;> rfl
@[simp] theorem Wave.advance_fmt (w : Wave) (n : Nat) (c : Bool) (p : Pipe) : (w.advance n c p).fmt = w.fmt := by cases c <;> rfl
@[simp] theorem Wave.advance_scc (w : Wave) (n : Nat) (c : Bool) (p : Pipe) : (w.advance n c p).scc = w.scc := by cases c <;> rfl
@[simp] theorem Wave.advance_maskStack (w : Wave) (n : Nat) (c : Bool) (p : Pipe) : (w.advance n c p).maskStack = w.maskStack := by cases c <;> rfl
@[simp] theorem Wave.advance_callStack (w : Wave) (n : Nat) (c : Bool) (p : Pipe) : (w.advance n c p).callStack = w.callStack := by cases c <;> rfl
@[simp] theorem Wave.advance_tbudget (w : Wave) (n : Nat) (c : Bool) (p : Pipe) : (w.advance n c p).tbudget = w.tbudget := by cases c <;> rfl
@[simp] theorem Wave.advance_inld (w : Wave) (n : Nat) (c : Bool) (p : Pipe) : (w.advance n c p).inld = w.inld := by cases c <;> rfl
@[simp] theorem Wave.advance_sdepth (w : Wave) (n : Nat) (c : Bool) (p : Pipe) : (w.advance n c p).sdepth = w.sdepth := by cases c <;> rfl
@[simp] theorem Wave.advance_args (w : Wave) (n : Nat) (c : Bool) (p : Pipe) : (w.advance n c p).args = w.args := by cases c <;> rfl
@[simp] theorem Wave.advance_icount (w : Wave) (n : Nat) (c : Bool) (p : Pipe) : (w.advance n c p).icount = w.icount := by cases c <;> rfl
@[simp] theorem Wave.advance_ibase (w : Wave) (n : Nat) (c : Bool) (p : Pipe) : (w.advance n c p).ibase = w.ibase := by cases c <;> rfl
@[simp] theorem Wave.advance_ctaglo (w : Wave) (n : Nat) (c : Bool) (p : Pipe) : (w.advance n c p).ctaglo = w.ctaglo := by cases c <;> rfl
@[simp] theorem Wave.advance_ctaghi (w : Wave) (n : Nat) (c : Bool) (p : Pipe) : (w.advance n c p).ctaghi = w.ctaghi := by cases c <;> rfl
@[simp] theorem Wave.advance_parent (w : Wave) (n : Nat) (c : Bool) (p : Pipe) : (w.advance n c p).parent = w.parent := by cases c <;> rfl
@[simp] theorem Wave.advance_ebase (w : Wave) (n : Nat) (c : Bool) (p : Pipe) : (w.advance n c p).ebase = w.ebase := by cases c <;> rfl
@[simp] theorem Wave.advance_wbase (w : Wave) (n : Nat) (c : Bool) (p : Pipe) : (w.advance n c p).wbase = w.wbase := by cases c <;> rfl
@[simp] theorem Wave.advance_spadBase (w : Wave) (n : Nat) (c : Bool) (p : Pipe) : (w.advance n c p).spadBase = w.spadBase := by cases c <;> rfl
@[simp] theorem Wave.advance_accBase (w : Wave) (n : Nat) (c : Bool) (p : Pipe) : (w.advance n c p).accBase = w.accBase := by cases c <;> rfl
@[simp] theorem Wave.advance_semBase (w : Wave) (n : Nat) (c : Bool) (p : Pipe) : (w.advance n c p).semBase = w.semBase := by cases c <;> rfl
@[simp] theorem Wave.advance_backed (w : Wave) (n : Nat) (c : Bool) (p : Pipe) : (w.advance n c p).backed = w.backed := by cases c <;> rfl
@[simp] theorem Wave.advance_sealFlag (w : Wave) (n : Nat) (c : Bool) (p : Pipe) : (w.advance n c p).sealFlag = w.sealFlag := by cases c <;> rfl
@[simp] theorem Wave.advance_sealSince (w : Wave) (n : Nat) (c : Bool) (p : Pipe) : (w.advance n c p).sealSince = w.sealSince := by cases c <;> rfl
@[simp] theorem Wave.advance_inTrap (w : Wave) (n : Nat) (c : Bool) (p : Pipe) : (w.advance n c p).inTrap = w.inTrap := by cases c <;> rfl
@[simp] theorem Wave.advance_hidden (w : Wave) (n : Nat) (c : Bool) (p : Pipe) : (w.advance n c p).hidden = w.hidden := by cases c <;> rfl
@[simp] theorem Wave.advance_hiddenSeal (w : Wave) (n : Nat) (c : Bool) (p : Pipe) : (w.advance n c p).hiddenSeal = w.hiddenSeal := by cases c <;> rfl
@[simp] theorem Wave.advance_overdueAt (w : Wave) (n : Nat) (c : Bool) (p : Pipe) : (w.advance n c p).overdueAt = w.overdueAt := by cases c <;> rfl
@[simp] theorem Wave.advance_last (w : Wave) (n : Nat) (c : Bool) (p : Pipe) : (w.advance n c p).last = w.last := by cases c <;> rfl
@[simp] theorem Wave.advance_openOps (w : Wave) (n : Nat) (c : Bool) (p : Pipe) : (w.advance n c p).openOps = w.openOps := by cases c <;> rfl
@[simp] theorem Wave.advance_batches (w : Wave) (n : Nat) (c : Bool) (p : Pipe) : (w.advance n c p).batches = w.batches := by cases c <;> rfl
@[simp] theorem Wave.advance_params (w : Wave) (n : Nat) (c : Bool) (p : Pipe) : (w.advance n c p).params = w.params := by cases c <;> rfl
@[simp] theorem Wave.advance_didWill (w : Wave) (n : Nat) (c : Bool) (p : Pipe) : (w.advance n c p).didWill = w.didWill := by cases c <;> rfl
@[simp] theorem Wave.advance_claims (w : Wave) (n : Nat) (c : Bool) (p : Pipe) : (w.advance n c p).claims = w.claims := by cases c <;> rfl
@[simp] theorem Wave.advance_keys (w : Wave) (n : Nat) (c : Bool) (p : Pipe) : (w.advance n c p).keys = w.keys := by cases c <;> rfl
@[simp] theorem Wave.advance_takes (w : Wave) (n : Nat) (c : Bool) (p : Pipe) : (w.advance n c p).takes = w.takes := by cases c <;> rfl
@[simp] theorem Wave.advance_fill (w : Wave) (n : Nat) (c : Bool) (p : Pipe) : (w.advance n c p).fill = w.fill := by cases c <;> rfl
@[simp] theorem Wave.advance_chosen (w : Wave) (n : Nat) (c : Bool) (p : Pipe) : (w.advance n c p).chosen = w.chosen := by cases c <;> rfl
@[simp] theorem Wave.advance_ckpt (w : Wave) (n : Nat) (c : Bool) (p : Pipe) : (w.advance n c p).ckpt = w.ckpt := by cases c <;> rfl
@[simp] theorem Wave.advance_halted (w : Wave) (n : Nat) (c : Bool) (p : Pipe) : (w.advance n c p).halted = w.halted := by cases c <;> rfl
@[simp] theorem Wave.advance_parkWords (w : Wave) (n : Nat) (c : Bool) (p : Pipe) : (w.advance n c p).parkWords = w.parkWords := by cases c <;> rfl
@[simp] theorem Wave.advance_parkC (w : Wave) (n : Nat) (c : Bool) (p : Pipe) : (w.advance n c p).parkC = w.parkC := by cases c <;> rfl
@[simp] theorem Wave.advance_parkPipe (w : Wave) (n : Nat) (c : Bool) (p : Pipe) : (w.advance n c p).parkPipe = w.parkPipe := by cases c <;> rfl
@[simp] theorem Wave.advance_ticket (w : Wave) (n : Nat) (c : Bool) (p : Pipe) : (w.advance n c p).ticket = w.ticket := by cases c <;> rfl
@[simp] theorem Wave.advance_fence (w : Wave) (n : Nat) (c : Bool) (p : Pipe) : (w.advance n c p).fence = w.fence := by cases c <;> rfl
@[simp] theorem Wave.advance_stall (w : Wave) (n : Nat) (c : Bool) (p : Pipe) : (w.advance n c p).stall = w.stall := by cases c <;> rfl
@[simp] theorem Wave.advance_refused (w : Wave) (n : Nat) (c : Bool) (p : Pipe) : (w.advance n c p).refused = w.refused := by cases c <;> rfl
@[simp] theorem Wave.advance_blocked (w : Wave) (n : Nat) (c : Bool) (p : Pipe) : (w.advance n c p).blocked = w.blocked := by cases c <;> rfl

/-! ### Wave.seal -/

@[simp] theorem Wave.seal_uid (w : Wave) (now : DWord) : (w.seal now).uid = w.uid := by unfold Wave.seal; split <;> rfl
@[simp] theorem Wave.seal_core (w : Wave) (now : DWord) : (w.seal now).core = w.core := by unfold Wave.seal; split <;> rfl
@[simp] theorem Wave.seal_slot (w : Wave) (now : DWord) : (w.seal now).slot = w.slot := by unfold Wave.seal; split <;> rfl
@[simp] theorem Wave.seal_part (w : Wave) (now : DWord) : (w.seal now).part = w.part := by unfold Wave.seal; split <;> rfl
@[simp] theorem Wave.seal_cx (w : Wave) (now : DWord) : (w.seal now).cx = w.cx := by unfold Wave.seal; split <;> rfl
@[simp] theorem Wave.seal_fn (w : Wave) (now : DWord) : (w.seal now).fn = w.fn := by unfold Wave.seal; split <;> rfl
@[simp] theorem Wave.seal_queue (w : Wave) (now : DWord) : (w.seal now).queue = w.queue := by unfold Wave.seal; split <;> rfl
@[simp] theorem Wave.seal_launch (w : Wave) (now : DWord) : (w.seal now).launch = w.launch := by unfold Wave.seal; split <;> rfl
@[simp] theorem Wave.seal_index (w : Wave) (now : DWord) : (w.seal now).index = w.index := by unfold Wave.seal; split <;> rfl
@[simp] theorem Wave.seal_child (w : Wave) (now : DWord) : (w.seal now).child = w.child := by unfold Wave.seal; split <;> rfl
@[simp] theorem Wave.seal_desc (w : Wave) (now : DWord) : (w.seal now).desc = w.desc := by unfold Wave.seal; split <;> rfl
@[simp] theorem Wave.seal_foot (w : Wave) (now : DWord) : (w.seal now).foot = w.foot := by unfold Wave.seal; split <;> rfl
@[simp] theorem Wave.seal_space (w : Wave) (now : DWord) : (w.seal now).space = w.space := by unfold Wave.seal; split <;> rfl
@[simp] theorem Wave.seal_prio (w : Wave) (now : DWord) : (w.seal now).prio = w.prio := by unfold Wave.seal; split <;> rfl
@[simp] theorem Wave.seal_placed (w : Wave) (now : DWord) : (w.seal now).placed = w.placed := by unfold Wave.seal; split <;> rfl
@[simp] theorem Wave.seal_life (w : Wave) (now : DWord) : (w.seal now).life = w.life := by unfold Wave.seal; split <;> rfl
@[simp] theorem Wave.seal_pc (w : Wave) (now : DWord) : (w.seal now).pc = w.pc := by unfold Wave.seal; split <;> rfl
@[simp] theorem Wave.seal_grp (w : Wave) (now : DWord) : (w.seal now).grp = w.grp := by unfold Wave.seal; split <;> rfl
@[simp] theorem Wave.seal_xfer (w : Wave) (now : DWord) : (w.seal now).xfer = w.xfer := by unfold Wave.seal; split <;> rfl
@[simp] theorem Wave.seal_exec (w : Wave) (now : DWord) : (w.seal now).exec = w.exec := by unfold Wave.seal; split <;> rfl
@[simp] theorem Wave.seal_s (w : Wave) (now : DWord) : (w.seal now).s = w.s := by unfold Wave.seal; split <;> rfl
@[simp] theorem Wave.seal_k (w : Wave) (now : DWord) : (w.seal now).k = w.k := by unfold Wave.seal; split <;> rfl
@[simp] theorem Wave.seal_fmt (w : Wave) (now : DWord) : (w.seal now).fmt = w.fmt := by unfold Wave.seal; split <;> rfl
@[simp] theorem Wave.seal_scc (w : Wave) (now : DWord) : (w.seal now).scc = w.scc := by unfold Wave.seal; split <;> rfl
@[simp] theorem Wave.seal_maskStack (w : Wave) (now : DWord) : (w.seal now).maskStack = w.maskStack := by unfold Wave.seal; split <;> rfl
@[simp] theorem Wave.seal_callStack (w : Wave) (now : DWord) : (w.seal now).callStack = w.callStack := by unfold Wave.seal; split <;> rfl
@[simp] theorem Wave.seal_tbudget (w : Wave) (now : DWord) : (w.seal now).tbudget = w.tbudget := by unfold Wave.seal; split <;> rfl
@[simp] theorem Wave.seal_inld (w : Wave) (now : DWord) : (w.seal now).inld = w.inld := by unfold Wave.seal; split <;> rfl
@[simp] theorem Wave.seal_sdepth (w : Wave) (now : DWord) : (w.seal now).sdepth = w.sdepth := by unfold Wave.seal; split <;> rfl
@[simp] theorem Wave.seal_args (w : Wave) (now : DWord) : (w.seal now).args = w.args := by unfold Wave.seal; split <;> rfl
@[simp] theorem Wave.seal_icount (w : Wave) (now : DWord) : (w.seal now).icount = w.icount := by unfold Wave.seal; split <;> rfl
@[simp] theorem Wave.seal_ibase (w : Wave) (now : DWord) : (w.seal now).ibase = w.ibase := by unfold Wave.seal; split <;> rfl
@[simp] theorem Wave.seal_ctaglo (w : Wave) (now : DWord) : (w.seal now).ctaglo = w.ctaglo := by unfold Wave.seal; split <;> rfl
@[simp] theorem Wave.seal_ctaghi (w : Wave) (now : DWord) : (w.seal now).ctaghi = w.ctaghi := by unfold Wave.seal; split <;> rfl
@[simp] theorem Wave.seal_parent (w : Wave) (now : DWord) : (w.seal now).parent = w.parent := by unfold Wave.seal; split <;> rfl
@[simp] theorem Wave.seal_ebase (w : Wave) (now : DWord) : (w.seal now).ebase = w.ebase := by unfold Wave.seal; split <;> rfl
@[simp] theorem Wave.seal_wbase (w : Wave) (now : DWord) : (w.seal now).wbase = w.wbase := by unfold Wave.seal; split <;> rfl
@[simp] theorem Wave.seal_spadBase (w : Wave) (now : DWord) : (w.seal now).spadBase = w.spadBase := by unfold Wave.seal; split <;> rfl
@[simp] theorem Wave.seal_accBase (w : Wave) (now : DWord) : (w.seal now).accBase = w.accBase := by unfold Wave.seal; split <;> rfl
@[simp] theorem Wave.seal_semBase (w : Wave) (now : DWord) : (w.seal now).semBase = w.semBase := by unfold Wave.seal; split <;> rfl
@[simp] theorem Wave.seal_backed (w : Wave) (now : DWord) : (w.seal now).backed = w.backed := by unfold Wave.seal; split <;> rfl
@[simp] theorem Wave.seal_inTrap (w : Wave) (now : DWord) : (w.seal now).inTrap = w.inTrap := by unfold Wave.seal; split <;> rfl
@[simp] theorem Wave.seal_hidden (w : Wave) (now : DWord) : (w.seal now).hidden = w.hidden := by unfold Wave.seal; split <;> rfl
@[simp] theorem Wave.seal_hiddenSeal (w : Wave) (now : DWord) : (w.seal now).hiddenSeal = w.hiddenSeal := by unfold Wave.seal; split <;> rfl
@[simp] theorem Wave.seal_overdueAt (w : Wave) (now : DWord) : (w.seal now).overdueAt = w.overdueAt := by unfold Wave.seal; split <;> rfl
@[simp] theorem Wave.seal_last (w : Wave) (now : DWord) : (w.seal now).last = w.last := by unfold Wave.seal; split <;> rfl
@[simp] theorem Wave.seal_openOps (w : Wave) (now : DWord) : (w.seal now).openOps = w.openOps := by unfold Wave.seal; split <;> rfl
@[simp] theorem Wave.seal_batches (w : Wave) (now : DWord) : (w.seal now).batches = w.batches := by unfold Wave.seal; split <;> rfl
@[simp] theorem Wave.seal_params (w : Wave) (now : DWord) : (w.seal now).params = w.params := by unfold Wave.seal; split <;> rfl
@[simp] theorem Wave.seal_didWill (w : Wave) (now : DWord) : (w.seal now).didWill = w.didWill := by unfold Wave.seal; split <;> rfl
@[simp] theorem Wave.seal_claims (w : Wave) (now : DWord) : (w.seal now).claims = w.claims := by unfold Wave.seal; split <;> rfl
@[simp] theorem Wave.seal_keys (w : Wave) (now : DWord) : (w.seal now).keys = w.keys := by unfold Wave.seal; split <;> rfl
@[simp] theorem Wave.seal_takes (w : Wave) (now : DWord) : (w.seal now).takes = w.takes := by unfold Wave.seal; split <;> rfl
@[simp] theorem Wave.seal_fill (w : Wave) (now : DWord) : (w.seal now).fill = w.fill := by unfold Wave.seal; split <;> rfl
@[simp] theorem Wave.seal_chosen (w : Wave) (now : DWord) : (w.seal now).chosen = w.chosen := by unfold Wave.seal; split <;> rfl
@[simp] theorem Wave.seal_ckpt (w : Wave) (now : DWord) : (w.seal now).ckpt = w.ckpt := by unfold Wave.seal; split <;> rfl
@[simp] theorem Wave.seal_halted (w : Wave) (now : DWord) : (w.seal now).halted = w.halted := by unfold Wave.seal; split <;> rfl
@[simp] theorem Wave.seal_parkWords (w : Wave) (now : DWord) : (w.seal now).parkWords = w.parkWords := by unfold Wave.seal; split <;> rfl
@[simp] theorem Wave.seal_parkC (w : Wave) (now : DWord) : (w.seal now).parkC = w.parkC := by unfold Wave.seal; split <;> rfl
@[simp] theorem Wave.seal_parkPipe (w : Wave) (now : DWord) : (w.seal now).parkPipe = w.parkPipe := by unfold Wave.seal; split <;> rfl
@[simp] theorem Wave.seal_ticket (w : Wave) (now : DWord) : (w.seal now).ticket = w.ticket := by unfold Wave.seal; split <;> rfl
@[simp] theorem Wave.seal_fence (w : Wave) (now : DWord) : (w.seal now).fence = w.fence := by unfold Wave.seal; split <;> rfl
@[simp] theorem Wave.seal_stall (w : Wave) (now : DWord) : (w.seal now).stall = w.stall := by unfold Wave.seal; split <;> rfl
@[simp] theorem Wave.seal_refused (w : Wave) (now : DWord) : (w.seal now).refused = w.refused := by unfold Wave.seal; split <;> rfl
@[simp] theorem Wave.seal_blocked (w : Wave) (now : DWord) : (w.seal now).blocked = w.blocked := by unfold Wave.seal; split <;> rfl

end Sys2Proof.Machine
end

