-- ==== Sys2Proof/Laws/Ops.lean ====
section
/-! SUPPORT. What the shared operations over waves and registers do: looking waves up, reading what was written, the frame of a
trap. -/

namespace Sys2Proof.Machine

/-! ### Waves by uid -/

theorem find_uid {l : List Wave} {u : Nat} {w : Wave} (h : l.find? (fun x => x.uid == u) = some w) : w.uid = u := by
  simpa using List.find?_some h

theorem State.wave?_uid {s : State} {u : Nat} {w : Wave} (h : s.wave? u = some w) : w.uid = u := find_uid h

/-- The issuing wave is found by its own number. -/
theorem State.issuing_wave? {s : State} {w : Wave} (h : s.issuing = some w) : s.wave? w.uid = some w := by
  unfold State.issuing at h
  cases hc : s.cur with
  | none => rw [hc] at h; cases h
  | some u => rw [hc] at h; rw [State.wave?_uid h]; exact h

/-- The meaning of a wave instruction at the issuing wave. -/
theorem State.onWave_issuing {s : State} {w : Wave} (h : s.issuing = some w) (f : Wave → State) : s.onWave f = .next (f w) := by
  simp [State.onWave, h]

theorem find_map_uid (l : List Wave) (u v : Nat) (g : Wave → Wave) (hg : ∀ x, x.uid = u → (g x).uid = u) :
    (l.map (fun x => if x.uid = u then g x else x)).find? (fun x => x.uid == v) =
      (l.find? (fun x => x.uid == v)).map (fun x => if x.uid = u then g x else x) := by
  induction l with
  | nil => rfl
  | cons x r ih =>
    by_cases hx : x.uid = u
    · have := hg x hx
      by_cases hv : u = v
      · simp [List.find?, hx, this, hv]
      · have h1 : (u == v) = false := by simpa using hv
        simp only [List.map_cons, hx, if_true, List.find?, this, h1]
        exact ih
    · by_cases hv : x.uid = v
      · subst hv
        simp [List.find?, hx]
      · have h1 : (x.uid == v) = false := by simpa using hv
        simp only [List.map_cons, hx, if_false, List.find?, h1]
        exact ih

/-- A wave changed by a function that keeps its number is found changed, the others as before. -/
theorem State.wave?_modWave (s : State) (u v : Nat) (f : Wave → Wave) (hf : ∀ x, x.uid = u → (f x).uid = u) :
    (s.modWave u f).wave? v = (s.wave? v).map (fun x => if x.uid = u then f x else x) := find_map_uid s.waves u v f hf

theorem State.wave?_modWave_ne (s : State) {u v : Nat} (f : Wave → Wave) (hf : ∀ x, x.uid = u → (f x).uid = u) (h : v ≠ u) :
    (s.modWave u f).wave? v = s.wave? v := by
  rw [State.wave?_modWave s u v f hf]
  cases hv : s.wave? v with
  | none => rfl
  | some x => simp [State.wave?_uid hv, h]

theorem State.wave?_modWave_same {s : State} {u : Nat} {w : Wave} (f : Wave → Wave) (hf : ∀ x, x.uid = u → (f x).uid = u)
    (h : s.wave? u = some w) : (s.modWave u f).wave? u = some (f w) := by
  rw [State.wave?_modWave s u u f hf, h]; simp [State.wave?_uid h]

theorem State.putWave_eq_modWave (s : State) (w : Wave) : s.putWave w = s.modWave w.uid (fun _ => w) := rfl

/-- A wave put back is found under its number. -/
theorem State.wave?_putWave_same {s : State} {w x : Wave} (h : s.wave? w.uid = some x) : (s.putWave w).wave? w.uid = some w :=
  State.wave?_modWave_same (fun _ => w) (fun _ _ => rfl) h

theorem State.wave?_putWave_ne (s : State) {w : Wave} {v : Nat} (h : v ≠ w.uid) : (s.putWave w).wave? v = s.wave? v :=
  State.wave?_modWave_ne s (fun _ => w) (fun _ _ => rfl) h

theorem State.putWave_putWave (s : State) {v w : Wave} (h : v.uid = w.uid) : (s.putWave v).putWave w = s.putWave w := by
  simp only [State.putWave, List.map_map]
  congr 1
  apply List.map_congr_left
  intro x _
  by_cases hx : x.uid = w.uid <;> simp [h, hx]

/-! ### Registers -/

@[simp] theorem Wave.rs_setS_same (w : Wave) (r : Nat) (v : Word) : (w.setS r v).rs r = v := kvGet_put_same 0 w.s r v
theorem Wave.rs_setS_ne (w : Wave) {r q : Nat} (v : Word) (h : q ≠ r) : (w.setS r v).rs q = w.rs q := kvGet_put_ne 0 w.s v h

/-- k0 reads as all ones (R148). -/
@[simp] theorem Wave.rk_zero (w : Wave) : w.rk 0 = BitVec.allOnes 64 := rfl
/-- A write to k0 is ignored (R148). -/
@[simp] theorem Wave.setK_zero (w : Wave) (m : LaneMask) : w.setK 0 m = w := rfl
theorem Wave.rk_setK_same (w : Wave) {k : Nat} (m : LaneMask) (h : k ≠ 0) : (w.setK k m).rk k = m := by
  simp [Wave.rk, Wave.setK, h]
theorem Wave.rk_setK_ne (w : Wave) {k j : Nat} (m : LaneMask) (h : j ≠ k) : (w.setK k m).rk j = w.rk j := by
  by_cases hk : k = 0
  · simp [Wave.setK, hk]
  · by_cases hj : j = 0
    · simp [hj]
    · simp [Wave.rk, Wave.setK, hk, hj, kvGet_put_ne _ _ _ h]

theorem length_mergeV (old : VReg) (m : LaneMask) (f : Nat → Word) : (mergeV old m f).length = 64 := by simp [mergeV, allLanes]

/-- A lane of a merged register. -/
theorem laneOf_mergeV (old : VReg) (m : LaneMask) (f : Nat → Word) {l : Nat} (h : l < 64) :
    laneOf (mergeV old m f) l = if m.getLsbD l then f l else laneOf old l := by
  simp [laneOf, mergeV, allLanes, List.getElem?_range h]

/-- A lane of the results of active lanes. -/
theorem laneOf_range (f : Nat → Word) {l : Nat} (h : l < 64) : laneOf (allLanes.map f) l = f l := by
  simp [laneOf, allLanes, List.getElem?_range h]

/-! ### The frame of a trap -/

/-- Entering the kernel's handler changes the wave (R368), and what the access that failed found on its way (R249, R250). -/
theorem State.takeTrap_user (s : State) (w : Wave) (t : Trap) (hu : t.user = true) (hv : w.desc.tv = true) (hi : w.inTrap = false) :
    s.takeTrap w t = (s.found w t).putWave { w.setRun 240 ((s.found w t).handlerRegs w t) with
      hidden := (List.range 16).map (fun i => w.rs (240 + i)), hiddenSeal := w.sealFlag, inTrap := true, pc := w.desc.trapEntry,
      grp := [], xfer := none } := by
  simp [State.takeTrap, hu, hv, hi]

/-- A trap that no access raised finds nothing. -/
theorem State.found_none (s : State) (w : Wave) (t : Trap) (hl : t.lines = []) (hw : t.walks = []) : s.found w t = s := by
  have h (v : View) : s.walked v [] = s := by simp [State.walked, distinct]
  simp [State.found, hl, hw, h]

/-- Every other trap halts the wave (R365). -/
theorem State.takeTrap_halts (s : State) (w : Wave) (t : Trap) (h : t.user = false ∨ w.desc.tv = false ∨ w.inTrap = true) :
    s.takeTrap w t = (s.found w t).haltWave w t := by
  unfold State.takeTrap
  dsimp only
  rw [if_neg]
  rintro ⟨a, b, c⟩
  rcases h with h | h | h <;> simp_all

/-! ### Moving on, parking, going out -/

/-- The instruction is done: its wave has moved on, the others stand. -/
theorem State.wave?_advanceWave {s : State} {w : Wave} (n : Nat) (c : Bool) (p : Pipe) (h : s.wave? w.uid = some w) :
    (s.advanceWave w.uid n c p).wave? w.uid = some (w.advance n c p) :=
  State.wave?_modWave_same _ (fun x hx => by unfold Wave.advance; split <;> exact hx) h

theorem State.wave?_advanceWave_ne (s : State) {u v : Nat} (n : Nat) (c : Bool) (p : Pipe) (h : v ≠ u) :
    (s.advanceWave u n c p).wave? v = s.wave? v :=
  State.wave?_modWave_ne s _ (fun x hx => by unfold Wave.advance; split <;> exact hx) h

/-- A parked wave holds what it waits for, and nothing else of it changes. -/
theorem State.wave?_park {s : State} {w x : Wave} (why : Park) (n : Nat) (c : Bool) (p : Pipe) (h : s.wave? w.uid = some x) :
    (s.park w why n c p).wave? w.uid = some { w with life := .parked why, parkWords := n, parkC := c, parkPipe := p, ticket := s.nextOp } :=
  State.wave?_putWave_same (s := { s with nextOp := s.nextOp + 1 }) (x := x) h

/-- An operation that goes out: its record, its completion due, and nothing else but the next number. -/
theorem State.issueOp_spec (s : State) (w : Wave) (cls : Option Cls) (pipeA : Bool) (kind : OpKind) (done : Completion) (owned : List Nat) :
    ∃ o : Op, o.id = s.nextOp ∧ o.uid = w.uid ∧ o.cls = cls ∧ o.kind = kind ∧ o.done = done ∧ o.owned = owned ∧ o.dropped = false ∧ o.waits = [] ∧ o.pc = w.pc ∧
      s.issueOp w cls pipeA kind done owned =
        { s with nextOp := s.nextOp + 1, ops := s.ops ++ [o], agenda := s.agenda ++ [.ev kind.event { op := s.nextOp, core := w.cc }] } :=
  ⟨_, rfl, rfl, rfl, rfl, rfl, rfl, rfl, rfl, rfl, rfl⟩

@[simp] theorem State.issueOp_waves (s : State) (w : Wave) (cls : Option Cls) (pipeA : Bool) (kind : OpKind) (done : Completion) (owned : List Nat) :
    (s.issueOp w cls pipeA kind done owned).waves = s.waves := rfl
@[simp] theorem State.issueOp_mem (s : State) (w : Wave) (cls : Option Cls) (pipeA : Bool) (kind : OpKind) (done : Completion) (owned : List Nat) :
    (s.issueOp w cls pipeA kind done owned).mem = s.mem := rfl
@[simp] theorem State.issueOp_rf (s : State) (w : Wave) (cls : Option Cls) (pipeA : Bool) (kind : OpKind) (done : Completion) (owned : List Nat) :
    (s.issueOp w cls pipeA kind done owned).rf = s.rf := rfl

end Sys2Proof.Machine
end

