-- ==== Sys2Proof/Tests/Slice0.lean ====
section
/-! SUPPORT. Small tests: ill-formed terms, words of the spec's encodings, single steps, and for each statement of
Obligations.lean states and operands that meet its hypotheses. -/

open Sys2Proof Sys2Proof.Machine Sys2Proof.Claims

namespace Sys2Proof.Tests

set_option Elab.async false

/-! ### States of the tests -/

/-- A wave of partition 0 on core 0 with the values of its birth, 32 work registers blocks, all lanes active, pc 0. -/
def born : Wave :=
  Wave.born 0 { part := 0, cx := 0, fn := 0, queue := 0, launch := 0, index := 0, space := { fn := 0, pv := false, pasid := 0 }, prio := 0 }
    { core := 0, slot := 0, ebase := 0, wbase := 0, spadBase := 0, accBase := 0, semBase := 0 }
    { addr := 0, entry := 0, step := Config.stepping, gen := 1, exp := true, dep := false, inld := 0, sema := 16, acc := 32,
      spad := 256, ewin := 0, wwin := 32, tv := false, trapEntry := 0, ninh := 0, nbeq := 0, beqlist := [], inhmap := [], kid := 0, mstk := 32 }
    { ewin := 0, wwin := 32, spad := 256, acc := 32, sema := 16 } 0
def wave : Wave := { born with life := .ready, exec := BitVec.allOnes 64 }

/-- The device after reset with the wave at the issue stage, partition 0 live with the first GiB of DRAM, and page tables at
0x1000: the first GiB of addresses is that GiB, the second lies outside the slice, the third may not be written, the fourth is the first
GiB again without L1, the rest is not mapped. Beside them stand the given bytes, with their integrity check values. -/
def devWith (w : Wave) (cells : List (Nat × List Byte)) : State :=
  { State.reset with
    cur := some w.uid
    waves := [w]
    mem := (([(0x1000, toBytes 8 0x2001), (0x2000, toBytes 8 0x3001), (0x3000, toBytes 8 (2 ^ 59 + 7) ++ toBytes 8 (2 ^ 59 + 2 ^ 30 + 7) ++
      toBytes 8 (2 ^ 59 + 1) ++ toBytes 8 (2 ^ 59 + 15))] : List (Nat × List Byte)) ++ cells).foldl (fun m e => memPutAll m e.1 e.2) []
    icv := (cells.flatMap (fun e => linesOf e.1 e.2.length)).foldl (fun m l => kvPut 0 m l
      (crc16 (memBytes (cells.foldl (fun m e => memPutAll m e.1 e.2) []) (128 * l) 128))) []
    power := .running
    funcs := State.reset.funcs.set 0 { State.reset.func 0 with dptRoot := 0x1000 }
    parts := State.reset.parts.set 0 { State.reset.part 0 with live := true, clusters := 1, dbase := 0, dsize := 1 } }
def dev (w : Wave) : State := devWith w []
/-- The device with an event's operands. -/
def State.at (s : State) (inp : Input) : State := { s with input := inp, cur := none }

def pageAt (a : Nat) : Page := { pa := a, w := true, x := true, nol1 := false, pin := false }

theorem issuing (w : Wave) (cells : List (Nat × List Byte)) : (devWith w cells).issuing = some w := by
  simp [devWith, State.issuing, State.wave?]
theorem windows : ∀ n, n < 256 → inWindows wave n := fun _ h => h

theorem plain : Plain (dev wave) wave 0x10000 128 true (pageAt 0x10000) :=
  ⟨by decide, by decide, by decide, by decide, by decide, fun _ => rfl, by decide, by decide⟩
/-! ### Operand records with every field zero -/

def v4 : V4 :=
  { vd := 0, va := 0, vb := 0, vc := 0, km := 0, z := false, ty := 0, rnd := 0, sat := false, nega := false, negb := false, absa := false, fnx := false }
def vs : VS :=
  { vd := 0, va := 0, sb := 0, km := 0, z := false, ty := 0, rnd := 0, sat := false, nega := false, negb := false, absa := false, fnx := false }
def mf : MF := { vt := 0, sbase := 0, voff := 0, km := 0, width := 0, scope := 0, order := 0, cache := 0, imm := 0 }
def tf : TF :=
  { ta := 0, tb := 0, tc := 0, nd := 0, km := 0, z := false, cm := 0, ct := 0, ty := 0, td := 0, scope := 0, order := 0, cache := 0, btype := 0 }
def a2 : A2 := { aa := 0, ab := 0, ac := 0, cm := 0, ct := 0, scope := 0, order := 0, fl := 0 }
def a3 : A3 := { aa := 0, ab := 0, ac := 0, cm := 0, ct := 0, scope := 0, order := 0, fl := 0, imm := 0 }

/-! ### Words of the spec's examples -/

/-- The words are the whole of instruction i. -/
def reads (ws : List Word) (i : Instr) : Bool := decide (decodeWords true [] ws = .ok i ws.length)

theorem decodes_scalar :
    reads [0x07020304] (.sdiv false 2 3 4) ∧ reads [0x02000001] (.sadd false 0 0 1) ∧ reads [0x0C151818] (.sor false 21 24 24) ∧
    reads [0x15030102, 0x7F000005] (.saddSi false 3 1 5) ∧ reads [0x15010111, 0x7FFFFFFF] (.sminSi false 1 1 (-1)) ∧
    reads [0x150A0001, 0x7F000003] (.smovSi false 10 3) ∧ reads [0x16040001, 0x7F345678, 0x7F000012] (.smovSi32 4 0x12345678) ∧
    reads [0x17000109, 0x7F000002] (.scmp false 0 1 9 false 2) ∧ reads [0x17000112, 0x7F00000A] (.scmp false 0 1 2 true 10) ∧
    reads [0x18060708] (.ssel false 6 7 8) ∧ reads [0x19020701, 0x7F000088] (.sbfeu false 2 7 8 4) ∧ reads [0x1A050602] (.spopc false 5 6) ∧
    reads [0x1B080880, 0x7F000100] (.sadd64 false 8 8 true 256) ∧ reads [0x1B060600, 0x7F000008] (.sadd64 false 6 6 false 8) ∧
    reads [0x1B080883, 0x7F000002] (.sshl64 false 8 8 true 2) ∧ reads [0x2E040300] (.sget false 4 3) ∧ reads [0x2F0A0900] (.sput false 10 9) := by decide

theorem decodes_control :
    reads [0x20000000] (.b false 0) ∧ reads [0x21000000] (.bc false 0 0) ∧ reads [0x212FFFF7] (.bc false 2 (-9)) ∧
    reads [0x23000900, 0x7FFFFFFF] (.loop false 9 (-1)) ∧ reads [0x2400000A] (.call 10) ∧ reads [0x25000600] (.callp 6) ∧ reads [0x26000000] .ret ∧
    reads [0x27000005] (.stub 5) ∧ reads [0x28030000] (.mpush false 3) ∧ reads [0x29030000] (.melse false 3) ∧ reads [0x2A000000] (.mpop false) ∧
    reads [0x2B423000] (.kand false 4 2 3) ∧ reads [0x2B550608] (.kshl false 5 5 8) ∧ reads [0x2B030807] (.kpopc false 3 7) ∧
    reads [0x2B300A04] (.kfroms false 3 4) ∧ reads [0x2C632200] (.voteKf false 6 3 2) ∧ reads [0x2C060100] (.voteF false 6 0) ∧
    reads [0x300A0C0E] (.spawn 10 12 14) ∧ reads [0x31100200] (.tnext false 16 2) ∧ reads [0x32141800, 0x7F000000] (.hpush false 20 24) ∧
    reads [0x330A0B0C, 0x7F000000] (.hadmit false 10 11 12) ∧ reads [0x330A0B0C, 0x7F100000] (.hadmitMulti false 10 11 12) := by decide

/-- The group of the encoding chapter: three members on the pipes S, V and C; and the chained `nop`. -/
theorem decodes_groups :
    decodeWords false [] [0x82030102, 0xB4040506, 0x20000000] = .ok (.sadd true 3 1 2) 1 ∧
    decodeWords false [.S] [0xB4040506, 0x20000000] = .ok (.vaddF32Short true 4 5 6) 1 ∧
    decodeWords false [.V, .S] [0x20000000] = .ok (.b false 0) 1 ∧
    decodeWords false [] [0x81000000, 0x02000001] = .ok (.nop true) 1 ∧
    decodeWords false [] [0x82030102, 0x02000001] = .illegalEncoding := by decide

theorem decodes_vector :
    reads [0x35020101] (.vmulF32Short false 2 1 1) ∧ reads [0x36010102] (.vaddI32Short false 1 1 2) ∧ reads [0x37090300] (.vmovShort false 9 3) ∧
    reads [0x38040803, 0x7F004000] (.vadd false { v4 with vd := 4, va := 8, vb := 3, km := 4 }) ∧
    reads [0x39010203, 0x7F000490] (.vsub false { v4 with vd := 1, va := 2, vb := 3, ty := 9, sat := true }) ∧
    reads [0x3A070809, 0x7F0A0181] (.vmul false { v4 with vd := 7, va := 8, vb := 9, vc := 10, ty := 3, fnx := true }) ∧
    reads [0x3B010203, 0x7F042924] (.vfma false { v4 with vd := 1, va := 2, vb := 3, vc := 4, km := 2, z := true, ty := 2, rnd := 1, negb := true }) ∧
    reads [0x3C030304, 0x7F000001] (.vmax false { v4 with vd := 3, va := 3, vb := 4, fnx := true }) ∧
    reads [0x3E020900, 0x7F000101] (.vrsqrt false { v4 with vd := 2, va := 9, ty := 2, fnx := true }) ∧
    reads [0x3F050500, 0x7F000100] (.vlog2 false { v4 with vd := 5, va := 5, ty := 2 }) ∧
    reads [0x41010203, 0x7F000000] (.vand false { v4 with vd := 1, va := 2, vb := 3 }) ∧
    reads [0x4205 * 65536 + 0x0503, 0x7F004000] (.vor false { v4 with vd := 5, va := 5, vb := 3, km := 4 }) ∧
    reads [0x440C0302, 0x7F000080] (.vshl false { v4 with vd := 12, va := 3, vb := 2, ty := 1 }) ∧
    reads [0x55010203, 0x7F000080] (.vmulh false { v4 with vd := 1, va := 2, vb := 3, ty := 1 }) ∧
    reads [0x57010200, 0x7F000160] (.vrnd false { v4 with vd := 1, va := 2, ty := 2, rnd := 3 }) ∧
    reads [0x56010200, 0x7F000000] (.vclz false { v4 with vd := 1, va := 2 }) := by decide

theorem decodes_lane_moves :
    reads [0x4604 * 65536 + 0x0102, 0x7F020100] (.vcmp false { v4 with vd := 4, va := 1, vb := 2, vc := 2, ty := 2 }) ∧
    reads [0x47010201, 0x7F040000] (.vsel false { v4 with vd := 1, va := 2, vb := 1, vc := 4 }) ∧
    reads [0x48020300, 0x7F020290] (.vcvt false { v4 with vd := 2, va := 3, vc := 2, ty := 5, sat := true }) ∧
    reads [0x49010200, 0x7F020000] (.vcvtLegacy false { v4 with vd := 1, va := 2, vc := 2 }) ∧
    reads [0x4B020800, 0x7F000201] (.vunpack false { v4 with vd := 2, va := 8, ty := 4, fnx := true }) ∧
    reads [0x4C010203, 0x7F000000] (.vperm false { v4 with vd := 1, va := 2, vb := 3 }) ∧
    reads [0x4D010203, 0x7F010000] (.vrot false { vs with vd := 1, va := 2, sb := 3 }) ∧
    reads [0x4D010003, 0x7F040000] (.vsplat false { vs with vd := 1, sb := 3 }) ∧
    reads [0x4E090100, 0x7F000100] (.vred false { v4 with vd := 9, va := 1, ty := 2 }) ∧
    reads [0x4F040500, 0x7F000001] (.vscan false { v4 with vd := 4, va := 5, fnx := true }) ∧
    reads [0x500A0203, 0x7F000100] (.vredmaxi false { v4 with vd := 10, va := 2, vb := 3, ty := 2 }) ∧
    reads [0x51100203, 0x7F040100] (.vtopk false { v4 with vd := 16, va := 2, vb := 3, vc := 4, ty := 2 }) ∧
    reads [0x52010203, 0x7F040000] (.vdot4 false { v4 with vd := 1, va := 2, vb := 3, vc := 4 }) ∧
    reads [0x53010203, 0x7F000100] (.vrand false { v4 with vd := 1, va := 2, vb := 3, ty := 2 }) ∧
    reads [0x54010205, 0x7F380100] (.vaddVs false { vs with vd := 1, va := 2, sb := 5, ty := 2 }) ∧
    reads [0x54010106, 0x7F3A0000] (.vmulVs false { vs with vd := 1, va := 1, sb := 6 }) := by decide

theorem decodes_memory :
    reads [0x5C0204FF, 0x7F071010] (.ld false { mf with vt := 2, sbase := 4, voff := 0xFF, width := 3, order := 1, scope := 4, imm := 16 }) ∧
    reads [0x5C080409, 0x7F040100] (.ld false { mf with vt := 8, sbase := 4, voff := 9, width := 2, imm := 256 }) ∧
    reads [0x5D050607, 0x7F2463FC] (.st false { mf with vt := 5, sbase := 6, voff := 7, km := 2, width := 2, order := 2, scope := 1, imm := -4 }) ∧
    reads [0x5E0A04FF, 0x7F060008] (.sld false { mf with vt := 10, sbase := 4, voff := 0xFF, width := 3, imm := 8 }) ∧
    reads [0x5F1408FF, 0x7F080000] (.sst false { mf with vt := 20, sbase := 8, voff := 0xFF, width := 4 }) ∧
    reads [0x60030204, 0x7F040000] (.ldp false { mf with vt := 3, sbase := 2, voff := 4, width := 2 }) ∧
    reads [0x610302FF, 0x7F040000] (.stp false { mf with vt := 3, sbase := 2, voff := 0xFF, width := 2 }) ∧
    reads [0x60010302, 0x7F0E0000] (.lds16 false { mf with vt := 1, sbase := 3, voff := 2, width := 7 }) ∧
    reads [0x62101600, 0x7F400000, 0x7F000000] (.ldt { tf with ta := 16, tb := 22, tc := 0, nd := 2 }) ∧
    reads [0x62101600, 0x7F400001, 0x7F000000] (.stt { tf with ta := 16, tb := 22, tc := 0, nd := 2 }) ∧
    reads [0x630A0C0E, 0x7F04A000, 0x7F000000] (.cpy { a3 with aa := 10, ab := 12, ac := 14, cm := 1, ct := 40 }) ∧
    reads [0x630A0C0E, 0x7F0C0800, 0x7F000001] (.cpy { a3 with aa := 10, ab := 12, ac := 14, cm := 3, ct := 2, imm := 1 }) ∧
    reads [0x63141618, 0x7F04A00B, 0x7F000000] (.cpy { a3 with aa := 20, ab := 22, ac := 24, cm := 1, ct := 40, fl := 11 }) ∧
    reads [0x64141600, 0x7F404A00, 0x7F080000] (.cpyt { tf with ta := 20, tb := 22, tc := 0, nd := 2, cm := 1, ct := 40, td := 8 }) ∧
    reads [0x65010402, 0x7F053010] (.atom false { mf with vt := 1, sbase := 4, voff := 2, width := 2, order := 3, scope := 4, imm := 16 }) ∧
    reads [0x66030C04, 0x7F040000] (.hinc false { mf with vt := 3, sbase := 12, voff := 4, width := 2 }) ∧
    reads [0x670A0401, 0x7F051000] (.ldv false { mf with vt := 10, sbase := 4, voff := 1, width := 2, order := 1, scope := 4 }) ∧
    reads [0x68141500, 0x7F000000] (.valset false 20 21) ∧ reads [0x68141501, 0x7F000016] (.valst false 20 21 22) ∧
    reads [0x690C0401, 0x7F052000] (.casv false { mf with vt := 12, sbase := 4, voff := 1, width := 2, order := 2, scope := 4 }) ∧
    reads [0x6A081E00] (.chunk false 8 30) ∧ reads [0x6B000000, 0x7FFFFFC0] (.waitc false 0 63 63 63) ∧ reads [0x6B000000, 0x7FFC0FFF] (.waitc false 63 63 0 63) ∧
    reads [0x6B000402, 0x7F000008] (.prefL2 false 4 8) ∧ reads [0x6B000403, 0x7F000002] (.cwb false 4 2) ∧ reads [0x6B000404, 0x7F000002] (.cinv false 4 2) := by decide

theorem decodes_engines :
    reads [0x6C000800, 0x7F00001C, 0x7F000070] (.mmq { tf with tb := 8, ty := 7, btype := 7 }) ∧
    reads [0x6C101804, 0x7F040014, 0x7F000150] (.mmqSp { tf with ta := 16, tb := 24, tc := 4, km := 2, ty := 5, btype := 5 }) ∧
    reads [0x70051600, 0x7F404A00, 0x7F000000] (.bload { tf with ta := 5, tb := 22, nd := 2, cm := 1, ct := 40 }) ∧
    reads [0x6F040400, 0x7F000000, 0x7F000000] (.accz { tf with ta := 4, tb := 4 }) ∧
    reads [0x6F200000, 0x7F000009, 0x7F100000] (.accrd { tf with ta := 32, ty := 2, td := 16 }) ∧
    reads [0x6F200100, 0x7F00000A, 0x7F100000] (.accwr { tf with ta := 32, tb := 1, ty := 2, td := 16 }) ∧
    reads [0x6D140000, 0x7F04A000] (.mwalk false { a2 with aa := 20, cm := 1, ct := 40 }) ∧
    reads [0x6E090000] (.mfence false 9) ∧ reads [0x6E000901] (.mwait false 9) ∧ reads [0x711E0000, 0x7F000000] (.mparam false { a2 with aa := 30 }) ∧
    reads [0x77141800, 0x7F04A000, 0x7F000005] (.gbind { a3 with aa := 20, ab := 24, cm := 1, ct := 40, imm := 5 }) ∧
    reads [0x77141800, 0x7F14A000, 0x7F000002] (.gmask { a3 with aa := 20, ab := 24, cm := 1, ct := 40, imm := 2 }) ∧
    reads [0x77141800, 0x7F24A000, 0x7F000000] (.gmaskDelta { a3 with aa := 20, ab := 24, cm := 1, ct := 40 }) ∧
    reads [0x78141600, 0x7F04A000] (.gstep false { a2 with aa := 20, ab := 22, cm := 1, ct := 40 }) ∧
    reads [0x780A1E28, 0x7F080405] (.gstep false { a2 with aa := 10, ab := 30, ac := 40, cm := 2, ct := 1, fl := 5 }) ∧
    reads [0x78141800, 0x7F14A000] (.gfork false { a2 with aa := 20, ab := 24, cm := 1, ct := 40 }) ∧
    reads [0x78140600, 0x7F24A000] (.groll false { a2 with aa := 20, ab := 6, cm := 1, ct := 40 }) ∧
    reads [0x78140600, 0x7F34A000] (.gcommit false { a2 with aa := 20, ab := 6, cm := 1, ct := 40 }) ∧
    reads [0x78140000, 0x7F44A000] (.gfree false { a2 with aa := 20, cm := 1, ct := 40 }) := by decide

theorem decodes_synchronisation :
    reads [0x72000000, 0x7F000012] (.fence false 2 2) ∧ reads [0x72000001, 0x7F000003] (.join false 3) ∧ reads [0x72000002, 0x7F000000] (.leave false) ∧
    reads [0x73040000, 0x7F000000] (.barr false 4 0 0 0) ∧ reads [0x73040600, 0x7F000015] (.barr false 4 6 1 5) ∧
    reads [0x73040602, 0x7F00000B] (.barrw false 4 6 3 2) ∧ reads [0x73000401, 0x7F000015] (.bwait false 4 1 5) ∧ reads [0x73000003, 0x7F010015] (.barOld false 5 256) ∧
    reads [0x74000200, 0x7F000001] (.binit false 2 1) ∧ reads [0x74000201, 0x7F000000] (.bfree false 2) ∧ reads [0x74030202, 0x7F000000] (.sarr false 3 2) ∧
    reads [0x74040203, 0x7F000003] (.swait false 4 2 3) ∧ reads [0x75050000, 0x7F000280] (.semacq false 5 0 0 true 2) ∧
    reads [0x75000001, 0x7F000380] (.semadd false 0 0 true 3) ∧ reads [0x75070901, 0x7F000042] (.semaddW false 7 9 2 false 0) := by decide

theorem decodes_system :
    reads [0x79000C05] (.trap 3 5) ∧ reads [0x79042001] (.ecall 8 1) ∧ reads [0x79082400] (.sleep 9 false) ∧ reads [0x79082401] (.sleep 9 true) ∧
    reads [0x7A000000] .rte ∧ reads [0x7D000000] .exit ∧ reads [0x7C000000, 0x7F000000] (.will false a2) ∧
    reads [0x7C060000, 0x7F000005] (.will false { a2 with aa := 6, fl := 5 }) ∧ reads [0x7C061402, 0x7F10000A] (.claim false { a2 with aa := 6, ab := 20, ac := 2, fl := 10 }) ∧
    reads [0x7C28080A, 0x7F200000] (.eprobe false { a2 with aa := 40, ab := 8, ac := 10 }) := by decide

/-- The refusals of the encoding chapter's table. -/
theorem decodes_refusals :
    decodeWords true [] [0x00000000] = .illegalOpcode ∧ decodeWords true [] [0x7F000000] = .illegalOpcode ∧
    decodeWords true [] [0x21F00000] = .illegalEncoding ∧ decodeWords true [] [0x01000001] = .illegalEncoding ∧
    decodeWords true [] [0x3B010203, 0x7F043780] = .illegalEncoding ∧ decodeWords false [] [0x53000000, 0x7F000100] = .illegalOpcode ∧
    decodeWords true [] [0x19020701, 0x7F000BE1] = .illegalEncoding ∧ decodeWords true [] [0x1506 * 65536 + 0x0102] = .illegalEncoding := by decide

/-! ### Ill-formed terms that check 6 of R129 refuses -/

/-- No term of the list is well-formed. -/
def refused (l : List Instr) : Bool := l.all (fun i => !i.wf)

theorem refuses_scalar : refused [.nopHeader 33 0, .nopHeader 0 33, .scmp false 1 2 10 true 0, .scmp false 1 2 0 false 256, .sbfe false 1 2 0 0,
    .sbfeu false 1 2 31 2, .sbfi false 1 2 0 33, .sadd64 false 1 2 true 0, .ssub64 false 2 1 true 0, .smul64 false 2 2 false 3, .sshl64 false 2 2 false 256,
    .sshr64 false 1 2 true 0, .ssra64 false 2 1 true 0, .smov64 false 1 true 0, .smov64 false 2 false 3, .setfmt false 0 0 0, .setfmt false 2 0 0x800000,
    .setfmt false 0 1 0x800000, .setfmt false 0 0 0x800001, .setfmt false 1 0 0x800001, .sget false 1 0x18, .sget false 1 5, .sput false 5 2,
    .sput false 0x10 1] = true := by decide

theorem refuses_control : refused [.bc false 8 0, .callp 1, .kfroms false 1 1, .ktos false 1 1, .spawn 0 1 0, .tnext false 4 0, .hpush false 0 253] = true := by decide

theorem refuses_vector : refused [.vadd false { v4 with ty := 5 }, .vsub false { v4 with ty := 1, nega := true }, .vmul false { v4 with ty := 0, fnx := true },
    .vfma false { v4 with ty := 2, fnx := true }, .vmin false { v4 with fnx := true }, .vmax false v4, .vmulh false { v4 with ty := 2 },
    .vrcp false { v4 with ty := 2, fnx := true }, .vsqrt false { v4 with ty := 2, vb := 1 }, .vrsqrt false { v4 with ty := 2 }, .vlog2 false { v4 with ty := 3 },
    .vexp2 false { v4 with ty := 2, rnd := 1 }, .vand false { v4 with sat := true }, .vor false { v4 with vc := 1 }, .vxor false { v4 with ty := 7 },
    .vshl false { v4 with ty := 1, sat := true }, .vshr false { v4 with fnx := true }, .vsra false v4, .vcmp false { v4 with vd := 16 },
    .vcmp false { v4 with vc := 6 }, .vsel false { v4 with vc := 16 }, .vcvt false { v4 with ty := 15 }, .vcvtLegacy false { v4 with ty := 3 },
    .vpack false { v4 with ty := 7, va := 253 }, .vunpack false { v4 with ty := 7, vd := 255 }, .vperm false { v4 with ty := 1 }, .vred false { v4 with vc := 6 },
    .vscan false { v4 with ty := 2, vc := 3 }, .vredmaxi false { v4 with ty := 2, vd := 255 }, .vtopk false { v4 with ty := 2, vc := 9 },
    .vdot4 false { v4 with ty := 1 }, .vrand false v4, .vclz false { v4 with vc := 1 }, .vpopc false v4, .vbrev false v4, .vrnd false v4] = true := by decide

theorem refuses_vector_scalar : refused [.vaddVs false { vs with fnx := true }, .vsubVs false { vs with ty := 5 }, .vmulVs false { vs with ty := 1, negb := true },
    .vfmaVs false { vs with ty := 11 }, .vminVs false { vs with fnx := true }, .vmaxVs false vs, .vrcpVs false vs, .vsqrtVs false { vs with ty := 2, sb := 1 },
    .vrsqrtVs false { vs with ty := 2 }, .vlog2Vs false vs, .vexp2Vs false { vs with ty := 2, rnd := 1 }, .vandVs false { vs with sat := true },
    .vorVs false { vs with ty := 7 }, .vxorVs false { vs with fnx := true }, .vshlVs false { vs with ty := 1, sat := true }, .vshrVs false { vs with ty := 2 },
    .vsraVs false vs, .vbcast false { vs with ty := 1 }, .vrot false { vs with fnx := true }, .vshup false { vs with sat := true }, .vshdn false { vs with nega := true },
    .vsplat false { vs with va := 1 }] = true := by decide

theorem refuses_memory : refused [.ld false { mf with width := 7 }, .ld false { mf with sbase := 1 }, .ld false { mf with order := 2 }, .st false { mf with width := 5 },
    .st false { mf with order := 1 }, .sld false mf, .sst false { mf with voff := 0xFF, km := 1 }, .sld false { mf with voff := 0xFF, width := 3, vt := 1 },
    .ldp false { mf with cache := 1 }, .stp false { mf with width := 4, vt := 254 }, .lds16 false mf, .ldt { tf with nd := 0 }, .stt { tf with nd := 1, z := true },
    .ldt { tf with nd := 2, tc := 255 }, .cpy a3, .cpy { a3 with cm := 1, ct := 1 }, .cpy { a3 with cm := 1, imm := 4 }, .cpyt { tf with nd := 1, td := 255, cm := 0 },
    .atom false mf, .atom false { mf with width := 2, imm := 0x1E0 }, .hinc false mf, .ldv false mf, .casv false { mf with width := 2, scope := 6 }, .chunk false 1 0,
    .chunk false 0 1, .prefL1 false 0 0, .prefL2 false 1 1, .cwb false 1 1, .cinv false 0 0] = true := by decide

theorem refuses_engines : refused [.mmq { tf with tc := 32 }, .mmqSp { tf with z := true }, .mmq { tf with ty := 15 }, .bload { tf with nd := 1, cm := 0 }, .accz tf,
    .accz { tf with ta := 32, tb := 1 }, .accrd { tf with tb := 32 }, .accrd { tf with ty := 15 }, .accwr { tf with z := true }, .mwalk false a2,
    .mwalk false { a2 with aa := 1, cm := 1 }, .mparam false { a2 with cm := 1 }, .gbind { a3 with cm := 1, imm := 0x10000 }, .gmask { a3 with cm := 1, aa := 1 },
    .gmaskDelta { a3 with cm := 3 }, .gstep false a2, .groll false { a2 with cm := 1, ct := 1 }, .gcommit false { a2 with cm := 1, scope := 1 },
    .gfork false { a2 with cm := 1, ab := 1 }, .gfree false { a2 with cm := 1, ab := 2 }, .will false { a2 with aa := 2 }, .claim false a2,
    .claim false { a2 with ac := 33 }, .eprobe false { a2 with aa := 4 }] = true := by decide

theorem refuses_synchronisation : refused [.fence false 0 0, .fence false 1 6, .barr false 0 0 0 1, .barr false 0 1 0 0, .barrw false 0 0 2 32, .bwait false 0 3 16,
    .barOld false 0 0, .binit false 0 0, .semacq false 0 1 0 true 0, .semadd false 0 0 false 1, .semaddW false 0 1 0 true 1, .ecall 249 0,
    .ckpt 241 0 0 0, .ckpt 0 57 0 0] = true := by decide

/-- A word whose OP the map reserves counts for no pipe in the group before it (R112, R127); type 14 permits what each form's row gives
(R210), and R182's exceptions are for type 13 alone. -/
theorem decodes_reserved_and_emulated : decodeWords false [] [0x82030102, 0x00000000] = .ok (.sadd true 3 1 2) 1 ∧
    Sys2Proof.Instr.wf (.vadd false { v4 with ty := 14, sat := true }) = true ∧ Sys2Proof.Instr.wf (.vrsqrt false { v4 with ty := 14, fnx := true }) = true ∧
    Sys2Proof.Instr.wf (.vand false { v4 with ty := 14, nega := true }) = false ∧ Sys2Proof.Instr.wf (.vcvt false { v4 with ty := 13, nega := true }) = true ∧
    Sys2Proof.Instr.wf (.vbcast false { vs with ty := 14, nega := true }) = false := by decide

/-- The check value of the T10 DIF code: that of the characters 1 to 9 (the published catalogue of such codes). -/
theorem test_crc16 : crc16 ((List.range 9).map (fun i => BitVec.ofNat 8 (0x31 + i))) = 0xD0DB := by decide +kernel

/-! ### Witnesses: states and operands that meet the hypotheses of each statement -/

theorem witness_ScalarArithmeticResults : (dev wave).issuing = some wave ∧ 2 ≤ 2 ∧ 2 ≤ 20 ∧ 20 ≤ 20 := ⟨issuing _ _, by decide⟩

theorem witness_ScalarMoveCompareBitResults : (dev wave).issuing = some wave ∧ (9 : BitVec 4).toNat < 10 ∧ 1 ≤ (32 : BitVec 6).toNat ∧
    (0 : BitVec 5).toNat + (32 : BitVec 6).toNat ≤ 32 ∧ (31 : BitVec 5).toNat + (1 : BitVec 6).toNat ≤ 32 ∧ (5 : Word) ≠ 0 ∧ 6 < 7 := ⟨issuing _ _, by decide⟩

/-- Encodings of bit fields and compares at the edges of their conditions. -/
theorem witness_ScalarMoveCompareBitResults_words : (2 : R8).toNat ≤ 2 ∧
    (let imm : Nat := (0x400 : BitVec 24).toNat; 1 ≤ imm / 32 % 64 ∧ imm % 32 + imm / 32 % 64 ≤ 32 ∧ imm / 2048 = 0) ∧
    (let imm : Nat := (0x05F : BitVec 24).toNat; ¬ (1 ≤ imm / 32 % 64 ∧ imm % 32 + imm / 32 % 64 ≤ 32 ∧ imm / 2048 = 0)) ∧
    (let imm : Nat := (0xC00 : BitVec 24).toNat; ¬ (1 ≤ imm / 32 % 64 ∧ imm % 32 + imm / 32 % 64 ≤ 32 ∧ imm / 2048 = 0)) ∧
    10 ≤ (10 : R8).toNat % 16 ∧ (25 : R8).toNat % 16 < 10 ∧ ((25 : R8).toNat / 32 = 0 ∧ (25 : R8).toNat / 16 = 1) ∧ ¬ ((41 : R8).toNat / 32 = 0) ∧
    ¬ ((9 : R8).toNat / 16 = 1 ∨ (0x100 : BitVec 24).toNat / 256 = 0) := by decide

theorem witness_SselChoosesByT : (dev wave).issuing = some wave := issuing _ _
theorem witness_SpecialRegisterResults : (dev wave).issuing = some wave := issuing _ _

theorem witness_SetfmtWritesFields : (dev wave).issuing = some wave ∧ ((0x400000 + 0xFFFF : BitVec 24).getLsbD 22 = true ∧ fmtControlOk 0xFFFF = false) ∧
    fmtControlOk 0x277 = true ∧ ((2 ^ 26 : Word).toNat / 2 ^ 26 ≠ 0) := ⟨issuing _ _, by decide⟩

theorem witness_ScalarFormsFrame : ∃ t, (dev wave).issuing = some wave ∧ scalarDests (.sadd false 1 2 3) = some [1] ∧
    exec (.sadd false 1 2 3) (dev wave) = .next t := ⟨_, issuing _ _, rfl, rfl⟩

def masked : Wave := { wave with k := [(1, 1)] }
theorem witness_BranchResults : (dev masked).issuing = some masked ∧ masked.xfer = none ∧ (7 : BitVec 4).toNat < 8 ∧ (masked.rk 2 &&& masked.exec = 0) ∧
    (masked.rk 0 &&& masked.exec ≠ 0 ∧ masked.rk 0 &&& masked.exec = masked.exec) ∧ (masked.rk 1 &&& masked.exec ≠ 0 ∧ masked.rk 1 &&& masked.exec ≠ masked.exec) :=
  ⟨issuing _ _, by decide⟩

/-- A header word at address 0 that declares no budget and no masks. -/
def calls (n : Nat) (e : CallEntry) : Wave := { wave with callStack := List.replicate n e, maskStack := [⟨0, 0⟩, ⟨5, 7⟩] }
def plainEntry : CallEntry := { ra := 12, save := none }
def headed (w : Wave) : State := devWith w [(0, toBytes 4 0x01A00000)]
theorem witness_CallResults : (headed (calls 63 plainEntry)).issuing = some (calls 63 plainEntry) ∧ (headed (calls 64 plainEntry)).issuing = some (calls 64 plainEntry) ∧
    (headed wave).codeWord wave (packetAt wave.pc 0).toNat = .word 0x01A00000 ∧ headerOf 0x01A00000 = some (0, 0) ∧ (calls 63 plainEntry).maskStack.length + 0 ≤ 32 ∧
    (calls 63 plainEntry).callStack.length < 64 ∧ 64 ≤ (calls 64 plainEntry).callStack.length ∧ inWindows wave 7 ∧ ({ wave with exec := 0 } : Wave).exec = 0 ∧
    lowestLane wave.exec = some 0 ∧ wave.exec ≠ 0 ∧
    (pairOf (laneOf ((headed wave).readV wave 6) 0) (laneOf ((headed wave).readV wave 7) 0)).toNat % 12 = 0 ∧ wave.maskStack.length + 2 + 0 ≤ 32 := by
  refine ⟨issuing _ _, issuing _ _, ?_, ?_, ?_, ?_, ?_, windows 7 (by decide), ?_, ?_, ?_, ?_, ?_⟩ <;> decide

theorem witness_RetResults : (dev wave).issuing = some wave ∧ wave.callStack = [] ∧ (dev (calls 1 plainEntry)).issuing = some (calls 1 plainEntry) ∧
    (calls 1 plainEntry).callStack = plainEntry :: [] ∧ plainEntry.save = none ∧ plainEntry.ra &&& 3 = 0 ∧
    (calls 1 { ra := 13, save := none }).callStack = ({ ra := 13, save := none } : CallEntry) :: [] ∧ (13 : DWord) &&& 3 = 1 ∧
    (calls 1 { ra := 13, save := none }).maskStack = (⟨0, 0⟩ : MaskEntry) :: ⟨5, 7⟩ :: [] := ⟨issuing _ _, rfl, issuing _ _, by decide⟩

def deep (n : Nat) : Wave := { wave with maskStack := List.replicate n ⟨5, 7⟩ }
theorem witness_MaskOperationResults : (dev (deep 31)).issuing = some (deep 31) ∧ (maskOp (.kand false 1 2 3)).isSome = true ∧ (1 : K4) ≠ 0 ∧
    (deep 31).maskStack.length < 32 ∧ 32 ≤ (deep 32).maskStack.length ∧ (deep 1).maskStack = (⟨5, 7⟩ : MaskEntry) :: [] ∧ (deep 0).maskStack = [] :=
  ⟨issuing _ _, by decide⟩

theorem witness_VectorArithmeticResults : ∃ f, (dev wave).issuing = some wave ∧ laneForm (.vadd false v4) = some f ∧ emulated f.p.ty = false ∧
    ∀ n ∈ f.p.vd.toNat :: f.srcs, inWindows wave n := ⟨_, issuing _ _, rfl, rfl, fun n h => windows n (by revert n; decide)⟩

theorem witness_VectorScalarResults : ∃ f, (dev wave).issuing = some wave ∧ scalarLaneForm (.vaddVs false vs) = some f ∧ emulated f.p.ty = false ∧
    inWindows wave f.p.vd.toNat ∧ inWindows wave f.p.va.toNat ∧ inWindows wave 255 :=
  ⟨_, issuing _ _, rfl, rfl, windows _ (by decide), windows _ (by decide), windows _ (by decide)⟩

theorem witness_VectorArithmeticResults_plain : plainI32 v4 := by unfold plainI32; decide

def f32 : FloatType := { eb := 8, mb := 23, nan := 0x7FC00000 }
/-- NaN, +∞, −∞, 1, −2, 2^-149, +0 and −0 of f32, and an i8 form. -/
theorem witness_VectorArithmeticResults_values : floatType ({ v4 with ty := 2 } : V4).ty.toNat = some f32 ∧ Claims.plain { v4 with ty := 2 } ∧ f32.isNan 0x7FC00000 ∧
    f32.isInf 0x7F800000 ∧ f32.isInf 0xFF800000 ∧ f32.sign 0xFF800000 = true ∧ f32.sign 0x7F800000 = false ∧ f32.isFinite 0x3F800000 ∧ f32.isFinite 0xC0000000 ∧
    f32.sign 0xC0000000 = true ∧ f32.units 0x3F800000 = 2 ^ 149 ∧ f32.value 0xC0000000 = -2 * 2 ^ 149 ∧ f32.below 0xC0000000 0x3F800000 ∧ f32.below 0x80000000 0 ∧
    f32.isFinite 0 ∧ f32.units 0 = 0 ∧ f32.units 1 = 1 ∧ intType ({ v4 with ty := 7 } : V4).ty.toNat = some (8, true) ∧ Claims.plain { v4 with ty := 7 } ∧ (7 : Word).toNat < 8 ∧
    8 ≤ (8 : Word).toNat ∧ (5 : Word) ≠ 0 := by
  simp only [FloatType.isNan, FloatType.isInf, FloatType.isFinite, FloatType.below, Claims.plain]
  decide +kernel

theorem witness_VectorSelectPackConvertResults : (dev wave).issuing = some wave ∧ emulated v4.ty = false ∧ (∀ n, n < 256 → inWindows wave n) ∧ (248 : R8).toNat + 8 ≤ 256 ∧
    (252 : R8).toNat + 4 ≤ 256 ∧ tyBits ({ v4 with ty := 7 } : V4).ty.toNat = 8 ∧ tyBits ({ v4 with ty := 3 } : V4).ty.toNat = 16 ∧ v4.srcTy ≠ 13 ∧ v4.srcTy ≠ 14 ∧
    v4.fnx = false ∧ (v4.ty = 0 ∨ v4.ty = 1) ∧ v4.sat = false ∧ wave.fmt.toNat % 16 = 7 ∧ wave.fmt.toNat / 16 % 16 = 7 ∧ wave.desc.permits = true ∧
    (v4.vd.toNat + 1) % 16 ≠ 0 := ⟨issuing _ _, by decide, windows, by decide⟩

theorem witness_VectorFormsComplete : (dev wave).issuing = some wave ∧ emulated v4.ty = false ∧ (∀ n, n < 256 → inWindows wave n) ∧ (239 : R8).toNat + 17 ≤ 256 ∧
    (248 : R8).toNat + 8 ≤ 256 ∧ tyBits ({ v4 with ty := 11 } : V4).ty.toNat = 4 ∧ v4.srcTy ≠ 13 ∧ v4.srcTy ≠ 14 ∧
    dotTypesOk v4.ty.toNat (wave.fmt.toNat % 16) (wave.fmt.toNat / 16 % 16) = true ∧ wave.desc.permits = true ∧ ({ v4 with vc := 8 } : V4).vc.toNat % 16 ≤ 8 ∧
    emulated vs.ty = false := ⟨issuing _ _, by decide, windows, by decide⟩

/-- Register v0 holds NaNs. -/
def nans : State := (dev wave).writeV 0 0 (BitVec.allOnes 64) (List.replicate 64 0x7FC00000)
theorem witness_VectorReductionResults : nans.issuing = some wave ∧ (∀ n, n < 256 → inWindows wave n) ∧ (223 : R8).toNat + 33 ≤ 256 ∧ plainI32 v4 ∧ v4.vc = 0 ∧
    wave.active v4.km.toNat ≠ 0 ∧ (∀ l ∈ lanesOf (wave.active v4.km.toNat), (laneFloat 2 (laneOf (nans.readV wave v4.va.toNat) l)).isNan = true) ∧
    1 ≤ ({ v4 with ty := 2, fnx := true, vc := 8 } : V4).vc.toNat % 16 ∧ windowsApart wave := by
  refine ⟨rfl, windows, by decide, witness_VectorArithmeticResults_plain, rfl, by decide, by decide, by decide, Or.inl (by decide)⟩

def parkedOn (i : Instr) : Wave := { wave with life := .parked (.emulate i) }
def emulating (ty : BitVec 4) : Wave := parkedOn (.vadd false { v4 with ty := ty })
theorem witness_EmulatedFormsParkAndComplete (i : Instr) : (dev wave).issuing = some wave ∧ vectorTypes (.vred false { v4 with ty := 14 }) = some (14, 14) ∧
    vectorTypes (.vcvtLegacy false { v4 with vc := 13 }) = some (0, 13) ∧ emulated 14 = true ∧ emulated 13 = true ∧ wave.desc.permits = true ∧
    emulated ({ tf with ty := 13 } : TF).ty = true ∧ emulated ({ tf with btype := 14 } : TF).btype = true ∧
    (State.at (dev (parkedOn i)) {}).wave? 0 = some (parkedOn i) ∧ (parkedOn i).life = .parked (.emulate i) ∧ (∀ n, n < 256 → inWindows (parkedOn i) n) ∧
    listed64 (.vred false { v4 with ty := 13 }) = false ∧ listed64 (.vadd false { v4 with ty := 14 }) = false ∧
    listed64 (.vmul false { v4 with ty := 13, vb := 255 }) = true ∧ (∃ n ∈ pairs64 (.vmul false { v4 with ty := 13, vb := 255 }), n % 2 = 1) :=
  ⟨issuing _ _, by decide, by decide, by decide, by decide, by decide, by decide, by decide, rfl, rfl, windows, by decide⟩

/-- Each listed form on even registers, and the conversions. -/
theorem witness_EmulatedFormsParkAndComplete_forms : (∀ i ∈ [Instr.vadd false { v4 with ty := 13 }, .vsub false { v4 with ty := 13 }, .vmul false { v4 with ty := 13 },
      .vfma false { v4 with ty := 13 }, .vmin false { v4 with ty := 13 }, .vmax false { v4 with ty := 13, fnx := true }, .vsqrt false { v4 with ty := 13 }],
      listed64 i = true ∧ (∀ n ∈ pairs64 i, n % 2 = 0) ∧ (arith64 i).isSome = true) ∧
    (∀ i ∈ [Instr.vcmp false { v4 with ty := 13, vd := 3 }, .vcmp false { v4 with ty := 13 }, .vcvt false { v4 with ty := 13, vc := 13 }, .vcvt false { v4 with ty := 13, vc := 2, va := 1 },
      .vcvt false { v4 with ty := 13, vc := 0 }, .vcvt false { v4 with ty := 13, vc := 1 }, .vcvt false { v4 with ty := 2, vc := 13, vd := 1 }, .vcvt false { v4 with vc := 13 },
      .vcvt false { v4 with ty := 1, vc := 13 }], listed64 i = true ∧ ∀ n ∈ pairs64 i, n % 2 = 0) := by decide

/-! Memory -/

def pv (w : Wave) : Wave := { w with space := { fn := 0, pv := true, pasid := 9 } }
theorem witness_AccessResolutionOrder : (2 ^ 57 ≤ 2 ^ 57) ∧ 2 ^ 57 - 1 < 2 ^ 57 ∧ 3 % 4 ≠ 0 ∧ (dev wave).translate wave.view (2 ^ 32) = .invalid ∧
    (dev wave).translate { (pv wave).view with refused := [1] } 0x1000 = .failed ∧
    ({ dev wave with atsFailed := [(9, 1)] } : State).translate (cpView (pv wave).space 0) 0x1000 = .failed ∧ (dev wave).translate wave.view (2 ^ 30) = .outside ∧
    (dev wave).translate wave.view (2 ^ 31) = .ok { pa := 0, w := false, x := false, nol1 := false, pin := false } ∧
    (dev wave).translate (pv wave).view 0x1000 = .miss 1 ∧ (dev wave).translate wave.view (2 ^ 30 - 4) = .ok (pageAt (2 ^ 30 - 4)) ∧ (63 < 64) := by decide

/-- Scalar pair s2:s3 holds an address. -/
def pointing (w : Wave) (a : Nat) : Wave := (w.setS 2 (BitVec.ofNat 32 a)).setS 3 (BitVec.ofNat 32 (a / 2 ^ 32))
def mfs : MF := { mf with sbase := 2, voff := 0xFF, width := 2 }
def ptr : Wave := pointing wave 0x1007C
def rawPage : Page := { pa := 0x1007C, w := true, x := true, nol1 := true, pin := false }

theorem witness_ScalarLoadStoreResults : (dev ptr).issuing = some ptr ∧
    Plain (dev ptr) ptr (globalAddr ptr ((dev ptr).readV ptr) mfs (MF.disp mfs) 0) (MF.size mfs) true (pageAt 0x1007C) ∧ mfs.order ≠ 2 ∧ (pageAt 0).nol1 = false ∧ ((dev ptr).l1.filter (fun x => x.core == ptr.core)).length < 2048 ∧
    Plain (dev (pointing wave (0x1007C + 3 * 2 ^ 30))) (pointing wave (0x1007C + 3 * 2 ^ 30))
      (globalAddr (pointing wave (0x1007C + 3 * 2 ^ 30)) ((dev wave).readV wave) mfs (MF.disp mfs) 0) (MF.size mfs) true rawPage :=
  ⟨issuing _ _, ⟨by decide, by decide, by decide, by decide, by decide, by decide, by decide, by decide⟩, by decide, rfl, by decide,
    ⟨by decide, by decide, by decide, by decide, by decide, by decide, by decide, by decide⟩⟩
/-! Lane and tile accesses -/

def accsOf : Resolved → List Acc
  | .ok a => a
  | _ => []
def ksOf : Trap ⊕ List (Nat × Nat × Nat) → List (Nat × Nat × Nat)
  | .inr k => k
  | _ => []
/-- The device after a record is read, and its bytes. -/
def recState (s : State) : RecordRead → State
  | .ok t _ => t
  | _ => s
def recBytes : RecordRead → Option (List Byte)
  | .ok _ b => some b
  | _ => none
theorem recOk (s : State) {r : RecordRead} {b : List Byte} (h : recBytes r = some b) : r = .ok (recState s r) b := by
  cases r <;> simp_all [recBytes, recState]

def laneMf : MF := { mf with vt := 252, sbase := 2, voff := 0xFF, width := 4 }
def wide : Wave := pointing wave 0x10070
def wideAccs (write : Bool) : Resolved :=
  (dev wide).resolve wide.view ((lanesOf (wide.active 0)).map (fun l => (l, globalAddr wide ((dev wide).readV wide) laneMf (MF.disp laneMf) l)))
    (MF.size laneMf) write noDeny
def spadKs (n : Nat) : Trap ⊕ List (Nat × Nat × Nat) :=
  (dev wave).spadLanes wave ((lanesOf (wave.active 0)).map (fun l => (l, spadAddr wave ((dev wave).readV wave) laneMf (MF.disp laneMf) l))) n
theorem witness_LaneLoadResults : (dev wide).issuing = some wide ∧ (∀ n, n < 256 → inWindows wide n) ∧ laneMf.vt.toNat + 4 ≤ 256 ∧
    wideAccs false = .ok (accsOf (wideAccs false)) ∧ (dev wide).loadBlocked wide.core (MF.size laneMf) laneMf.order (accsOf (wideAccs false)) = false ∧
    (dev wide).poisonTrap wide.core (accsOf (wideAccs false)) = none ∧ (dev wave).issuing = some wave ∧ spadKs (MF.size laneMf) = .inr (ksOf (spadKs (MF.size laneMf))) ∧
    (dev wave).spadPoisonTrap (MF.size laneMf) (ksOf (spadKs (MF.size laneMf))) = none ∧ laneMf.voff = 0xFF ∧
    (dev wave).spadLanes wave ((lanesOf (wave.active 0)).map (fun l =>
      (l, (((wave.rs laneMf.sbase.toNat).toNat + 2 * l + laneMf.imm.toInt : Int) % 2 ^ 32).toNat / 2 * 2))) 1 =
      .inr ((lanesOf (wave.active 0)).map (fun l => (l, 2 * l, 2 * l))) :=
  ⟨issuing _ _, windows, by decide +kernel, by decide +kernel, by decide +kernel, by decide +kernel, issuing _ _, by decide +kernel⟩

/-- `lds16` with a register of offsets. -/
def offKs : Trap ⊕ List (Nat × Nat × Nat) :=
  (dev wave).spadLanes wave ((lanesOf (wave.active 0)).map (fun l => (l, (((wave.rs 2).toNat + 2 * (laneOf ((dev wave).readV wave 0) l).toInt + 4 : Int) % 2 ^ 32).toNat / 2 * 2))) 1
theorem witness_LaneLoadResults_offsets : ({ laneMf with voff := 0, imm := 4 } : MF).voff ≠ 0xFF ∧ ({ laneMf with voff := 0, imm := 4 } : MF).imm.toInt = 4 ∧
    offKs = .inr (ksOf offKs) ∧ (ksOf offKs).length = 64 ∧ (dev wave).spadPoisonTrap 16 (ksOf offKs) = none := by decide +kernel

/-- Conditions on the accesses of a lane store beside those below. -/
theorem witness_LaneStoreResults_views : (∀ e ∈ accsOf (wideAccs true), e.page.nol1 = false) ∧ (accsOf (wideAccs true)).length = 64 ∧
    ((dev wide).l1.filter (fun x => x.core == wide.core)).length + (accsOf (wideAccs true)).length ≤ 2048 ∧ (∀ e ∈ accsOf (wideAccs true), e.page.pa % 128 + 16 ≤ 128) ∧
    (accsOf (wideAccs true)).all (fun e => !isPeerPa e.page.pa) = true := by decide +kernel

theorem witness_LaneStoreResults : (dev wide).issuing = some wide ∧ wideAccs true = .ok (accsOf (wideAccs true)) ∧
    (dev wide).writeBlocked wide 0 (accsOf (wideAccs true)) = false ∧ laneMf.order ≠ 2 ∧ spadKs (MF.size laneMf) = .inr (ksOf (spadKs (MF.size laneMf))) ∧
    (dev wave).clobberTrap (MF.size laneMf) (ksOf (spadKs (MF.size laneMf))) = none ∧ (ksOf (spadKs (MF.size laneMf))).getLast? = some (63, 1008, 1008) :=
  ⟨issuing _ _, by decide +kernel⟩

/-- An i8 record of one dimension of 64 elements at 0x20000, in memory or in scratchpad from 0. -/
def rowBytes (sp : Bool) : List Byte :=
  toBytes 128 ((if sp then 2 ^ 84 else 0x20000) + 7 * 2 ^ 64 + 2 ^ 68 + 63 * 2 ^ 128 + 64 * 2 ^ 192)
def atRec : Wave := pointing wave 0x10000
def recDev (bytes : List Byte) : State := devWith atRec [(0x10000, bytes)]
def tfRow : TF := { tf with ta := 4, tb := 2, tc := 8, nd := 1 }
def readRow (sp : Bool) : State × LayoutRead := (recDev (rowBytes sp)).readLayout atRec (atRec.pair 2).toNat (some 1) false
def row (sp : Bool) : Layout := parseLayout (rowBytes sp)
def rowEls (sp : Bool) : List (Nat × Nat × Nat) := tileElements (row sp) (atRec.coords 8 1) (atRec.active 0)

def rowKs : Trap ⊕ List (Nat × Nat × Nat) := (readRow true).1.spadLanes atRec ((rowEls true).map (fun e => (e.2.1, e.2.2))) 1
def rowAccs : Resolved := (readRow false).1.resolve atRec.view ((rowEls false).map (fun e => e.2)) 1 true noDeny
theorem witness_TileLoadStoreResults : (recDev (rowBytes true)).issuing = some atRec ∧ (readRow true).2 = .ok (row true) ∧ (readRow false).2 = .ok (row false) ∧
    (row true).count ≤ 2048 ∧ tfRow.ta.toNat + tileRegs (row true) ≤ 256 ∧ (row true).ty ≠ 11 ∧ (row true).sp = true ∧ (row false).sp = false ∧
    rowKs = .inr (ksOf rowKs) ∧ (readRow true).1.spadPoisonTrap 1 (ksOf rowKs) = none ∧ (readRow true).1.clobberTrap 1 (ksOf rowKs) = none ∧ (ksOf rowKs).length = 64 ∧
    rowAccs = .ok (accsOf rowAccs) ∧ (readRow false).1.writeBlocked atRec 0 (accsOf rowAccs) = false ∧ (readRow false).1.loadBlocked atRec.core 1 0 (accsOf rowAccs) = false ∧
    (readRow false).1.poisonTrap atRec.core (accsOf rowAccs) = none := ⟨issuing _ _, by decide +kernel⟩

theorem witness_TileLoadStoreResults_views : (∀ e ∈ accsOf rowAccs, e.page.nol1 = false) ∧ (accsOf rowAccs).length = 64 ∧
    ((readRow false).1.l1.filter (fun x => x.core == atRec.core)).length + (accsOf rowAccs).length ≤ 2048 ∧ (∀ e ∈ accsOf rowAccs, e.page.pa % 128 + 1 ≤ 128) := by decide +kernel

/-- One lane active. -/
def one (w : Wave) : Wave := { w with exec := 1 }
def atomMf : MF := { mf with vt := 252, sbase := 2, voff := 0xFF, width := 3, imm := 0x10 + 9 * 32 }
theorem witness_AtomicResults : (dev (one (pointing wave 0x10078))).issuing = some (one (pointing wave 0x10078)) ∧ (∀ n, n < 256 → inWindows (one (pointing wave 0x10078)) n) ∧
    atomMf.vt.toNat + 4 ≤ 256 ∧ lanesOf ((one (pointing wave 0x10078)).active atomMf.km.toNat) = [0] ∧ atomMf.aSp = false ∧ atomMf.aRa = false ∧ atomMf.order = 0 ∧
    atomMf.aop.toNat ≤ 11 ∧ atomMf.aop.toNat ≠ 10 ∧ (atomMf.width = 2 ∨ atomMf.width = 3) ∧ atomMf.aRet = true ∧
    Plain (dev (one (pointing wave 0x10078))) (one (pointing wave 0x10078))
      (globalAddr (one (pointing wave 0x10078)) ((dev wave).readV wave) atomMf 0 0) (MF.size atomMf) true (pageAt 0x10078) :=
  ⟨issuing _ _, windows, by decide +kernel, by decide +kernel, by decide +kernel, by decide +kernel, by decide +kernel, by decide +kernel, by decide +kernel, by decide +kernel, by decide +kernel,
    ⟨by decide +kernel, by decide +kernel, by decide +kernel, by decide +kernel, by decide +kernel, by decide +kernel, by decide +kernel, by decide +kernel⟩⟩

theorem witness_AtomicResults_sums : (2 ^ 32 - 1 < 2 ^ 32) ∧ 0 < ([⟨0, 5, 0⟩] : List AtomLane).length := by decide +kernel

/-- A chunk record: next 2, end 10, one participant, least 3. -/
def chunkDev (next : Nat) : State := devWith atRec [(0x10000, toBytes 8 next ++ toBytes 8 10 ++ toBytes 4 1 ++ toBytes 4 3)]
/-- A histogram record of 4 bins at 0x20000 with no cards. -/
def histBytes : List Byte := toBytes 128 (0x20000 + 4 * 2 ^ 64)
def hincMf : MF := { mf with vt := 4, sbase := 2, voff := 0xFF, width := 2 }
def histDev : State := devWith (one atRec) [(0x10000, histBytes)]
def histRead : RecordRead := histDev.readRecord (one atRec) ((one atRec).pair hincMf.sbase.toNat).toNat 128 128 denyPeer
theorem witness_ChunkResults : (chunkDev 2).issuing = some atRec ∧ Plain (chunkDev 2) atRec (atRec.pair 2).toNat 32 true (pageAt 0x10000) ∧
    leNat ((chunkDev 2).homeBytes 0x10000 8) = 2 ∧ leNat ((chunkDev 10).homeBytes 0x10000 8) = 10 ∧
    Plain (chunkDev 10) atRec (atRec.pair 2).toNat 32 true (pageAt 0x10000) ∧ histDev.issuing = some (one atRec) ∧ lanesOf ((one atRec).active hincMf.km.toNat) = [0] ∧
    histRead = .ok (recState histDev histRead) histBytes ∧ parseHist histBytes = some (0x20000, 4, 0, 0) ∧
    (laneOf (histDev.readV (one atRec) hincMf.vt.toNat) 0).toNat < 4 ∧ Plain (recState histDev histRead) (one atRec) (0x20000 + 4 * 0) 4 true (pageAt 0x20000) :=
  ⟨issuing _ _, ⟨by decide +kernel, by decide +kernel, by decide +kernel, by decide +kernel, by decide +kernel, by decide +kernel, by decide +kernel, by decide +kernel⟩, by decide +kernel, by decide +kernel,
    ⟨by decide +kernel, by decide +kernel, by decide +kernel, by decide +kernel, by decide +kernel, by decide +kernel, by decide +kernel, by decide +kernel⟩, issuing _ _, by decide +kernel, recOk _ (by decide +kernel), by decide +kernel, by decide +kernel,
    ⟨by decide +kernel, by decide +kernel, by decide +kernel, by decide +kernel, by decide +kernel, by decide +kernel, by decide +kernel, by decide +kernel⟩⟩

def verMf : MF := { mf with vt := 250, sbase := 2, voff := 0xFF, width := 2 }
/-- A read set of one entry in scratchpad from 0: the address 0x10000 at version 0, the store's address 0x20000. -/
def readSet : State := { dev wave with scratch := memPutAll [] 0 (toBytes 16 (1 + 0x20000 * 2 ^ 64) ++ toBytes 16 0x10000) }
theorem witness_VersionedResults : (dev (one ptr)).issuing = some (one ptr) ∧ verMf.vt.toNat + 6 ≤ 256 ∧ lanesOf ((one ptr).active verMf.km.toNat) = [0] ∧ verMf.order = 0 ∧
    MF.size verMf = 4 * regsOf verMf.width ∧
    Plain (dev (one ptr)) (one ptr) (globalAddr (one ptr) ((dev wave).readV wave) verMf (MF.disp verMf) 0) (4 * regsOf verMf.width) true (pageAt 0x1007C) ∧
    readSet.issuing = some wave ∧ readSet.spadTarget wave 0 = some 0 ∧ readSet.spadTarget wave 16 = some 16 ∧
    leNat (readSet.spadBytes 0 16) = 1 + 0x20000 * 2 ^ 64 ∧ leNat (readSet.spadBytes 16 16) = 0x10000 + 0 * 2 ^ 64 ∧
    (∀ x, kvGet false readSet.spadPoison x = false) ∧ readSet.translate wave.view 0x10000 = .ok (pageAt 0x10000) ∧ readSet.owned (0x10000 / 128) = false ∧
    (readSet.homeTake wave.core (0x10000 / 128)).version (0x10000 / 128) = BitVec.ofNat 48 0 ∧ Plain readSet wave 0x20000 4 true (pageAt 0x20000) ∧
    ((distinct [0x10000 / 128, 0x20000 / 128]).foldl (fun s l => s.homeTake wave.core l) readSet).version (0x10000 / 128) = BitVec.ofNat 48 0 :=
  ⟨issuing _ _, by decide +kernel, by decide +kernel, by decide +kernel, by decide +kernel, ⟨by decide +kernel, by decide +kernel, by decide +kernel, by decide +kernel, by decide +kernel, by decide +kernel, by decide +kernel, by decide +kernel⟩, rfl,
    by decide +kernel, by decide +kernel, by decide +kernel, by decide +kernel, fun _ => rfl, by decide +kernel, by decide +kernel, by decide +kernel,
    ⟨by decide +kernel, by decide +kernel, by decide +kernel, by decide +kernel, by decide +kernel, by decide +kernel, by decide +kernel, by decide +kernel⟩, by decide +kernel⟩

def twoLines : Resolved :=
  (dev ptr).resolve ptr.view ((List.range (2 : Half).toNat).map (fun i => (0, (ptr.pair (2 : R8).toNat).toNat / 128 * 128 + 128 * i))) 1 false noDeny
theorem witness_CacheControlResults : (dev ptr).issuing = some ptr ∧ (dev ptr).holders = [] ∧ twoLines = .ok (accsOf twoLines) ∧
    (∀ g ∈ accsOf twoLines, (dev ptr).owned (g.page.pa / 128) = false) ∧ (dev ptr).classCount ptr.uid .LD ≤ (0 : BitVec 6).toNat ∧ (dev ptr).classCount ptr.uid .ST ≤ (0 : BitVec 6).toNat ∧
    (dev ptr).classCount ptr.uid .CP ≤ (0 : BitVec 6).toNat ∧ (dev ptr).classCount ptr.uid .MM ≤ (0 : BitVec 6).toNat := ⟨issuing _ _, by decide +kernel⟩
/-! Copies, landings, evictions -/

def cpyA : A3 := { a3 with aa := 2, ab := 4, ac := 6, cm := 1, ct := 40 }
def cpyV : A3 := { a3 with aa := 2, ab := 4, ac := 6, cm := 3, ct := 15, fl := 1 }
def boxTf : TF := { tf with ta := 2, tb := 2, tc := 8, td := 8, nd := 1, cm := 1, ct := 40 }
def readTwice : State × LayoutRead := (readRow false).1.readLayout atRec (atRec.pair 2).toNat (some 1) false
theorem witness_CopyIssues : (dev wave).issuing = some wave ∧ wave.completion cpyA.cm cpyA.ct = some (.token 40) ∧ wave.completion cpyV.cm cpyV.ct = some (.semBytes 15) ∧
    cpyV.fl.getLsbD 0 = true ∧ (∀ n, n < 256 → inWindows wave n) ∧ lowestLane (wave.exec &&& wave.rk 0) = some 0 ∧ ({ wave with exec := 0 } : Wave).exec = 0 ∧
    (recDev (rowBytes false)).issuing = some atRec ∧ atRec.completion boxTf.cm boxTf.ct = some (.token 40) ∧ (readRow false).2 = .ok (row false) ∧
    readTwice.2 = .ok (row false) ∧ (row false).ty ≠ 11 ∧ atRec.active boxTf.km.toNat ≠ 0 :=
  ⟨issuing _ _, by decide +kernel, by decide +kernel, by decide +kernel, windows, by decide +kernel, rfl, issuing _ _, by decide +kernel⟩

/-- An operation of the wave in flight. -/
def op (kind : OpKind) (done : Completion) : Op :=
  { id := 0, uid := 0, core := 0, cx := 0, part := 0, launch := 0, space := wave.space, cls := some .LD, pipeA := false, kind := kind, done := done, packet := none,
    owned := [], dropped := false, waits := [], rows := [], pc := 0, pins := [], moved := [], refused := [], spads := [] }
def flying (o : Op) : State := State.at { dev wave with ops := [o], nextOp := 1 } {}
def copyOp (done : Completion) : Op := op (.copy 0x20000 0x10000 128 false false) done
theorem witness_CopyCompletes : (flying (copyOp (.token 40))).op? 0 = some (copyOp (.token 40)) ∧ (flying (copyOp (.token 40))).copyBehind (copyOp (.token 40)) = false ∧
    (flying (copyOp (.token 40))).wave? 0 = some wave ∧ 0 < 128 ∧ EnginePage (flying (copyOp (.token 40))) (copyOp (.token 40)) 0x20000 128 true (pageAt 0x20000) ∧
    EnginePage (flying (copyOp (.token 40))) (copyOp (.token 40)) 0x10000 128 false (pageAt 0x10000) ∧
    (flying (copyOp (.semOne 0))).semWaiters 0 0 (wave.semKey 0) = [] ∧ (flying (copyOp (.semBytes 0))).semWaiters 0 0 (wave.semKey 0) = [] :=
  ⟨by decide +kernel, by decide +kernel, by decide +kernel, by decide, ⟨by decide +kernel, by decide +kernel, by decide +kernel, by decide +kernel, by decide +kernel, by decide +kernel⟩,
    ⟨by decide +kernel, by decide +kernel, by decide +kernel, by decide +kernel, by decide +kernel, by decide +kernel⟩, by decide +kernel⟩

theorem witness_LandingResults_leaving : wave.leaving = false ∧ ({ wave with chosen := true } : Wave).leaving = true ∧
    (flying (copyOp (.token 40))).feeds = [] ∧ (∀ b ∈ (flying (copyOp (.token 40))).blocks, b.pend = []) ∧
    (State.at { dev { wave with chosen := true } with ops := [op (.regs [.s 255 7]) .none] } {}).wave? 0 = some { wave with chosen := true } := by decide +kernel
theorem witness_LandingResults (kind : OpKind) (_ : kind ∈ [OpKind.regs [.s 255 7], .regs [.k 15 1 1], .regs [.v 255 1 zeroV], .store]) :
    (flying (op kind .none)).op? 0 = some (op kind .none) ∧ (flying (op kind .none)).portLost 0 = false ∧ (flying (op kind .none)).wave? 0 = some wave ∧
    (flying (op kind .none)).blocks = [] ∧ inWindows wave 255 := ⟨rfl, rfl, rfl, rfl, windows 255 (by decide)⟩

/-- A dirty L1 line of core 0, a dirty proxy line, and a wave parked for page 3 of its space. -/
def dirty : L1Line := { core := 0, line := 0x200, data := List.replicate 128 7, dirty := 1, filled := true }
def hostLine : ProxyLine := { line := Config.sysBase / 128, data := List.replicate 128 7, dirty := 5, version := 2 ^ 48 - 1 }
def caches : State := { dev wave with l1 := [dirty], proxy := [hostLine] }
def waiting : Wave := { wave with life := .parked (.page { fn := 0, pv := true, pasid := 9 } [3]) }
theorem witness_EvictionAndTranslationEvents : (State.at caches { addr := 0x200 }).l1Find 0 0x200 = some dirty ∧ (State.at caches { addr := 0x200 }).owned 0x200 = false ∧
    (0x200 + 1) * 128 ≤ Config.dramBytes ∧ caches.holders = [] ∧ caches.proxy.find? (fun x => x.line == Config.sysBase / 128) = some hostLine ∧ hostLine.dirty.getLsbD 0 = true ∧ hostLine.dirty.getLsbD 1 = false ∧
    hostLine.data.length = 128 ∧ (State.at (dev waiting) { fn := 9, addr := 3, grant := some ⟨5, true, true⟩ }).input.grant = some ⟨5, true, true⟩ ∧
    (State.at (dev waiting) { fn := 9, addr := 3 }).wave? waiting.uid = some waiting ∧ waiting.life = .parked (.page { fn := 0, pv := true, pasid := 9 } [3]) ∧
    (dev waiting).feeds = [] ∧ (dev waiting).queues = [] ∧ 3 ≤ 0x3FFF / 4096 ∧ 0x3FFF / 4096 < 3 + 1 ∧
    (dev waiting).l1 = [] ∧ waiting.view.refused = [] ∧ waiting.view.cp = false ∧ (State.at (dev waiting) { fn := 9, addr := 3 }).input.grant = none ∧
    (State.at caches { addr := 0x200, slot := 4 }).input.slot ≠ 0 ∧ (∀ o ∈ (dev waiting).ops, o.kind.holdsAddress = false) ∧
    (∀ x ∈ (dev waiting).l1, x.dirty = 0) := by decide +kernel

/-! Synchronisation -/

theorem witness_FenceResults : (dev wave).issuing = some wave ∧ 2 ≤ (4 : BitVec 3).toNat ∧ (4 : BitVec 3).toNat ≤ 4 ∧ caches.issuing = some wave ∧
    caches.l1Find wave.core 0x200 = some dirty ∧ dirty.dirty.getLsbD 0 = true ∧ (1 : BitVec 2).getLsbD 0 = true ∧ (1 : BitVec 2).getLsbD 1 = false :=
  ⟨issuing _ _, by decide +kernel⟩
/-- At system scope, with an acquire and without one. -/
theorem witness_FenceResults_system : caches.issuing = some wave ∧ (2 : BitVec 2).getLsbD 1 = true ∧ (2 : BitVec 2).getLsbD 0 = false ∧
    (3 : BitVec 2).getLsbD 1 = true ∧ (3 : BitVec 2).getLsbD 0 = true ∧ caches.flushHeld wave.core = false ∧ caches.peerWritesOut wave [] = false ∧
    (caches.l1.filter (fun x => x.core == wave.core && x.line == 0x200)).length ≤ 1 ∧ (∀ p ∈ caches.proxy, isSysLine p.line = true) ∧
    (0x200 + 1) * 128 ≤ Config.dramBytes := by decide +kernel

def group3 : GroupKey := wave.cohortKey 3
def cohort (arrived : List Nat) : Cohort := { key := group3, gen := 4, members := [0, 8], arrived := arrived, pendJoin := [], pendLeave := [] }
def other (arrived : List Nat) : State := { dev wave with cohorts := [{ cohort arrived with members := [8] }] }
def member : State := { dev wave with cohorts := [cohort []] }
theorem witness_CohortMembership : member.issuing = some wave ∧ (member.cohorts.any (fun x => x.members.contains wave.uid || x.pendJoin.contains wave.uid) = true) ∧
    (other []).issuing = some wave ∧ ((other []).cohorts.any (fun x => x.members.contains wave.uid || x.pendJoin.contains wave.uid) = false) ∧
    ((other []).cohorts.find? (fun x => x.key == group3)).map (·.arrived) = some [] ∧ ((other [8]).cohorts.find? (fun x => x.key == group3)).map (·.arrived) = some [8] ∧
    (dev wave).cohortOf wave.uid = none ∧ member.cohortOf wave.uid = some (cohort []) ∧ (cohort []).arrived = [] := by decide +kernel

def countWave (n : Word) : Wave := wave.setS 6 n
def cohortDev (n : Word) (arrived : List Nat) : State := { dev (countWave n) with cohorts := [cohort arrived] }
def groups (n : Word) (count expct : Nat) : State := { dev (countWave n) with groups := [{ key := wave.groupKey 1 5, gen := 9, count := count, expct := expct }] }
theorem witness_BarrierGroupResults : (groups 0 0 0).issuing = some (countWave 0) ∧ (countWave 0).life = .ready ∧ (1 : BitVec 2) ≠ 0 ∧ ((countWave 0).rs 6).toNat = 0 ∧
    ((groups 3 1 2).group (wave.groupKey 1 5)).expct ≠ ((countWave 3).rs 6).toNat ∧ ((groups 2 1 2).group (wave.groupKey 1 5)).count + 1 = ((countWave 2).rs 6).toNat ∧
    ((groups 3 1 3).group (wave.groupKey 1 5)).count + 1 ≠ ((countWave 3).rs 6).toNat ∧ ((groups 3 1 3).group (wave.groupKey 1 5)).expct = ((countWave 3).rs 6).toNat ∧
    ((groups 0 0 0).group (wave.groupKey 1 4)).count = 0 ∧ ((groups 8 0 0).group (wave.groupKey 1 5)).gen ≠ (countWave 8).rs 6 ∧
    ((groups 9 0 0).group (wave.groupKey 1 5)).gen = (countWave 9).rs 6 ∧ (groups 2 1 2).flushHeld 0 = false := by decide +kernel
/-- The forms with a fixed count (R339), and the cohort level: a cohort of generation 4, the wave in it or not yet, or last to come. -/
theorem witness_BarrierGroupResults_more : ((groups 0 1 2).group (wave.groupKey 1 5)).expct ≠ (3 : Half).toNat ∧
    ((groups 0 1 2).group (wave.groupKey 1 5)).count + 1 = (2 : Half).toNat ∧ ((groups 0 1 3).group (wave.groupKey 1 5)).count + 1 ≠ (3 : Half).toNat ∧
    (dev wave).cohortOf wave.uid = none ∧ ((cohortDev 4 [8]).cohortOf 0, (cohortDev 4 [8]).cohorts.find? (fun x => x.key == group3)) = (some (cohort [8]), some (cohort [8])) ∧
    (cohort [8]).key.level = 0 ∧ (cohort [8]).gen = (countWave 4).rs 6 ∧ (cohort [8]).gen ≠ (countWave 5).rs 6 ∧ (cohortDev 4 [8]).flushHeld 0 = false ∧
    0 ∈ (cohort [0]).arrived ∧ 0 ∉ (cohort [8]).arrived ∧ (cohort []).members.all (fun u => ((cohort []).arrived ++ [0]).contains u) = false ∧
    (cohort [8]).members.all (fun u => ((cohort [8]).arrived ++ [0]).contains u) = true ∧ 0 ∉ (cohort [8]).pendLeave ∧ (cohortDev 4 [8]).issuing = some (countWave 4) := by
  decide +kernel

/-- The barrier word at 8 with an expected count of 2, one arrival and the last generation but live. -/
def worded (live : Bool) (sb : Word) : State :=
  { dev ((wave.setS 2 8).setS 3 sb) with scratch := memPutAll [] 8 (toBytes 8 (barrierWordOf 0 0xFFFF 2 1)), tags := if live then [(1, true)] else [] }
def wordWave (sb : Word) : Wave := (wave.setS 2 8).setS 3 sb
theorem witness_BarrierWordResults : (worded true 0xFFFF).issuing = some (wordWave 0xFFFF) ∧ (worded false 0).issuing = some (wordWave 0) ∧
    (worded true 0xFFFF).barrierWord (wordWave 0xFFFF) ((wordWave 0xFFFF).rs 2).toNat = .inr 8 ∧ (worded false 0).barrierWord (wordWave 0) ((wordWave 0).rs 2).toNat = .inr 8 ∧
    (worded true 0xFFFF).live 8 = true ∧ (worded false 0).live 8 = false ∧ (worded true 0).wordAt 8 / 2 ^ 32 % 2 ^ 16 = 0xFFFF ∧
    ((wordWave 0xFFFF).rs 3).toNat % 2 ^ 16 = 0xFFFF ∧ ((wordWave 0).rs 3).toNat % 2 ^ 16 ≠ 0xFFFF := by decide +kernel

def sems (v : Word) (w : Wave) : State := { dev w with sems := [(wave.semKey 15, v)] }
def second : Wave := { wave with uid := 7, slot := 127, semBase := 16 }
theorem witness_SemaphoreResults : (sems 3 wave).issuing = some wave ∧ wave.life = .ready ∧ wave.foot.sema ≤ (16 : BitVec 6).toNat ∧ (15 : BitVec 6).toNat < wave.foot.sema ∧
    (sems 3 wave).semWaiters 0 0 (wave.semKey 15) = [] ∧ (3 : Word) ≤ (sems 3 wave).sem (wave.semKey 15) ∧ ¬ (4 : Word) ≤ (sems 3 wave).sem (wave.semKey 15) ∧
    ({ sems 3 wave with waves := [wave, second] } : State).waves.find? (fun y => y.core == wave.core && y.cx == wave.cx && y.slot == 127 && y.life != .preempted && y.life != .restoring) = some second ∧
    (sems 3 wave).waves.find? (fun y => y.core == wave.core && y.cx == wave.cx && y.slot == 127 && y.life != .preempted && y.life != .restoring) = none ∧
    second.launch = wave.launch ∧ 15 < second.foot.sema ∧ (sems 3 wave).semWaiters wave.core wave.cx (second.semKey 15) = [] := by decide +kernel

/-! The matrix engine -/

def mmTf : TF := { tf with ta := 8, tb := 0, tc := 24, ty := 7, btype := 7 }
def batched : Wave := { wave with last := 65535, openOps := [4], batches := [(65535, [4])] }
theorem witness_MatrixMultiplyQueues : (dev wave).issuing = some wave ∧ emulated mmTf.ty = false ∧ combination 7 7 false wave.acct = some (32, 8) ∧
    combination 7 7 true wave.acct = some (32, 5) ∧ mmTf.ta.toNat + 8 ≤ 256 ∧ (∀ n, n < 256 → inWindows wave n) ∧ wave.active mmTf.km.toNat ≠ 0 ∧
    (∀ q, q < 8 → (dev wave).checkQuarter wave mmTf ((dev wave).readV wave) 32 false q ((lanesOf (wave.active 0)).filter (fun l => l / 8 == q)) = .ok) ∧
    ((dev wave).quarters.filter (fun q => q.cc == wave.cc)).length + 8 ≤ 128 ∧
    (dev batched).issuing = some batched ∧ batched.life = .ready ∧ batched.batches.any (fun x => x.1 == 65535) = true ∧ batched.batches.any (fun x => x.1 == 0) = false ∧
    (batched.last + 2 ^ 16 - 65535) % 2 ^ 16 < 2 ^ 15 ∧ wave.batches = [] ∧ (∀ id ∈ wave.openOps, (dev wave).ops.any (fun o => o.id == id) = false) ∧
    (∃ id ∈ ({ wave with openOps := [0] } : Wave).openOps, (flying (op .mmq .none)).ops.any (fun o => o.id == id) = true) := by
  refine ⟨issuing _ _, by decide +kernel, by decide +kernel, by decide +kernel, by decide +kernel, windows, by decide +kernel, fun q h => by interval_cases q <;> rfl,
    by decide +kernel, issuing _ _, by decide +kernel⟩

def quarter : Quarter :=
  { opId := 0, uid := 0, cc := 0, slot := 3, tile := 5, aty := 7, bty := 7, sp := false, acct := 0, rows := [(7, List.replicate 32 0xFF)],
    taken := [(7, List.replicate 32 true)] }
def fullSlot : BSlot := { state := .valid, ty := 7, tag := none, held := none, reload := false, cols := List.replicate 128 (BitVec.allOnes 256), side := [] }
theorem witness_MatrixPassResults : (State.at { dev wave with quarters := [quarter] } {}).tileHeld 0 0 5 = false ∧
    (State.at { dev wave with passes := [(0, [quarter])], bslots := [(3, fullSlot)] } {}).passes = [(0, [quarter])] ∧
    (State.at { dev wave with passes := [(0, [quarter])], bslots := [(3, fullSlot)] } {}).slot 0 3 = fullSlot ∧ fullSlot.cols.length = 128 ∧ 7 < 8 ∧
    (List.replicate 32 0xFF).length = 32 := by decide +kernel

/-- A B record of i8 with a box of 32 by 128, and one of a single element. -/
def bBytes : List Byte := toBytes 128 (0x20000 + 7 * 2 ^ 64 + 2 * 2 ^ 68 + 2 ^ 82 + 31 * 2 ^ 128 + 127 * 2 ^ 136 + 2 ^ 192 + 2 ^ 224 + 32 * 2 ^ 512)
def bLay : Layout := parseLayout bBytes
def unit : Layout := { bLay with box := [1, 1] }
def bTf : TF := { tf with ta := 5, tb := 2, tc := 8, nd := 2, cm := 1, ct := 40 }
def readB : State × LayoutRead := (recDev bBytes).readLayout atRec (atRec.recordAt bTf.tb) (some 2) true
def slotDone : SlotRun → Bool
  | .done .. => true
  | _ => false
def loadOp : Op := op (.bload 5 unit [0, 0]) (.token 40)
def slotRun (s : State) (v : View) (w : Option Wave) : SlotRun := s.runSlot { pins := [], view := v, wave := w, lay := unit, coords := [0, 0] } (s.slot 0 5)
def reloading : State :=
  State.at { dev wave with bslots := [(5, { state := .loading, ty := 7, tag := some (unit, [0, 0], wave.space, 3), held := some (unit, [0, 0], wave.space, 3),
                                            reload := true, cols := [], side := [] })] } { slot := 5 }
theorem witness_SlotLoads : (recDev bBytes).issuing = some atRec ∧ atRec.completion bTf.cm bTf.ct = some (.token 40) ∧ readB.2 = .ok bLay ∧ bloadOk bLay = true ∧
    (atRec.rs bTf.ta.toNat).toNat < 2048 ∧ bLay.ty ≠ 11 ∧ (flying loadOp).op? 0 = some loadOp ∧ (flying loadOp).slotFree 0 0 5 = true ∧
    (∀ y ∈ (flying loadOp).ops, y.id ≤ loadOp.id) ∧ slotDone (slotRun (flying loadOp) loadOp.view (some wave)) = true ∧ (reloading.slot 0 5).reload = true ∧
    (reloading.slot 0 5).held = some (unit, [0, 0], wave.space, 3) ∧ (flying loadOp).reloading 0 5 = false ∧ reloading.ops = [] ∧ 0 / 192 = (reloading.part (reloading.func 0).part).active ∧
    (recDev bBytes).flushHeld 0 = false ∧ (flying loadOp).portLost 0 = false ∧ slotDone (slotRun reloading (cpView wave.space 0) none) = true ∧
    (flying loadOp).ownerLeaves loadOp = false ∧ (flying loadOp).feeds = [] := ⟨issuing _ _, by decide +kernel⟩

def accTf : TF := { tf with ta := 0, tb := 1, tc := 15, td := 1 }
theorem witness_TileTransfers : (dev wave).issuing = some wave ∧ (∀ n, n < 256 → inWindows wave n) ∧ emulated accTf.ty = false ∧
    accTf.ta.toNat + accTf.tb.toNat ≤ wave.foot.acc ∧ wave.foot.acc < ({ accTf with ta := 32 } : TF).ta.toNat + accTf.tb.toNat ∧
    (accTf.td ≠ 0 ∧ accTf.tc.toNat + accTf.td.toNat ≤ 16 ∧ accTf.ta.toNat + accTf.td.toNat ≤ 256) ∧ ({ accTf with td := 2 } : TF).tc.toNat + 2 > 16 ∧
    accTf.tb.toNat < wave.foot.acc ∧ wave.foot.acc ≤ ({ accTf with tb := 32 } : TF).tb.toNat ∧ (∃ fmt, ({ wave with fmt := fmt } : Wave).acct = 0) ∧
    (∃ fmt, ({ wave with fmt := fmt } : Wave).acct ≠ 0) ∧ ({ accTf with ty := 9 } : TF).ty.toNat ∉ [0, 2, 3, 4, 5, 6] ∧ ({ accTf with ty := 3 } : TF).ty.toNat ∈ [2, 3, 4, 5, 6] :=
  ⟨issuing _ _, windows, by decide +kernel, by decide +kernel, by decide +kernel, by decide +kernel, by decide +kernel, by decide +kernel, by decide +kernel, ⟨0x077, by decide +kernel⟩,
    ⟨0x277, by decide +kernel⟩, by decide +kernel, by decide +kernel⟩
theorem witness_TileTransfers_landings (kind : OpKind) (h : kind ∈ [OpKind.accz 31 1, .accwr 31 15 1 2 1 [zeroV], .accrd 255 31 15 1 3 1 0 false 1 false]) :
    (flying (op kind .none)).op? 0 = some (op kind .none) ∧ (flying (op kind .none)).portLost 0 = false ∧ 15 + 1 ≤ 16 ∧ (flying (op kind .none)).accReady (op kind .none) 31 1 = true ∧
    (flying (op kind .none)).blocks = [] ∧ (flying (op kind .none)).feeds = [] ∧ (flying (op kind .none)).wave? 0 = some wave ∧ wave.leaving = false ∧ windowsApart wave ∧
    (∀ i, i < 1 → inWindows wave (255 + i)) := by
  refine ⟨rfl, rfl, by decide, ?_, rfl, rfl, rfl, rfl, Or.inl (by decide), fun i hi => windows _ (by omega)⟩
  simp only [List.mem_cons, List.not_mem_nil, or_false] at h
  rcases h with rfl | rfl | rfl <;> decide +kernel
/-! Walks -/

def recA : List Byte := toBytes 128 (0x20000 + 2 * 2 ^ 64 + 2 * 2 ^ 68 + 2 ^ 192 + 2 ^ 224 + 32 * 2 ^ 512)
def recB : List Byte := toBytes 128 (0x30000 + 2 * 2 ^ 64 + 2 * 2 ^ 68 + 2 ^ 82 + 2 ^ 192 + 2 ^ 224 + 32 * 2 ^ 512)
def recC : List Byte := toBytes 128 (0x40000 + 2 * 2 ^ 64 + 2 * 2 ^ 68 + 2 ^ 192 + 2 ^ 224 + 32 * 2 ^ 512)
/-- A card of one tuple: one tile, one slot, the records after it. -/
def card : Nat :=
  0x10080 + 0x10100 * 2 ^ 64 + 0x10180 * 2 ^ 128 + 2 ^ 301 + 2 ^ 307 + 2 ^ 324 + (2 ^ 29 + 1) * 2 ^ 384 + (2 ^ 30 + 1) * 2 ^ 416 + (2 ^ 29 + 2 ^ 30 + 1) * 2 ^ 448
def walkDev : State := devWith atRec [(0x10000, toBytes 128 card ++ recA ++ recB ++ recC)]
def walkA2 : A2 := { a2 with aa := 2, cm := 1, ct := 40 }
def cardRead : RecordRead := walkDev.readRecord atRec (atRec.recordAt walkA2.aa) 128 128 noDeny
def readA : RecordRead := (recState walkDev cardRead).walkRecord atRec (card % 2 ^ 57)
def readB' : RecordRead := (recState walkDev readA).walkRecord atRec (card / 2 ^ 64 % 2 ^ 57)
def readC : RecordRead := (recState walkDev readB').walkRecord atRec (card / 2 ^ 128 % 2 ^ 57)
def job : WalkJob := walkJob card (parseLayout recA) (parseLayout recB) (parseLayout recC) 2 0 false none 0
def walkOp (pos : Nat) : Op := op (.walk { job with pos := pos }) (.token 40)
def walking (pos : Nat) : State := flying (walkOp pos)
def walkSlot : SlotRun :=
  (walking 0).runSlot { pins := [], view := (walkOp 0).view, wave := some wave, lay := job.bBox, coords := job.bCoords (job.tuple 0) } ((walking 0).slot 0 0)
def slotState (s : State) : SlotRun → State
  | .done t _ _ _ => t
  | _ => s
def slotGood : SlotRun → Bool
  | .done _ _ o _ => o.cause == 0
  | _ => false
def goes : SpotRun → Bool
  | .go _ 0 => true
  | _ => false
theorem walk_card : walkDev.issuing = some atRec ∧ atRec.completion walkA2.cm walkA2.ct = some (.token 40) ∧ recBytes cardRead = some (toBytes 128 card) ∧
    recBytes readA = some recA ∧ recBytes readB' = some recB ∧ recBytes readC = some recC ∧ leNat (toBytes 128 card) = card ∧ cardOk card 2 = true ∧
    (cardLevels card).any (fun e => e.1 == 4) = false ∧ layoutOk (parseLayout recA) (some 2) false = true ∧ layoutOk (parseLayout recB) (some 2) true = true ∧
    (parseLayout recB).csm = true ∧ layoutOk (parseLayout recC) (some 2) false = true ∧ (combination 2 2 false atRec.acct).isSome = true ∧ walkOut 2 = true ∧
    (∀ x ∈ [(parseLayout recA).ty, (parseLayout recB).ty, (parseLayout recC).ty], x ≠ 13 ∧ x ≠ 14) ∧ card / 2 ^ 289 % 2 ≠ 1 ∧
    card / 2 ^ 296 % 2 ^ 5 + card / 2 ^ 301 % 2 ^ 6 ≤ atRec.foot.acc := ⟨issuing _ _, by decide +kernel⟩
theorem walk_tuple : (walking 0).op? 0 = some (walkOp 0) ∧ job.stop = 0 ∧ (walking 0).allQuarters.any (fun q => q.opId == 0) = false ∧ 0 = ((walking 0).part 0).active ∧
    ((walking 0).part 0).switching = none ∧ job.epi = false ∧ 0 ≠ job.total ∧
    (∀ u, u < job.mt → (walking 0).tileHeld 0 0 (job.tileOf (job.tuple 0) u) = false ∧ (walking 0).tileAwaited 0 0 (job.tileOf (job.tuple 0) u) = false) ∧
    (walking 0).slotFree 0 0 0 = true ∧ ((walking 0).quarters.filter (fun q => q.cc == 0)).length + job.mt ≤ 128 ∧ slotGood walkSlot = true ∧
    goes ((slotState (walking 0) walkSlot).spotRun (walkOp 0) job.a.sp (job.aAddrs (job.tuple 0)) []) = true := by
  refine ⟨rfl, ?_⟩
  decide +kernel
/-- With one slot, the slot that the walk is free to choose is that one. -/
theorem walk_slot : job.slotBase + (Config.freeWord (walking 0).draws).toNat % job.slotN = 0 := by
  rw [show job.slotN = 1 from by decide +kernel, Nat.mod_one]; decide +kernel

/-- A parameter block of one row. -/
def paramDev : State := devWith atRec [(0x10000, toBytes 16 (5 + 2 ^ 32) ++ toBytes 16 (7 + 3 * 2 ^ 64))]
def paramRead : RecordRead := paramDev.readRecord atRec (atRec.recordAt (2 : R8)) 16 16 noDeny
def paramAccs : Resolved := (recState paramDev paramRead).resolve atRec.view [(0, atRec.recordAt (2 : R8) + 16)] 1 false noDeny
theorem walk_params : paramDev.issuing = some atRec ∧ recBytes paramRead = some (toBytes 16 (5 + 2 ^ 32)) ∧ paramHeader (leNat (toBytes 16 (5 + 2 ^ 32))) = some (5, 1, 0) ∧
    paramAccs = .ok (accsOf paramAccs) ∧ (recState paramDev paramRead).loadBlocked atRec.core 16 0 (accsOf paramAccs) = false ∧
    ((recState paramDev paramRead).reach atRec (accsOf paramAccs) true).poisonTrap atRec.core (accsOf paramAccs) = none ∧
    (∀ e ∈ (((recState paramDev paramRead).reach atRec (accsOf paramAccs) true).loadAll atRec.core 16 0 0 (accsOf paramAccs)).2.map (fun e => leNat e.2), e / 2 ^ 96 = 0) := ⟨issuing _ _, by decide +kernel⟩
theorem witness_WalkResults : cardRead = .ok (recState walkDev cardRead) (toBytes 128 card) ∧ readC = .ok (recState walkDev readC) recC ∧
    (walking 1).op? 0 = some (walkOp 1) ∧ 1 = job.total ∧ (walking 1).allQuarters.any (fun q => q.opId == 0) = false ∧ (walking 1).wave? 0 = some wave ∧
    job.poisoned = false ∧ job.side = false ∧ wave.leaving = false ∧ (walking 0).reloading 0 0 = false ∧ paramRead = .ok (recState paramDev paramRead) (toBytes 16 (5 + 2 ^ 32)) :=
  ⟨recOk _ walk_card.2.2.1, recOk _ walk_card.2.2.2.2.2.1, rfl, by decide +kernel, by decide +kernel, rfl, by decide +kernel, by decide +kernel, rfl, by decide +kernel, recOk _ walk_params.2.1⟩

/-- A finished block of the walk, whose output is the one element of C. -/
def outJob : WalkJob := { job with pos := 1, epi := true }
def outOp : Op := op (.walk outJob) (.token 40)
def outPlan : OutPlan := (flying outOp).planOut outOp outJob (outJob.outs (outJob.tuple 0)) []
def outSpots : OutPlan → List OutSpot
  | .go l 0 false => l
  | _ => []
theorem outPlan_go {x : OutPlan} (h : outSpots x ≠ []) : x = .go (outSpots x) 0 false := by
  match x with
  | .go l 0 false => rfl
  | .go l (n + 1) b | .go l 0 true | .wait p => exact absurd rfl h
def inDram (x : Spot) (n : Nat) : Bool :=
  match x with
  | .mem p => decide (p.pa + n ≤ Config.dramBytes) && decide (p.pa % 128 + n ≤ 128)
  | .spad _ => false
theorem spotInDram_of {x : Spot} {n : Nat} (h : inDram x n = true) : spotInDram x n := by
  cases x with
  | mem p => simp only [inDram, Bool.and_eq_true, decide_eq_true_eq] at h; exact ⟨p, rfl, h⟩
  | spad k => simp [inDram] at h
theorem out_spots : (outSpots outPlan).map (fun x => (spotPa x.dst, x.bias.isSome)) = [(0x40000, false)] ∧
    (outSpots outPlan).all (fun x => inDram x.dst 4) = true := by decide +kernel
theorem witness_WalkResults_outputs : (flying outOp).op? 0 = some outOp ∧ outJob.stop = 0 ∧ outJob.epi = true ∧ (flying outOp).portLost 0 = false ∧
    (flying outOp).allQuarters.any (fun q => q.opId == 0) = false ∧ outOp.cx = ((flying outOp).part 0).active ∧ ((flying outOp).part 0).switching = none ∧
    (flying outOp).holders = [] ∧ outPlan = .go (outSpots outPlan) 0 false ∧
    (flying outOp).spotsHeld outOp.view ((outSpots outPlan).flatMap (fun x => (x.dst, 4) :: (x.bias.map (fun b => (b, 4))).toList)) = false ∧
    elemBytes outJob.cRec.ty = 4 ∧ (∀ x ∈ outSpots outPlan, spotInDram x.dst 4) ∧ (∀ x ∈ outSpots outPlan, x.bias = none) ∧ outJob.pos = outJob.total :=
  ⟨rfl, by decide +kernel, rfl, rfl, by decide +kernel, by decide +kernel, by decide +kernel, by decide +kernel,
    outPlan_go (fun h => by have := out_spots.1; rw [h] at this; exact absurd this (by decide)), by decide +kernel, by decide +kernel,
    fun x hx => spotInDram_of (List.all_eq_true.mp out_spots.2 x hx), by decide +kernel, by decide +kernel⟩

/-! Bramble, spawning, heaps and feeds -/

def gA2 : A2 := { a2 with aa := 2, ab := 4, cm := 1, ct := 40 }
def gOp : Op := op (.bramble none [{ fn := .gfree, lane := 0, ctx := 0x10000, arg := 0, imm := 0 }] false []) (.token 40)
def gDone : GRun → Bool
  | .done .. => true
  | _ => false
def ctx (active : Bool) (steps : Nat) : GCtx :=
  { addr := 0, pool := 0, hist := 0, image := 0, stk := 0, depth := 0, state := 0, steps := steps, commit := 0, error := false, rejected := false, active := active }
theorem witness_BrambleResults (fn : BrambleFn) (_ : fn ∈ [BrambleFn.gbind, .gstep, .gmask, .gmaskDelta, .gfork, .groll, .gcommit, .gfree]) :
    (dev atRec).issuing = some atRec ∧ atRec.completion gA2.cm gA2.ct = some (.token 40) ∧ (∀ n, n < 256 → inWindows atRec n) ∧ gA2.fl.getLsbD 0 = false ∧
    (∀ o ∈ (dev atRec).gOperands atRec gA2 (brambleForm fn false gA2 0).second (if fn = .gbind then 0 else 128 * (brambleForm fn false gA2 0).imm),
      o.ctx % 64 = 0 ∧ o.arg % (brambleForm fn false gA2 0).align = 0 ∧ o.arg < (brambleForm fn false gA2 0).limit) ∧
    (flying gOp).op? 0 = some gOp ∧ (flying gOp).gBehind gOp = false ∧
    gDone ((flying gOp).runBramble gOp.view { fn := .gfree, lane := 0, ctx := 0x10000, arg := 0, imm := 0 }) = true ∧
    (flying gOp).wave? 0 = some wave ∧ (ctx true 64).active = true ∧ 64 ≤ (ctx true 64).steps - (ctx true 64).commit ∧ (ctx false 0).active = false := by
  refine ⟨issuing _ _, by decide +kernel, windows, rfl, ?_, by decide +kernel⟩
  cases fn <;> decide +kernel

def posted : Card :=
  { entry := 0, args := 0, parent := 0, tag := 0, depth := 1, prio := 0, lanes := 1, wwin := 0, spad := 0, acc := 0, sema := 0, mstk := 0, launch := 0, desc := wave.desc,
    fn := 0, queue := 0, space := wave.space, part := 0, cx := 0, devScope := false }
/-- A job card for entry 0 with one lane, and one that is not a card. -/
def cardDev (w : Wave) (magic : Nat) (queued : Nat) : State :=
  { devWith w [(0x10000, toBytes 64 (magic + 2 ^ 57)), (0, toBytes 4 0x01A00000)] with
    cards := List.replicate queued (0, posted) }
def jobAt (w : Wave) (magic queued : Nat) : RecordRead := (cardDev w magic queued).readRecord w (w.pair 2).toNat 64 64 noDeny
def spawner (inld depth : Nat) : Wave := { atRec.setS 4 8 with inld := inld, sdepth := depth }
theorem witness_SpawnResults : (cardDev (spawner 1 0) 0xC1 256).issuing = some (spawner 1 0) ∧ recBytes (jobAt (spawner 1 0) 0xC1 256) = some (toBytes 64 (0xC1 + 2 ^ 57)) ∧
    (recState (dev wave) (jobAt (spawner 1 0) 0xC1 256)).wave? 0 = some (spawner 1 0) ∧ parseCard (toBytes 64 2) = none ∧
    (parseCard (toBytes 64 (0xC1 + 2 ^ 57))).isSome = true ∧ (spawner 1 15).sdepth = 15 ∧ (spawner 1 14).sdepth ≠ 15 ∧
    targetCore (spawner 1 0).core (((spawner 1 0).rs 4).toNat % 16) = 0 ∧ (recState (dev wave) (jobAt (spawner 1 0) 0xC1 255)).hasRoom 0 = true ∧
    (recState (dev wave) (jobAt (spawner 1 0) 0xC1 256)).hasRoom 0 = false ∧
    (parseCard (toBytes 64 (0xC1 + 2 ^ 57))).map (spawner 0 0).inlines = some false ∧ (parseCard (toBytes 64 (0xC1 + 2 ^ 57))).map (spawner 1 0).inlines = some true ∧
    (recState (dev wave) (jobAt (spawner 1 0) 0xC1 256)).codeWord (spawner 1 0) 0 = .word 0x01A00000 ∧
    (recState (dev wave) (jobAt (spawner 1 0) 0xC1 255)).releaseStalls 0 2 = false := by decide +kernel

def heapOf (n : Nat) : List HeapEntry := List.replicate n { deadline := 0, reqid := 0, cost := 1, swf := 0 }
def feed : Feed :=
  { part := 0, slot := 0, fn := 0, queue := 0, idx := 0, launch := 5, list := 0x10000, countAddr := 0x20000, maxrec := 1, next := 0, count := 1, final := false, bad := false,
    space := wave.space }
def feeding : State := { devWith wave [(0x10000, toBytes 16 (3 + 2 ^ 16))] with feeds := [feed] }
def tileGood : TileRead → Bool
  | .ok .. => true
  | _ => false
theorem witness_HeapAndFeedResults : (dev wave).issuing = some wave ∧ wave.part < (dev wave).parts.length ∧ (heapOf 65535).length < 65536 ∧ 65536 ≤ (heapOf 65536).length ∧
    (dev wave).admitTrap wave 0 (4 * 65536) = none ∧ (dev wave).admitTrap wave 0 (4 * (16 + 64 * 8)) = none ∧
    (dev wave).spadPoisonTrap 4 ((List.range 8).map (fun g => (0, 0 + 4 * g, wave.spadKey (0 + 4 * g)))) = none ∧ (dev wave).feed? 0 0 = none ∧
    feeding.feed? 0 0 = some feed ∧ feed.bad = false ∧ feed.next < min feed.count feed.maxrec ∧ min feed.count feed.maxrec ≤ ({ feed with next := 1, final := true } : Feed).next ∧ tileGood (feeding.readTile (cpView feed.space 0) (feed.list + 16 * feed.next)) = true ∧
    feeding.feedWaiters 0 0 = [] ∧ ({ feeding with waves := [wave, { wave with uid := 7, life := .parked (.feed 0 8) }] } : State).feedWaiters 0 0 ≠ [] ∧
    min feed.count feed.maxrec ≤ ({ feed with next := 1 } : Feed).next ∧ ({ feed with next := 1 } : Feed).final = false :=
  ⟨issuing _ _, by decide +kernel, by rw [heapOf, List.length_replicate]; decide, by rw [heapOf, List.length_replicate], by decide +kernel⟩

/-! Traps and services -/

def handled (inTrap : Bool) : Wave := { wave with desc := { wave.desc with tv := true, trapEntry := 120 }, inTrap := inTrap, hidden := List.replicate 16 5 }
def userTrap : Trap := { cause := 0x14 }
def qdesc : QDesc :=
  { qbase := 0x50000, ridxAddr := 0x60000, widxAddr := 0x60008, qlog := 4, pmax := 7, pasid := 0, pv := false, ie := true, vec := 3, errSig := 0, trapAddr := 0x70000 }
def queue : Queue :=
  { fn := 0, q := 0, qdescAddr := 0, state := .active, desc := qdesc, widx := 1, ridx := 0, cause := 0, expIdx := 0, tileClamp := false, expired := false, notifyBack := false,
    notifySize := false, notifyRange := false, disabling := false, enabling := .no, records := 31, packets := [] }
def queued (w : Wave) : State := { dev w with queues := [queue] }
def callpEnd : Wave := { handled true with s := [(240, 121)], maskStack := [⟨0, 0⟩, ⟨5, 7⟩] }
theorem witness_TrapEntryAndReturn : (dev (handled false)).issuing = some (handled false) ∧ userTrap.user = true ∧ (handled false).desc.tv = true ∧
    (handled false).inTrap = false ∧ (dev (handled true)).issuing = some (handled true) ∧ (handled true).inTrap = true ∧ wave.desc.tv = false ∧
    (queued wave).queue? wave.fn wave.queue = some queue ∧ queue.desc.errSig = 0 ∧ queue.state = .active ∧ (queue.desc.trapAddr + 128 * (queue.records % 32)) % 128 = 0 ∧
    (match (queued wave).page (cpView (Queue.space queue) ((queued wave).func wave.fn).part) (queue.desc.trapAddr + 128 * (queue.records % 32)) true with
      | .ok p => p.pa % 128 == 0 && decide (p.pa + 128 ≤ Config.dramBytes) | _ => false) = true ∧
    (handled true).pair 240 &&& 3 = 0 ∧ (handled true).hidden.length = 16 ∧ callpEnd.pair 240 &&& 3 = 1 ∧ callpEnd.maskStack = (⟨0, 0⟩ : MaskEntry) :: ⟨5, 7⟩ :: [] :=
  ⟨issuing _ _, rfl, rfl, rfl, issuing _ _, by decide +kernel⟩

def sealedWave : Wave := { wave with sealFlag := true, sealSince := 1 }
theorem witness_WaveServiceResults : (dev wave).issuing = some wave ∧ wave.rs 2 = 0 ∧ (wave.setS 2 1).rs 2 ≠ 0 ∧ (handled true).inTrap = true ∧ wave.inTrap = false ∧
    wave.claims = [] ∧ (∀ n, n < 256 → inWindows wave n) ∧ (240 : R8).toNat + 16 ≤ 256 ∧
    eventWave (State.at (dev { wave with life := .parked (.ecall 2 8) }) {}) { wave with life := .parked (.ecall 2 8) } ∧ lifeValid 2 = true ∧ lifeValid 0x9000 = false ∧
    eventWave (State.at { dev { wave with life := .parked (.sleep 5 true) } with dtime := 5 } {}) { wave with life := .parked (.sleep 5 true) } ∧
    sealedWave.sealSince.toNat + 1000000 ≤ (1000001 : DWord).toNat ∧ sealedWave.cx = ((dev wave).part sealedWave.part).active ∧
    (dev wave).eligible wave = true ∧ wave.overdueAt = 0 ∧ (dev wave).saving 0 = false ∧ sealedWave.halted = false ∧ (dev wave).areaThere wave = true ∧
    (dev wave).ckptArea wave % 128 = 0 ∧ (dev wave).ckptArea wave + 524288 ≤ Config.dramBytes ∧ (ckptS 0 8).length = 4 :=
  ⟨issuing _ _, by decide +kernel, by decide +kernel, rfl, rfl, rfl, windows, by decide, ⟨rfl, rfl⟩, by decide +kernel, by decide +kernel, ⟨rfl, rfl⟩, by decide +kernel⟩
/-! Estates -/

def launch (ein eout : Option Nat) : Launch :=
  { id := 0, fn := 0, queue := 0, idx := 0, part := 0, cx := 0, space := wave.space, desc := wave.desc, prio := 0, start := 0, args := 0, items := 65, keyoff := 0,
    ein := ein, eout := eout, tile := none, nwaves := 2, nextWave := 0, holds := [(7, 0, 5)], released := [], blocked := [(0, 9, false)], stopAt := none, seen := 0, prevCluster := none, broken := false }
def leaving (did : Bool) : Wave := { wave with desc := { wave.desc with nbeq := 1, beqlist := [5] }, didWill := did, index := 2 ^ 34 - 1 }
/-- Residue space for estates, and no directory entry. -/
def estDev (w : Wave) (eout : Option Nat) : State :=
  let s := dev w
  { s with launches := [launch (some 4095) eout], parts := s.parts.set 0 { s.part 0 with resBase := 0x100000, resSize := 0x10000 } }
def block (loc : Loc) (route : Route) : Block :=
  { id := 0, part := 0, cx := 0, dom := 4095, group := 3, e := 1, present := 1, loc := loc, held := .forming, route := route, since := 0, btime := 0, core := 0, rfblk := 0, slot := 0,
    waveIdx := 0, uid := 9, inDir := true, data := [zeroV], pend := [], dirIdx := 0, taker := none }
def openDom : Domain := { Domain.reset with state := .open, timer := 5, openTime := 1 }
def held (w : Wave) : State :=
  { (estDev w none).putDomain 0 4095 openDom with blocks := [{ block .resident .resident with rfblk := 700 }] }
def claimOp : Op := op (.claim 255 1 15 [(63, 192)] []) .none
def claiming : State := State.at { held wave with ops := [claimOp], nextOp := 1 } {}
theorem witness_EstateInstructionResults : (estDev wave none).issuing = some wave ∧ wave.child = false ∧ (estDev wave none).launch? wave.launch = some (launch (some 4095) none) ∧
    (launch (some 4095) none).eout = none ∧ (estDev (leaving false) (some 4)).issuing = some (leaving false) ∧
    (estDev (leaving false) (some 4)).launch? (leaving false).launch = some (launch (some 4095) (some 4)) ∧ (leaving false).desc.nbeq ≠ 0 ∧ (leaving true).didWill = true ∧
    (leaving false).didWill = false ∧ (leaving false).active 0 ≠ 0 ∧
    keysOk ((lanesOf ((leaving false).active 0)).map (fun k => (k, (64 * (leaving false).index + k) % 2 ^ 40))) = true ∧
    keysOk ((lanesOf ((leaving false).active 0)).map (fun k => (k, keyOf ((dev wave).readV wave 6) ((dev wave).readV wave 7) k))) = false ∧
    (∀ r ∈ (leaving false).desc.beqlist, r < 256) ∧ ((estDev (leaving false) (some 4)).chooseRoute (leaving false) 4 (2 ^ 34 - 1)).isSome = true ∧
    (∀ n, n < 256 → inWindows wave n) ∧ (254 : R8).toNat < 255 ∧ (224 : R8).toNat + (32 : R8).toNat ≤ 256 ∧
    claiming.op? 0 = some claimOp ∧ claiming.portLost 0 = false ∧ claiming.wave? 0 = some wave ∧ claiming.claimWaits wave 0 [(63, 192)] = false ∧
    wave.cx = (claiming.part wave.part).active ∧ (claiming.part wave.part).switching = none ∧ claiming.feeds = [] ∧ (∀ b ∈ claiming.blocks, b.pend = []) ∧ inWindows wave 255 ∧
    ((claiming.claimDomain wave).bind (fun dom => claiming.holds wave dom 192)).isSome = true := by
  refine ⟨rfl, by decide +kernel, by decide +kernel, rfl, rfl, by decide +kernel, by decide +kernel, rfl, rfl, by decide +kernel, by decide +kernel, by decide +kernel,
    by decide +kernel, by decide +kernel, windows, by decide, by decide, by decide +kernel, by decide +kernel, by decide +kernel, by decide +kernel, by decide +kernel,
    by decide +kernel, rfl, by decide +kernel, windows 255 (by decide), by decide +kernel⟩

def taking (takes : List Nat) (fill : List (Nat × LaneMask × VReg)) : Wave := { born with exec := 1, takes := takes, fill := fill, keys := [some 192] }
def takeDev (takes : List Nat) (fill : List (Nat × LaneMask × VReg)) (isOpen : Bool) : State :=
  State.at (if isOpen then held (taking takes fill) else estDev (taking takes fill) none) {}
def orchard : State :=
  let s := dev wave
  State.at { s with blocks := [{ block .moving (.orchard 2) with held := .forming }], parts := s.parts.set 0 { s.part 0 with orchBase := 0x200000, orchSlots := 4 } } {}
def place : Place := { part := 0, start := 0xFF80, pad := 0, len := 64, written := false }
def placed : State := State.at { estDev wave none with places := [place] } {}
def domDev (st : DState) : State := State.at { (estDev wave none).putDomain 0 4095 { openDom with state := st } with dtime := 6 } { dom := 4095 }
theorem witness_EstateEventResults : eventWave (takeDev [3] [] false) (taking [3] []) ∧ (taking [3] []).life = .born ∧
    (taking [3] []).cx = ((takeDev [3] [] true).part 0).active ∧ ((takeDev [3] [] true).part 0).switching = none ∧
    (takeDev [3] [] true).launch? 0 = some (launch (some 4095) none) ∧ ((takeDev [3] [] false).domain 0 4095).state ≠ .open ∧
    ((takeDev [3] [] true).domain 0 4095).state = .open ∧ (takeDev [3] [] true).takeWaits 0 4095 3 (taking [3] []).ticket = false ∧ ((takeDev [3] [] true).groupBlock 0 4095 3).isSome = true ∧
    eventWave (takeDev [] [(255, 1, zeroV)] true) (taking [] [(255, 1, zeroV)]) ∧ inWindows (taking [] []) 255 ∧ eventWave (takeDev [] [] true) (taking [] []) ∧
    orchard.block? 0 = some { block .moving (.orchard 2) with held := .forming } ∧ orchard.orchardPa 0 2 0 % 256 = 0 ∧ orchard.orchardPa 0 2 0 + 256 ≤ Config.dramBytes ∧
    (orchard.blockReg { block .moving (.orchard 2) with held := .forming } 0).length = 64 ∧
    placed.places = [place] ∧ placed.placeReady place = true ∧ placed.placeBlock place = none ∧ place.part < placed.parts.length ∧
    64 ≤ place.len ∧ ((placed.part 0).resBase.toNat + place.start % (placed.part 0).resSize.toNat) % 128 = 0 ∧
    (placed.part 0).resBase.toNat + place.start % (placed.part 0).resSize.toNat + 64 ≤ Config.dramBytes ∧
    ((domDev (.closing 3)).domain 0 4095).state = .closing 3 ∧ ((domDev (.closing 3)).domain 0 4095).remaining = [] ∧
    ((domDev .open).domain 0 4095).state = .open ∧ ((domDev .open).domain 0 4095).openTime.toNat + ((domDev .open).domain 0 4095).timer ≤ (domDev .open).dtime.toNat ∧
    ((domDev .open).domain 0 4095).cx = ((domDev .open).part 0).active ∧ (domDev .open).blocks = [] := by
  refine ⟨⟨rfl, rfl⟩, rfl, by decide +kernel, by decide +kernel, by decide +kernel, by decide +kernel, by decide +kernel, by decide +kernel, by decide +kernel, ⟨rfl, rfl⟩,
    windows 255 (by decide), ⟨rfl, rfl⟩, by decide +kernel⟩

/-- A block on its way to the residue buffer, with its place. -/
def recBlock (inDir : Bool) : Block := { block .moving (.residue 0x10000 2) with inDir := inDir }
def recPlace : Place := { part := 0, start := 0x10000, pad := 0, len := 320, written := false }
def recording (inDir : Bool) : State := State.at { estDev wave none with blocks := [recBlock inDir], places := [recPlace] } {}
theorem witness_EstateEventResults_record (inDir : Bool) : (recording inDir).places = [recPlace] ∧ (recording inDir).placeReady recPlace = true ∧
    (recording inDir).placeFree recPlace = true ∧ (recording inDir).placeBlock recPlace = some (recBlock inDir) ∧ (recBlock inDir).route = .residue recPlace.start 2 ∧
    recPlace.len = 64 + 256 * (recBlock inDir).e ∧ ((recording inDir).part 0).resBase.toNat + recPlace.start % ((recording inDir).part 0).resSize.toNat + recPlace.len ≤ Config.dramBytes ∧
    (recBlock inDir).inDir = inDir ∧ ((recording inDir).part 0).resRidx.toNat < recPlace.start + recPlace.len ∧ placed.placeFree place = true ∧
    orchard.destHeld { block .moving (.orchard 2) with held := .forming } = false := by cases inDir <;> decide +kernel

/-- A domain that keeps its values: its block is MOVING while its taker's window is filled (R94, R107). -/
def keeping : State := (takeDev [3] [] true).putDomain 0 4095 { openDom with keep := true }
theorem witness_EstateEventResults_more : (keeping.domain 0 4095).keep = true ∧ keeping.takeWaits 0 4095 3 (taking [3] []).ticket = false ∧
    keeping.groupBlock 0 4095 3 = some { block .resident .resident with rfblk := 700 } ∧
    (((taking [3] []).groupLanes 3).any (fun e => ((1 : LaneMask) &&& ~~~ keeping.claimedBy 0 (taking [3] []).uid).getLsbD e.2)) = true ∧
    (block .moving (.orchard 2)).taker = none := by decide +kernel

/-! Queues and packets -/

/-- An idle or active queue of function 0, which is assigned to partition 0. -/
def qDev (x : Queue) (inp : Input) (cells : List (Nat × List Byte)) : State :=
  let s := devWith wave cells
  State.at { s with queues := [x], funcs := s.funcs.set 0 { s.func 0 with assigned := true } } inp
def off : Queue := { queue with state := .disabled, qdescAddr := 0x40000 }
def qdBytes : List Byte := toBytes 128 (0x50000 + 0x60000 * 2 ^ 64 + 0x60008 * 2 ^ 128 + 6 * 2 ^ 192 + 2 ^ 233)
def bigQ : Queue := { queue with desc := { qdesc with qlog := 6 }, state := .idle }
def packet (raw : Nat) (stage : PStage) : Packet :=
  { idx := 0, raw := BitVec.ofNat 512 raw, desc := none, stage := stage, expired := false, startTime := 0, launch := 0, waits := false, fail := 0 }
def cpOk : CpRead → Bool
  | .ok .. => true
  | _ => false
def cpState (s : State) : CpRead → State
  | .ok t _ => t
  | _ => s
def enabling : State := qDev off {} [(0x40000, qdBytes)]
def ownSpace : Space := { fn := 0, pv := false, pasid := 0 }
def enRead : CpRead := enabling.cpAcquire.cpRead ownSpace 0 0x40000 128
theorem witness_QueueCommandResults : eventQueue (qDev queue {} []) queue ∧ queue.state ≠ .disabled ∧ eventQueue enabling off ∧ off.state = .disabled ∧
    enabling.power = .running ∧ (enabling.func 0).assigned = true ∧ (State.at { dev wave with queues := [off] } {}).power = .running ∧
    ((State.at { dev wave with queues := [off] } {}).func 0).assigned = false ∧ off.qdescAddr.toNat % 128 = 0 ∧ cpOk enRead = true ∧ (parseQDesc qdBytes).isSome = true ∧
    cpOk ((cpState enabling enRead).cpRead ownSpace 0 0x60000 8) = true ∧
    cpOk ((cpState enabling ((cpState enabling enRead).cpRead ownSpace 0 0x60000 8)).cpRead ownSpace 0 0x60008 8) = true ∧
    (qDev queue {} []).launches = [] ∧ (qDev queue {} []).feeds = [] ∧ (qDev queue {} []).waves = [wave] ∧ wave.fn = queue.fn ∧ wave.queue = queue.q ∧ wave.life = .ready ∧
    wave.cx = ((qDev queue {} []).part wave.part).active ∧ (∀ w ∈ ({ qDev queue {} [] with waves := [] } : State).waves, ¬ (w.fn = queue.fn ∧ w.queue = queue.q)) ∧
    (qDev bigQ { addr := 0, size := 8, value := 64 } []).input.size = 8 ∧ bigQ.widx ≤ 64 ∧ (64 + 2 ^ 64 - bigQ.ridx) % 2 ^ 64 ≤ 2 ^ bigQ.desc.qlog ∧
    2 ^ bigQ.desc.qlog < (65 + 2 ^ 64 - bigQ.ridx) % 2 ^ 64 ∧ 0 < bigQ.widx ∧ (enabling.links[0]?).any (·.trained) = true ∧
    ({ off with enabling := .indices qdesc } : Queue).enabling = .indices qdesc ∧ (qDev off { op := 1 } []).input.op = 1 ∧
    cpOk ((qDev off { op := 1 } []).cpRead (Queue.space { off with desc := qdesc }) 0 qdesc.ridxAddr 8) = true ∧
    cpOk ((cpState enabling ((qDev off { op := 1 } []).cpRead (Queue.space { off with desc := qdesc }) 0 qdesc.ridxAddr 8)).cpRead
      (Queue.space { off with desc := qdesc }) 0 qdesc.widxAddr 8) = true :=
  ⟨⟨by decide, by decide, rfl⟩, by decide, ⟨by decide, by decide, rfl⟩, rfl, by decide +kernel⟩

/-- The raw packet of a type: a launch of 65 items, a tile launch, a feed, barriers and the rest. -/
def launchRaw : Nat := 1 + 1 * 2 + 65 * 2 ^ 256 + 0x10000 * 2 ^ 64
def tileRaw (feed : Bool) : Nat := 1 + 2 * 2 + (if feed then 2 ^ 19 else 0x10000 * 2 ^ 64) + 0x20000 * 2 ^ 256 + 0x30000 * 2 ^ 320 + 3 * 2 ^ 384
/-- A packet of a type with the address 0x10000 in its first address field, and 9 in the second doubleword field. -/
def plainRaw (ty flags : Nat) : Nat := 1 + ty * 2 + flags + 0x10000 * 2 ^ 64 + 9 * 2 ^ 128
def pq (p : Packet) : Queue := { queue with packets := [p] }
def withPacket (p : Packet) (cells : List (Nat × List Byte)) : State := qDev (pq p) {} cells
theorem starts_of {p : Packet} {i : Instr} (cells : List (Nat × List Byte)) (hs : (pq p).first = some p) (hi : p.startEvent = i)
    (hc : (pq p).canStart p 0 = true) : starts (withPacket p cells) (pq p) p i :=
  ⟨⟨(by decide : 0 < 65), (by decide : 0 < 256), rfl⟩, hs, rfl, hi, hc⟩
def startsNow (p : Packet) (i : Instr) : Bool := (pq p).first == some p && p.startEvent == i && (pq p).canStart p 0
theorem starts_now {p : Packet} {i : Instr} (cells : List (Nat × List Byte)) (h : startsNow p i = true) : starts (withPacket p cells) (pq p) p i := by
  simp only [startsNow, Bool.and_eq_true, beq_iff_eq] at h
  exact starts_of cells h.1.1 h.1.2 h.2
/-- A launch that has its descriptor. -/
def launched : Packet := { packet launchRaw .consumed with desc := some wave.desc }
def tiled (feed : Bool) : Packet := { packet (tileRaw feed) .consumed with desc := if feed then none else some wave.desc }
def countOk : CountRead → Option Nat
  | .ok _ n _ => some n
  | _ => none
def polled : State := { withPacket { packet (tileRaw true) .started with waits := true } [] with feeds := [{ feed with countAddr := 0x30000 }], waves := [] }
def barrier (ty : Nat) (stage : PStage) : Packet := packet (1 + ty * 2 + 0x10000 * 2 ^ 64 + 0x10008 * 2 ^ 128) stage
/-- Dependencies at 0x10000, met, and at 0x10008, not met. -/
def deps (ty : Nat) : State := withPacket (barrier ty .started) [(0x10008, toBytes 8 1)]
def ringDev : State := qDev { bigQ with desc := { bigQ.desc with qlog := 6 } } {} [(0x50000, toBytes 64 (plainRaw 5 0))]
def ringHead : CpRead := ringDev.cpRead (Queue.space bigQ) 0 (bigQ.slotAddr 0) 4
def ringBody : CpRead := (cpState ringDev ringHead).cpAcquire.cpRead (Queue.space bigQ) 0 (bigQ.slotAddr 0) 64
theorem witness_PacketFlowResults : eventQueue ringDev bigQ ∧ bigQ.ridx < bigQ.widx ∧ ringDev.served 0 = true ∧ ProxiesOk ringDev ∧ cpOk ringHead = true ∧
    (packet (plainRaw 5 0) .consumed).raw.getLsbD 0 = true ∧ cpOk ringBody = true ∧ (packet (plainRaw 5 0) .consumed).wellFormed = true ∧
    (packet (plainRaw 5 0) .consumed).hasKernel = false ∧ ((cpState (cpState ringDev ringHead) ringBody).page (cpView (Queue.space bigQ) 0) (bigQ.slotAddr 0) true = .ok (pageAt 0x50000)) ∧
    ((cpState (cpState ringDev ringHead) ringBody).page (cpView (Queue.space bigQ) 0) bigQ.desc.ridxAddr true = .ok (pageAt 0x60000)) ∧
    (cpState (cpState ringDev ringHead) ringBody).runHeld none 0x50000 1 = false ∧ (cpState (cpState ringDev ringHead) ringBody).runHeld none 0x60000 8 = false ∧
    starts (withPacket launched []) (pq launched) launched .launch ∧ launched.desc = some wave.desc ∧ (withPacket launched []).launch? (withPacket launched []).nextLaunch = none ∧
    0 < launched.fld 295 256 ∧ starts (withPacket (tiled false) []) (pq (tiled false)) (tiled false) .tilelaunch ∧
    countOk ((withPacket (tiled false) [(0x30000, toBytes 8 (2 ^ 63 + 5))]).readCount (Queue.space queue) 0 ((tiled false).fld 376 320)) = some 5 ∧
    0 < min 5 ((tiled false).fld 415 384) ∧ starts (withPacket (tiled true) []) (pq (tiled true)) (tiled true) .tilelaunchFeed ∧
    (withPacket (tiled true) []).feed? 0 ((tiled true).fld 419 416) = none ∧ (packet (tileRaw true) .started).ty = 2 ∧ (packet (tileRaw true) .started).feed = true ∧
    polled.waves = [] ∧ countOk (polled.readCount feed.space 0 0x30000) = some 0 ∧
    starts (withPacket (barrier 3 .consumed) []) (pq (barrier 3 .consumed)) (barrier 3 .consumed) .barrierAnd ∧
    starts (withPacket (barrier 4 .consumed) []) (pq (barrier 4 .consumed)) (barrier 4 .consumed) .barrierOr ∧
    ((deps 3).readDeps (Queue.space queue) 0 (barrier 3 .started).deps).2 = [.met true, .met false] ∧
    ((deps 4).readDeps (Queue.space queue) 0 (barrier 4 .started).deps).2 = [.met true, .met false] ∧
    ((deps 4).readDeps (Queue.space queue) 0 [0x10008]).2 = [.met false] ∧ ((deps 3).readDeps (Queue.space queue) 0 [0x10000]).2 = [.met true] :=
  ⟨⟨by decide, by decide, rfl⟩, by decide, by decide +kernel, (by intro p hp; simp [ringDev, qDev, devWith, State.at, State.reset] at hp), by decide +kernel,
    by decide +kernel, by decide +kernel, by decide +kernel, by decide +kernel, by decide +kernel, by decide +kernel, by decide +kernel, by decide +kernel,
    starts_now _ (by decide +kernel), rfl, by decide +kernel, by decide +kernel, starts_now _ (by decide +kernel), by decide +kernel, by decide +kernel, starts_now _ (by decide +kernel), by decide +kernel, by decide +kernel,
    by decide +kernel, by decide +kernel, by decide +kernel, starts_now _ (by decide +kernel), starts_now _ (by decide +kernel), by decide +kernel, by decide +kernel⟩

/-- A feed whose packet names an estate-in domain, which is open, and an estate-out domain, which is closed. -/
def feedPacket : Packet := packet (tileRaw true + 2 ^ 17 + 2 ^ 18 + 5 * 2 ^ 32 + 6 * 2 ^ 44) .consumed
def feedDev (bound : List Feed) : State :=
  { (withPacket feedPacket []).putDomain 0 5 { Domain.reset with state := .open, closeOnHeir := true } with feeds := bound }
/-- A barrier whose second dependency lies outside the slice. -/
def badBarrier : Packet := packet (1 + 3 * 2 + 0x10000 * 2 ^ 64 + 2 ^ 30 * 2 ^ 128) .started
def cannotRead : State := withPacket badBarrier []
theorem witness_PacketFlowResults_feeds : starts (feedDev []) (pq feedPacket) feedPacket .tilelaunchFeed ∧
    (feedDev [{ feed with launch := 0 }]).feed? 0 (feedPacket.fld 419 416) = some { feed with launch := 0 } ∧
    (({ feedDev [{ feed with launch := 0 }] with launches := [launch none none] } : State).launch? 0).isSome = true ∧
    (feedDev []).feed? 0 (feedPacket.fld 419 416) = none ∧ (feedDev []).launch? (feedDev []).nextLaunch = none ∧ (∀ e ∈ (feedDev []).domains, e.2.heir ≠ some (feedDev []).nextLaunch) ∧
    (∀ w ∈ ({ feedDev [] with waves := [] } : State).waves, w.launch ≠ (feedDev []).nextLaunch) ∧ feedPacket.flag 17 = true ∧ feedPacket.flag 18 = true ∧
    ((feedDev []).domain 0 (feedPacket.fld 43 32)).state = .open ∧ ((feedDev []).domain 0 (feedPacket.fld 43 32)).heir = none ∧
    ((feedDev []).domain 0 (feedPacket.fld 43 32)).closeOnHeir = true ∧ ((feedDev []).domain 0 (feedPacket.fld 55 44)).state = .closed ∧
    (cannotRead.readDeps (Queue.space queue) 0 badBarrier.deps).2 = [.met true, .bad] ∧ badBarrier.ty = 3 ∧ badBarrier.stage = .started :=
  ⟨⟨⟨by decide, by decide, rfl⟩, by decide +kernel, rfl, by decide +kernel, by decide +kernel⟩, by decide +kernel⟩

def done (signal : Nat) : Packet := packet (plainRaw 7 (2 ^ 16) + signal * 2 ^ 192) .complete
def lateP : Packet := packet (1 + 2 + 5 * 2 ^ 384) .consumed
theorem witness_PacketEffectResults : starts (withPacket (packet (plainRaw 5 0) .consumed) []) (pq (packet (plainRaw 5 0) .consumed)) (packet (plainRaw 5 0) .consumed) .signalStore ∧
    starts (withPacket (packet (plainRaw 5 (2 ^ 17)) .consumed) []) (pq (packet (plainRaw 5 (2 ^ 17)) .consumed)) (packet (plainRaw 5 (2 ^ 17)) .consumed) .signalAdd ∧
    ProxiesOk (withPacket (packet (plainRaw 5 0) .consumed) []) ∧
    (withPacket (packet (plainRaw 5 0) .consumed) []).page (cpView (Queue.space queue) 0) ((packet (plainRaw 5 0) .consumed).fld 120 64) true = .ok (pageAt 0x10000) ∧
    (withPacket (packet (plainRaw 5 0) .consumed) []).lineBad (0x10000 / 128) = false ∧ (withPacket (packet (plainRaw 5 0) .consumed) []).runHeld none 0x10000 8 = false ∧
    starts (withPacket (packet (plainRaw 6 0) .consumed) []) (pq (packet (plainRaw 6 0) .consumed)) (packet (plainRaw 6 0) .consumed) .estateClose ∧
    ((withPacket (packet (plainRaw 6 0) .consumed) []).domain 0 0).state = .closed ∧
    starts (withPacket (packet (plainRaw 7 0) .consumed) []) (pq (packet (plainRaw 7 0) .consumed)) (packet (plainRaw 7 0) .consumed) .copy ∧
    starts (withPacket (packet (plainRaw 8 0) .consumed) []) (pq (packet (plainRaw 8 0) .consumed)) (packet (plainRaw 8 0) .consumed) .grammarBind ∧
    lateP.late 5 = true ∧ lateP.stage = .consumed ∧ (done 0).stage = .complete ∧ (done 0).signal = 0 ∧ (done 0).fail = 0 ∧ (done 0).flag 16 = true ∧ queue.desc.ie = true ∧
    (done 0x10000).signal = 0x10000 ∧ (withPacket (done 0x10000) []).cpRelease.page (cpView (Queue.space queue) 0) (done 0x10000).signal true = .ok (pageAt 0x10000) ∧
    (withPacket (done 0x10000) []).cpRelease.lineBad (0x10000 / 128) = false ∧ (withPacket (done 0x10000) []).cpRelease.runHeld none 0x10000 8 = false :=
  ⟨starts_now _ (by decide +kernel), starts_now _ (by decide +kernel), (by intro p hp; simp [withPacket, qDev, devWith, State.at, State.reset] at hp), by decide +kernel,
    by decide +kernel, by decide +kernel, starts_now _ (by decide +kernel), by decide +kernel, starts_now _ (by decide +kernel), starts_now _ (by decide +kernel), by decide +kernel⟩

/-! Placement, the end of waves, contexts -/

def fresh : Launch := { launch none none with id := 4, holds := [], blocked := [] }
def placeDev : State := State.at { dev wave with waves := [], launches := [fresh], nextUid := 1 } {}
def chosen : Choice → Option Site
  | .place t => some t
  | _ => none
def cardDev' : State := State.at { dev wave with cards := [(0, posted)], nextUid := 1 } {}
def holding : State := State.at { dev wave with launches := [launch none none], dtime := 9 } { slot := 7 }
theorem witness_PlacementResults : placeDev.placing 0 = true ∧ (placeDev.part 0).making = none ∧ placeDev.passItems 0 = [.next 4] ∧ placeDev.cards = [] ∧ placeDev.launch? 4 = some fresh ∧ fresh.nextIndex = some 0 ∧
    fresh.tile = none ∧ fresh.ein = none ∧ placeDev.wave? 1 = none ∧
    (chosen (placeDev.chooseFor (placeDev.wantSpec fresh (fresh.itemSpec 0) (placeDev.openCores 0)))).isSome = true ∧
    (cardDev'.cardSite 0).map Prod.fst = some posted ∧ cardDev'.placing 0 = true ∧ posted.cx = (cardDev'.part 0).active ∧
    (cardDev'.passItems 0).filter (fun x => decide (posted.prio < cardDev'.itemPrio x)) = [] ∧ cardDev'.wave? 1 = none ∧
    holding.launch? 0 = some (launch none none) ∧ (launch none none).holds.find? (fun x => x.1 == 7) = some (7, 0, 5) ∧ (5 : DWord).toNat ≤ holding.dtime.toNat ∧
    (launch none none).blocked = [(0, 9, false)] ∧ (9 : DWord).toNat ≤ holding.dtime.toNat := by decide +kernel

def goneWave (life : Life) (chosen : Bool) : Wave := { wave with life := life, chosen := chosen, ckpt := some ((dev wave).checkpoint wave 0 [] []) }
/-- A wave without scratchpad, accumulators or semaphores that is being restored from a checkpoint area away from the page tables. -/
def backing : Wave := { goneWave .restoring false with foot := { ewin := 0, wwin := 32, spad := 0, acc := 0, sema := 0 } }
def restoring : State :=
  let s := dev backing
  State.at { s with parts := s.parts.set 0 { s.part 0 with ckBase := 0x100000 } } {}
def ctxDev (sw : Option (Nat × Bool)) (value : Word) : State :=
  let s := dev wave
  let s := { s with parts := s.parts.set 0 { s.part 0 with switching := sw }, dtime := 2000000 }
  State.at s { value := value.zeroExtend 64 }
theorem witness_WaveEndAndContextEvents : eventWave (State.at (dev (goneWave .exiting false)) {}) (goneWave .exiting false) ∧
    (State.at (dev (goneWave .exiting false)) {}).retireWaits (goneWave .exiting false) = false ∧
    (State.at { dev (goneWave .exiting false) with ops := [{ op .store .none with cls := some .ST }] } {}).retireWaits (goneWave .exiting false) = true ∧
    eventWave (State.at (dev (goneWave .ready true)) {}) (goneWave .ready true) ∧ (goneWave .ready true).grp = [] ∧ (goneWave .ready true).sealFlag = false ∧
    (∀ o ∈ (dev (goneWave .ready true)).ops, o.uid ≠ 0) ∧ eventWave restoring backing ∧ backing.ckpt.isSome = true ∧ restoring.liveOf 0 = none ∧ 0 < (ctxDev none 2).parts.length ∧ ((ctxDev none 2).part 0).live = true ∧
    ((ctxDev none 2).part 0).confidential = false ∧ (ctxDev none 2).input.value.toNat < 3 ∧ (ctxDev none 2).input.value.toNat ≠ ((ctxDev none 2).part 0).active ∧
    3 ≤ (ctxDev none 3).input.value.toNat ∧ (ctxDev none 0).input.value.toNat = ((ctxDev none 0).part 0).active ∧ ((ctxDev none 0).part 0).slice ≠ 0 ∧
    ((ctxDev none 0).part 0).activeSince.toNat + ((ctxDev none 0).part 0).slice.toNat ≤ (ctxDev none 0).dtime.toNat ∧
    ({ ctxDev none 0 with waves := [{ wave with cx := 1 }] } : State).hasWork 0 1 = true ∧
    (({ ctxDev (some (1, false)) 0 with waves := [] } : State).part 0).switching = some (1, false) ∧ ({ ctxDev (some (1, false)) 0 with waves := [] } : State).halted 0 = true ∧
    ((ctxDev (some (1, true)) 0).part 0).switching = some (1, true) :=
  ⟨⟨rfl, rfl⟩, by decide +kernel, by decide +kernel, ⟨rfl, rfl⟩, rfl, rfl, by decide +kernel, ⟨rfl, rfl⟩, by decide +kernel⟩

/-- What the retirement, the taking off, the restart and the halt of a context ask beside that. -/
theorem witness_WaveEndAndContextEvents_more : (dev (goneWave .exiting false)).retireHeld (goneWave .exiting false) = false ∧
    (dev (goneWave .exiting false)).cohortOf 0 = none ∧ (dev (goneWave .exiting false)).flushHeld 0 = false ∧ (goneWave .ready true).inTrap = false ∧
    (dev (goneWave .ready true)).tags = [] ∧ (dev (goneWave .ready true)).offWaits (goneWave .ready true) = [] ∧
    restoring.areaThere backing = true ∧ restoring.areaPoison backing = none ∧ restoring.runHeld none (restoring.ckptArea backing) 524288 = false ∧
    (({ ctxDev (some (1, false)) 0 with waves := [emulating 13] } : State).halted 0) = true ∧ (emulating 13).cx = ((ctxDev (some (1, false)) 0).part 0).active := by
  decide +kernel

/-! The device and its host -/

def image : FirmwareImage :=
  { magic := 0, headerVersion := 0, securityVersion := 0, bodyLen := 0, bodyDigest := 0, edKey := 0, mlKey := [], edSig := 0, mlSig := [], zeroTail := true, body := [] }
def vf (tdi : Tdi) : State :=
  let s := dev wave
  State.at { s with funcs := s.funcs.set 64 { s.func 64 with assigned := true, tdi := tdi } } { fn := 64 }
theorem witness_PowerLifeAndTrustResults : ({ dev wave with power := .recovery } : State).power = .recovery ∧
    (State.at { dev wave with power := .recovery } { slot := 1, img := some image }).input.img = some image ∧ 1 < 2 ∧ 1 ≤ (vf .unlocked).input.fn ∧
    (vf .unlocked).input.fn < 65 ∧ (vf .unlocked).funcs.length = 65 ∧ (vf .unlocked).parts.length = 16 ∧ ((vf .unlocked).func 64).tdi = .unlocked ∧
    ((vf .locked).func 64).tdi ≠ .unlocked ∧ ((vf .locked).func 64).assigned = true ∧ ((vf .locked).func 64).part < 16 ∧ (vf .locked).queues = [] ∧
    (∀ j, j < 65 → ((vf .locked).func j).assigned = true → ((vf .locked).func j).part = ((vf .locked).func 64).part → j = (vf .locked).input.fn) ∧
    ({ dev wave with running := some image } : State).running = some image := by decide +kernel

/-- A copy of the partition is still under way when the function leaves RUN. -/
theorem witness_PowerLifeAndTrustResults_writes : ({ vf .locked with ops := [copyOp (.token 40)] } : State).stillWrites ((vf .locked).func 64).part = true ∧
    ({ vf .locked with waves := [] } : State).stillWrites ((vf .locked).func 64).part = false := by decide +kernel

def window : PeerWindow := { v := true, w := true, dir := true, peer := 9, port := 3, logsize := 30, pbase := 0 }
def portedWith (up : Bool) (outs : List Nat) (lost : List (Nat × DWord)) (inp : Input) : State :=
  let s := dev wave
  State.at { s with ports := s.ports.set 3 { up := up, neighbour := 9, trained := true, outstanding := outs, lost := lost }, peerId := 8, dtime := 50000,
                    funcs := s.funcs.set 1 { s.func 1 with windows := [(0, window)] } } inp
def ported (up : Bool) (inp : Input) : State := portedWith up [] [] inp
def secret : State :=
  let s := dev wave
  { s with parts := s.parts.set 0 { s.part 0 with confidential := true } }
theorem witness_LinkPeerAndHostResults : ((State.at (dev wave) { port := 1, slot := 16, size := 128 }).links[1]?).isSome = true ∧
    ((ported false { port := 3, value := 9 }).ports[3]?).map (·.up) = some false ∧ (ported false {}).windowNames 3 9 = true ∧
    ((ported true { port := 3 }).ports[3]?).map (·.up) = some true ∧ 0 + 50000 ≤ (ported false {}).dtime.toNat ∧ (ported false {}).ops = [] ∧
    (ported true {}).exportOk 9 0x10040 64 true = true ∧ 0x10040 % 128 + 64 ≤ 128 ∧ (ported true {}).exportOk 9 0x10000 64 false = true ∧
    (linesOf 0x10000 64).any (ported true {}).poisoned = false ∧ (ported true {}).exportOk 9 (2 ^ 30 - 32) 64 true = false ∧
    (dev wave).sealedBytes 0x10040 64 0 = false ∧ secret.sealedBytes 0x10040 64 0 = true ∧ 0x10040 < Config.sysBase ∧ (linesOf 0x10000 64).any (dev wave).poisoned = false ∧
    0x10040 + 64 ≤ Config.dramBytes ∧ ((portedWith true [0] [] { port := 3 }).ports[3]?).map (·.outstanding) = some [0] ∧
    (∀ e ∈ [(0, (50000 : DWord))], e.2.toNat ≤ (ported false {}).dtime.toNat) ∧ ({ portedWith false [] [(0, 50000)] { port := 3 } with ops := [op .store .none] } : State).ops =
      [op .store .none] ∧ (ported true {}).runHeld none 0x10040 64 = false ∧ (ported true {}).queuedBefore .peerRequestIn 3 = false ∧
    (linesOf 0x10000 64).any (ported true {}).lineBad = false ∧ (dev wave).runHeld none 0x10040 64 = false ∧ (linesOf 0x10000 64).any (dev wave).lineBad = false ∧
    (queued wave).queue? 0 0 = some queue ∧ queue.widx < 2 ^ 64 := by decide +kernel

def partDev (live : Bool) (clusters : Nat) (inp : Input) : State :=
  let s := dev wave
  State.at { s with parts := s.parts.set 15 { s.part 15 with live := live, clusters := clusters, dbase := 383, dsize := 1, resWidx := 128 } } inp
def busy (ops : List Nat) (inp : Input) : State :=
  let s := dev wave
  State.at { s with funcs := s.funcs.set 64 { s.func 64 with busy := true, busyOps := ops }, ops := [op .store .none], dtime := 50000, waves := [] } inp
theorem witness_PartitionAndRegisterResults : (partDev false 2 { part := 15 }).parts.length = 16 ∧ ((partDev false 2 {}).part 15).confidential = false ∧
    ((partDev false 2 {}).part 15).live = false ∧ (partDev false 2 {}).createCheck 15 = 0 ∧ (partDev false 1 {}).createCheck 15 = 1 ∧ ((partDev true 2 {}).part 15).live = true ∧
    (∀ f ∈ (partDev true 2 {}).funcs, ¬ (f.assigned = true ∧ f.part = 15)) ∧ (∃ f ∈ (vf .unlocked).funcs, f.assigned = true ∧ f.part = 0) ∧
    (128 : DWord).toNat % 64 = 0 ∧ (128 : DWord).toNat ≤ ((partDev true 2 {}).part 15).resWidx.toNat ∧ ((partDev true 2 {}).part 15).resWidx.toNat < (192 : DWord).toNat ∧
    (partDev true 2 {}).blocks = [] ∧ (State.at (partDev true 2 {}) { addr := 0x20000 + 0x100 * 15, size := 8, value := 5 }).input.fn = 0 ∧ (5 : DWord).toNat < 2 ^ 32 ∧
    (dev wave).noneEnabled 64 = true ∧ (dev wave).dptBarred 64 = false ∧ ((dev wave).func 64).busy = false ∧ ((busy [] {}).func 64).busy = true ∧
    (∀ o ∈ (busy [] {}).ops, o.id ∉ ((busy [] {}).func 64).busyOps) ∧ (∃ o ∈ (busy [0] {}).ops, o.id ∈ ((busy [0] {}).func 64).busyOps) ∧
    ((busy [0] {}).func 64).busySince.toNat + 50000 ≤ (busy [0] {}).dtime.toNat ∧ (busy [0] {}).waves = [] ∧ (busy [0] {}).queues = [] ∧ (dev wave).funcs.length = 65 ∧
    (busy [] {}).flushL1s.dirtyOwners = [] ∧ (busy [] {}).flushL1s.l1.any (fun x => x.dirty != 0 && (busy [] {}).flushL1s.owned x.line) = false := by
  decide +kernel

/-! The step -/

def loadedWord : State := State.reset.withFetchWord 32 0x07020304
def agendaDev (t : Turn) : State := { loadedWord with agenda := [t] }
theorem witness_StepRunsDecodedInstruction : loadedWord.agenda = [] ∧ loadedWord.nextSched = some 0 ∧ ((loadedWord.choose 0).map (·.uid)) = some 1 ∧
    (loadedWord.choose 0).map (fun w => ({ loadedWord with lastSched := 0, cur := some w.uid }.putWave { w with overdueAt := 0 }).fetchNext { w with overdueAt := 0 }) =
      some (.run (.sdiv false 2 3 4)) ∧ (agendaDev (.issue 0 0)).agenda = [.issue 0 0] ∧ (agendaDev (.ev .lifeCommit {})).agenda = [.ev .lifeCommit {}] ∧
    Instr.isEvent .lifeCommit = true ∧
    (loadedWord.waves.head?).map (fun w => (w.pc.toNat % 12, loadedWord.codeWord w 0, loadedWord.codeWord w 4, loadedWord.codeWord w 8)) =
      some (0, .word 0x07020304, .word 0, .word 0) ∧ opWords (opOf 0x07020304) ≤ 3 ∧ decodeWords true [] [0x07020304, 0, 0] = .ok (.sdiv false 2 3 4) 1 := by
  decide +kernel

/-- The hypotheses of a step whose scheduler issues: with nothing due, and in its turn. -/
theorem witness_StepRunsDecodedInstruction_issue : loadedWord.calm.nextSched = some 0 ∧
    (((loadedWord.calm.parkFetching 0).choose 0).map (fun w => (w.refused, (atIssue (loadedWord.calm.parkFetching 0) 0 w).fetchNext { w with overdueAt := 0 }))) =
      some ([], .run (.sdiv false 2 3 4)) ∧ loadedWord.power ≠ .off ∧
    (((({ (agendaDev (.issue 0 0)).calm with agenda := [] } : State).parkFetching 0).choose 0).map (·.refused)) = some [] ∧
    Instr.overLink .lifeCommit {} = false ∧ Instr.overLink .hostWriteIn {} = true ∧ loadedWord.linkUp = true ∧ loadedWord.waiting = [] := by decide +kernel

theorem witness_DecodeEncodeRoundTrip : Sys2Proof.Instr.wf (.vrand true { v4 with ty := 2 }) = true ∧ Instr.isEvent (.vrand true { v4 with ty := 2 }) = false ∧
    Instr.experimental (.vrand true { v4 with ty := 2 }) = true ∧ chainOk [opPipe (opOf ((encode (.vrand true { v4 with ty := 2 })).headD 0)), .S] [0x2000000A] = true ∧
    cOf ((encode (.ldt tfRow)).getLastD 0) = false ∧ Instr.experimental (.ldt tfRow) = false := by decide +kernel

theorem witness_StepKeepsMemoryForm : Memory.wf State.reset.mem = true ∧ ProxiesOk State.reset ∧ Memory.wf (dev wave).mem = true ∧ ProxiesOk caches ∧ Memory.wf caches.mem = true := by
  refine ⟨by decide, (by intro p hp; cases hp), by decide +kernel, ?_, by decide +kernel⟩
  intro p hp
  have : p = hostLine := by simpa [caches] using hp
  rw [this]; decide +kernel

/-! ### Results that the spec works out (R168, R173, R203, R216, R217, R219, R220, R224, R232 to R235, R154, R163) -/

/-- The device with the wave and some vector registers of it: number, and the first lanes' values. -/
def withRegs (w : Wave) (rs : List (Nat × List Word)) : State :=
  rs.foldl (fun (s : State) e => s.writeV 0 e.1 (BitVec.allOnes 64) (e.2 ++ List.replicate (64 - e.2.length) 0)) (dev w)
/-- What register d holds in the first n lanes after an instruction, and fmt. -/
def after (w : Wave) (rs : List (Nat × List Word)) (i : Instr) (d n : Nat) : Option (List Word × Word) :=
  match exec i (withRegs w rs) with
  | .next t => (t.wave? 0).map (fun w => ((List.range n).map (laneOf (t.readV w d)), w.fmt))
  | _ => none
def sccAfter (w : Wave) (rs : List (Nat × List Word)) (i : Instr) : Option Word :=
  match exec i (withRegs w rs) with
  | .next t => (t.wave? 0).map (·.scc)
  | _ => none

theorem test_vlog2_power : after { wave with exec := 1 } [(5, [0x3E000000])] (.vlog2 false { v4 with vd := 6, va := 5, ty := 2 }) 6 1 = some ([0xC0400000], 0x277) := by decide +kernel
theorem test_vexp2_half : (after wave [(5, [0x3F000000, 0xC3000000])] (.vexp2 false { v4 with vd := 6, va := 5, ty := 2, km := 0 }) 6 2).map Prod.fst =
    some [0x3FB504F3, 0x00200000] := by decide +kernel
theorem test_vrsqrt : after { wave with exec := 1 } [(9, [0x40800000])] (.vrsqrt false { v4 with vd := 2, va := 9, ty := 2, fnx := true }) 2 1 = some ([0x3F000000], 0x277) := by decide +kernel
theorem test_vdot4 : after wave [(2, [0x02FF0301]), (3, [0x04050607]), (4, [100])] (.vdot4 false { v4 with vd := 1, va := 2, vb := 3, vc := 4 }) 1 1 =
    some ([128], 0x277) := by decide +kernel
theorem test_vcvt_e4m3_sat : after { wave with exec := 1 } [(3, [0x43EB0000])] (.vcvt false { v4 with vd := 2, va := 3, vc := 2, ty := 5, sat := true }) 2 1 =
    some ([0x7E], 0x3000277) := by decide +kernel
theorem test_vcvt_e4m3_over : after { wave with exec := 1 } [(3, [0x43EB0000])] (.vcvt false { v4 with vd := 2, va := 3, vc := 2, ty := 5 }) 2 1 =
    some ([0x7F], 0x1500277) := by decide +kernel
theorem test_vcvt_stochastic : (after { wave with exec := 3 } [(3, [0x3F804000, 0x3F804000]), (4, [0xC00000, 0xBFFFFF])]
    (.vcvt false { v4 with vd := 2, va := 3, vb := 4, vc := 2, ty := 3, fnx := true }) 2 2) = some ([0x3F81, 0x3F80], 0x1000277) := by decide +kernel
theorem test_vshr_i16 : (after wave [(2, [0xFFFF8000]), (3, [1])] (.vshr false { v4 with vd := 1, va := 2, vb := 3, ty := 9 }) 1 1).map Prod.fst = some [0x4000] := by
  decide +kernel
theorem test_vscan_exclusive : (after { wave with exec := 0xD } [(4, [7, 8, 9, 10]), (5, [5, 9, 1, 4])] (.vscan false { v4 with vd := 4, va := 5, fnx := true }) 4 4).map
    Prod.fst = some [0, 8, 5, 6] := by decide +kernel
theorem test_vredmaxi_tie : (after { wave with exec := 0xF } [(2, [0x40000000, 0x7FC00000, 0x40000000, 0xFF800000]), (3, [40, 7, 12, 3])]
    (.vredmaxi false { v4 with vd := 10, va := 2, vb := 3, ty := 2 }) 10 4).map Prod.fst = some [0x40000000, 0x40000000, 0x40000000, 0x40000000] ∧
    (after { wave with exec := 0xF } [(2, [0x40000000, 0x7FC00000, 0x40000000, 0xFF800000]), (3, [40, 7, 12, 3])]
    (.vredmaxi false { v4 with vd := 10, va := 2, vb := 3, ty := 2 }) 11 4).map Prod.fst = some [12, 12, 12, 12] := by decide +kernel
theorem test_vredmaxi_none : (after { wave with exec := 0xF } [(2, [0x7FC00000, 0xFF800000, 0x7FC00000, 0xFF800000]), (3, [40, 7, 12, 3])]
    (.vredmaxi false { v4 with vd := 10, va := 2, vb := 3, ty := 2 }) 11 1).map Prod.fst = some [0xFFFFFFFF] := by decide +kernel
def topk (start : Bool) : Instr := .vtopk false { v4 with vd := 16, va := 2, vb := 3, vc := 2, ty := 2, fnx := start }
theorem test_vtopk_insert : ([16, 17, 18, 19, 20].map (fun d => (after wave [(16, [0x40E00000]), (17, [0x40A00000]), (18, [4]), (19, [9]), (20, [2]), (2, [0x40A00000]), (3, [2])]
    (topk false) d 1).map Prod.fst)) = [some [0x40E00000], some [0x40A00000], some [4], some [2], some [2]] := by decide +kernel
theorem test_vtopk_start : ([16, 17, 18, 19, 20].map (fun d => (after wave [(2, [0x40A00000]), (3, [9])] (topk true) d 1).map Prod.fst)) =
    [some [0x40A00000], some [0xFF800000], some [9], some [0xFFFFFFFF], some [1]] := by decide +kernel
theorem test_vrand_equal : (after wave [(2, [5]), (3, [5])] (.vrand false { v4 with vd := 1, va := 2, vb := 3, ty := 2 }) 1 1).map Prod.fst = some [0x33000000] := by
  decide +kernel
theorem test_voteF : sccAfter { wave.setK 2 0x30 with exec := 0xF0 } [] (.voteF false 2 0) = some 0x2 := by decide +kernel
theorem test_accrd_no_columns : (match exec (.accrd { tf with ty := 2, td := 0 }) (dev { wave with fmt := 0x277 }) with
    | .next t => (t.wave? 0).any (fun w => w.halted)
    | _ => false) = true := by decide +kernel

/-- A wave with two work blocks: v16 and above lie in the backing store, v20 at 0x1400; v20 has been written. -/
def narrow : Wave := { wave with foot := { wave.foot with wwin := 2 }, backed := [20] }
def spilt (poison : KV Bool) (bstore : DWord) : State :=
  let s := dev narrow
  { s with poison := poison, parts := s.parts.set 0 { s.part 0 with bstore := bstore } }
theorem witness_VectorRegisterHomes : (spilt [] 0).issuing = some narrow ∧ inWindows narrow 3 ∧ (spilt [] 0).vloc narrow 20 = .back 0x1400 ∧
    (spilt [] 0).inSlice 0 0x1400 = true ∧ (spilt [] 0).inSlice 0 0x14FF = true ∧ narrow.exec ≠ 0 ∧ narrow.backed.contains 20 = true ∧
    8 * narrow.foot.ewin + 8 * narrow.foot.wwin ≤ 20 ∧ (∀ l, l < 64 → (spilt [] 0).lineBad ((0x1400 + 4 * l) / 128) = false) ∧
    (spilt [(0x29, true)] 0).lineBad (0x1480 / 128) = true ∧ (spilt [(0x29, true)] 0).lineBad (0x147C / 128) = false ∧
    (spilt [] 0x40000000).inSlice 0 0x40001400 = false := by
  unfold inWindows; decide +kernel
theorem test_backing_partial_write_keeps_poison :
    (match exec (.vmovShort false 20 3) { spilt [(0x28, true), (0x29, true)] 0 with waves := [{ narrow with exec := 0xFFFFFFFF }] } with
     | .next t => (t.poisoned 0x28, t.poisoned 0x29)
     | _ => (true, false)) = (false, true) := by decide +kernel

/-! ### Witnesses for the clauses on failures, and on what operations leave -/

/-- The read set with version 1, which the line does not have. -/
def stale : State := { dev wave with scratch := memPutAll [] 0 (toBytes 16 (1 + 0x20000 * 2 ^ 64) ++ toBytes 16 (0x10000 + 2 ^ 64)) }
theorem witness_VersionedResults_stale : stale.issuing = some wave ∧ stale.spadTarget wave 0 = some 0 ∧ stale.spadTarget wave 16 = some 16 ∧
    leNat (stale.spadBytes 0 16) = 1 + 0x20000 * 2 ^ 64 ∧ leNat (stale.spadBytes 16 16) = 0x10000 + 1 * 2 ^ 64 ∧ Plain stale wave 0x10000 1 false (pageAt 0x10000) ∧
    Plain stale wave 0x20000 4 true (pageAt 0x20000) ∧ stale.releaseHeld wave.core (0x20000 / 128) 4 = false ∧
    ((reached stale wave 0 0x10000 (pageAt 0x10000)).homeTake wave.core (0x10000 / 128)).version (0x10000 / 128) ≠ BitVec.ofNat 48 1 ∧
    ((distinct [0x10000 / 128, 0x20000 / 128]).foldl (fun s l => s.homeTake wave.core l)
      (stale.reach wave [{ lane := 0, va := 0x10000, page := pageAt 0x10000 }, { lane := 0, va := 0x20000, page := pageAt 0x20000 }] true)).version (0x10000 / 128) ≠
      BitVec.ofNat 48 1 :=
  ⟨rfl, by decide +kernel, by decide +kernel, by decide +kernel, by decide +kernel,
    ⟨by decide +kernel, by decide +kernel, by decide +kernel, by decide +kernel, by decide +kernel, by decide +kernel, by decide +kernel, by decide +kernel⟩,
    ⟨by decide +kernel, by decide +kernel, by decide +kernel, by decide +kernel, by decide +kernel, by decide +kernel, by decide +kernel, by decide +kernel⟩,
    by decide +kernel, by decide +kernel, by decide +kernel⟩

/-- The core of the wave has line 0x200 with a dirty byte, and a store of the wave is in flight. -/
def dirtied : State := { dev ptr with l1 := [dirty], proxy := [hostLine], ops := [{ op .store .none with cls := some .ST }] }
def named : Resolved :=
  dirtied.resolve ptr.view ((List.range (1 : Half).toNat).map (fun i => (0, (ptr.pair (2 : R8).toNat).toNat / 128 * 128 + 128 * i))) 1 false noDeny
theorem witness_CacheControlResults_dirty : dirtied.issuing = some ptr ∧ named = .ok (accsOf named) ∧ (accsOf named).map (fun g => g.page.pa / 128) = [0x200] ∧
    (∀ g ∈ accsOf named, dirtied.owned (g.page.pa / 128) = false) ∧ dirtied.proxy.length + (1 : Half).toNat ≤ 524288 ∧
    dirtied.l1Find ptr.core 0x200 = some dirty ∧ dirty.dirty.getLsbD 0 = true ∧ (0x200 + 1) * 128 ≤ Config.dramBytes ∧
    (0 : BitVec 6).toNat < dirtied.classCount ptr.uid .ST := ⟨rfl, by decide +kernel⟩

/-- A quarter of f32 ones, and slots whose columns hold zeros or NaNs. -/
def ones : Quarter :=
  { quarter with aty := 2, bty := 2, acct := 2, rows := [(7, List.replicate 8 0x3F800000)], taken := [(7, List.replicate 8 true)] }
/-- A sparse quarter of bf16, which keeps two of every four positions, and an i8 one that keeps every other. -/
def kept (n : Nat) : List Bool := (List.range n).map (fun k => k % 4 == 1 || k % 4 == 3)
def sparse : Quarter := { quarter with aty := 3, bty := 3, acct := 2, sp := true, rows := [(7, List.replicate 16 0x3F80)], taken := [(7, kept 16)] }
def mixed : Quarter := { quarter with taken := [(7, kept 32)] }
def slotOf (ty : Nat) (c : BitVec 256) : BSlot := { fullSlot with ty := ty, cols := List.replicate 128 c }
def passing (q : Quarter) (c : BitVec 256) : State := State.at { dev wave with passes := [(0, [q])], bslots := [(3, slotOf q.bty c)] } {}
def f16b : FloatType := { eb := 8, mb := 7, nan := 0x7FC0 }
theorem witness_MatrixPassResults_floats : (passing ones 0).passes = [(0, [ones])] ∧ (passing ones 0).slot 0 3 = slotOf 2 0 ∧ (slotOf 2 0).cols.length = 128 ∧
    floatType ones.aty = some f32 ∧ combination ones.aty ones.bty ones.sp 2 = some (8, 8) ∧ (passing sparse 0).passes = [(0, [sparse])] ∧
    (passing sparse 0).slot 0 3 = slotOf 3 0 ∧ floatType sparse.aty = some f16b ∧ combination sparse.aty sparse.bty sparse.sp 2 = some (16, 5) ∧
    (passing mixed 0).passes = [(0, [mixed])] ∧ (kept 32).length = 32 ∧ (kept 16).length = 16 ∧ (kept 16).getD 1 false = true ∧ f32.isFinite ((passing ones 0).acc 0 5 7 127) ∧ f32.isFinite (BitVec.ofNat 32 0x3F800000) ∧
    f16b.isFinite (BitVec.ofNat 32 0x3F80) ∧ f32.isFinite 0 ∧ f32.isNan (BitVec.ofNat 32 (((slotOf 2 (BitVec.allOnes 256)).cols.getD 127 0).toNat / 2 ^ 0)) := by
  simp only [FloatType.isNan, FloatType.isFinite]
  decide +kernel

/-- A load of a block of 32 by 128 elements of i8, of which one element lies in the tensor. -/
def blockOp : Op := op (.bload 5 bLay [0, 0]) (.token 40)
theorem blockOp_page (k j : Nat) (h : decide (0 ≤ (0 : Int) + (k : Int) ∧ (0 : Int) + (k : Int) < (bLay.extent.getD 0 0 : Int) ∧ 0 ≤ (0 : Int) + (j : Int) ∧
      (0 : Int) + (j : Int) < (bLay.extent.getD 1 0 : Int)) = true) :
    EnginePage (flying blockOp) blockOp (((bLay.base : Int) + (0 + k) + (0 + j) * bLay.stride.getD 1 0) % 2 ^ 64).toNat 1 false (pageAt 0x20000) := by
  have e : bLay.extent = [1, 1] := by decide +kernel
  rw [e] at h
  simp only [List.getD_cons_zero, List.getD_cons_succ, decide_eq_true_eq] at h
  obtain rfl : k = 0 := by omega
  obtain rfl : j = 0 := by omega
  exact ⟨by decide +kernel, by decide +kernel, by decide +kernel, by decide +kernel, by decide +kernel, by decide +kernel⟩
theorem witness_SlotLoads_bytes : (flying blockOp).op? 0 = some blockOp ∧ (flying blockOp).portLost 0 = false ∧ (flying blockOp).slotFree 0 0 5 = true ∧
    (flying blockOp).reloading 0 5 = false ∧ (∀ y ∈ (flying blockOp).ops, y.id ≤ blockOp.id) ∧ (flying blockOp).ownerLeaves blockOp = false ∧
    (flying blockOp).feeds = [] ∧ blockOp.pins = [] ∧ (flying blockOp).holders = [] ∧ bLay.ty = 7 ∧ bLay.ndim = 2 ∧ bLay.box = [32, 128] ∧ bLay.circ = 0 ∧ bLay.perm = 0 ∧
    bLay.sp = false ∧ ((flying blockOp).slot 0 5).cols = [] ∧
    (∀ k j : Nat, k < 32 → j < 128 → decide (0 ≤ (0 : Int) + (k : Int) ∧ (0 : Int) + (k : Int) < (bLay.extent.getD 0 0 : Int) ∧ 0 ≤ (0 : Int) + (j : Int) ∧
      (0 : Int) + (j : Int) < (bLay.extent.getD 1 0 : Int)) = true →
      EnginePage (flying blockOp) blockOp (((bLay.base : Int) + (0 + k) + (0 + j) * bLay.stride.getD 1 0) % 2 ^ 64).toNat 1 false (pageAt 0x20000)) :=
  ⟨by decide +kernel, by decide +kernel, by decide +kernel, by decide +kernel, by decide +kernel, by decide +kernel, by decide +kernel, by decide +kernel,
    by decide +kernel, by decide +kernel, by decide +kernel, by decide +kernel, by decide +kernel, by decide +kernel, by decide +kernel, by decide +kernel,
    fun k j _ _ h => blockOp_page k j h⟩

/-- A take of slots 0 of a block with one slot, which leave it; and a filled window whose block keeps no slot, or one. -/
theorem witness_EstateEventResults_leaving : ((takeDev [3] [] true).domain 0 4095).keep = false ∧
    (takeDev [3] [] true).groupBlock 0 4095 3 = some { block .resident .resident with rfblk := 700 } ∧
    (∃ e ∈ (taking [3] []).groupLanes 3, ((1 : LaneMask) &&& ~~~ (takeDev [3] [] true).claimedBy 0 (taking [3] []).uid).getLsbD e.2 = true) := by decide +kernel
def emptied (present : LaneMask) (from_ : Loc) : Block := { block .moving .resident with present := present, held := from_, taker := some 0 }
def filled (b : Block) : State := State.at { estDev (taking [] [(255, 1, zeroV)]) none with blocks := [b] } {}
theorem witness_EstateEventResults_freed (b : Block) (_ : b ∈ [emptied 0 .resident, emptied 2 .resident, emptied 2 .orchard]) :
    eventWave (filled b) (taking [] [(255, 1, zeroV)]) ∧ (filled b).block? b.id = some b ∧ (∀ x ∈ (filled b).blocks, x.id = b.id → x = b) ∧
    b.taker = some (taking [] [(255, 1, zeroV)]).uid ∧ (b.present = 0 ∨ b.held = .resident ∨ b.held = .orchard) := by
  refine ⟨⟨rfl, rfl⟩, by simp [filled, State.at, State.block?], by simp [filled, State.at], ?_⟩
  simp only [List.mem_cons, List.not_mem_nil, or_false] at *
  rename_i h
  rcases h with rfl | rfl | rfl <;> decide +kernel

def cpFails : CpRead → Bool
  | .fail _ => true
  | _ => false
def cpBytes : CpRead → Option (List Byte)
  | .ok _ b => some b
  | _ => none
theorem cpFails_of {r : CpRead} (h : cpFails r = true) : ∃ s, r = .fail s := by
  cases r with
  | fail s => exact ⟨s, rfl⟩
  | _ => simp [cpFails] at h
theorem cpOk_of {r : CpRead} {b : List Byte} (s : State) (h : cpBytes r = some b) : r = .ok (cpState s r) b := by
  cases r <;> simp_all [cpBytes, cpState]
/-- Queue descriptors that cannot be used: misaligned, outside the slice, with QLOG 5, with an index outside the slice. -/
def qdOf (ridx widx qlog : Nat) : List Byte := toBytes 128 (0x50000 + ridx * 2 ^ 64 + widx * 2 ^ 128 + qlog * 2 ^ 192 + 2 ^ 233)
def qdIs (ridx widx qlog : Nat) : QDesc :=
  { qbase := 0x50000, ridxAddr := ridx, widxAddr := widx, qlog := qlog, pmax := 0, pasid := 0, pv := false, ie := false, vec := 0, errSig := 0, trapAddr := 0 }
def enableAt (addr : DWord) (ridx widx qlog : Nat) : State := qDev { off with qdescAddr := addr } {} [(0x40000, qdOf ridx widx qlog)]
def descRead (s : State) (addr : Nat) : CpRead := s.cpAcquire.cpRead ownSpace 0 addr 128
def idxRead (s : State) (addr : Nat) : CpRead := (cpState State.reset (descRead s 0x40000)).cpRead ownSpace 0 addr 8
theorem witness_QueueCommandResults_fails : (0x40040 : DWord).toNat % 128 ≠ 0 ∧ (∃ s1, descRead (enableAt 0x100000000 0x60000 0x60008 6) 0x100000000 = .fail s1) ∧
    (∃ s1 raw, descRead (enableAt 0x40000 0x60000 0x60008 5) 0x40000 = .ok s1 raw ∧ refusedDescriptor (leNat raw)) ∧
    (∃ s1 raw d s2, descRead (enableAt 0x40000 0x100000000 0x60008 6) 0x40000 = .ok s1 raw ∧ parseQDesc raw = some d ∧ d.pv = false ∧ d.pasid = 0 ∧
      s1.cpRead ownSpace 0 d.ridxAddr 8 = .fail s2) ∧
    (∃ s1 raw d s2 s3 r, descRead (enableAt 0x40000 0x60000 0x100000000 6) 0x40000 = .ok s1 raw ∧ parseQDesc raw = some d ∧ s1.cpRead ownSpace 0 d.ridxAddr 8 = .ok s2 r ∧
      s2.cpRead ownSpace 0 d.widxAddr 8 = .fail s3) := by
  obtain ⟨s1, h1⟩ := cpFails_of (r := descRead (enableAt 0x100000000 0x60000 0x60008 6) 0x100000000) (by decide +kernel)
  obtain ⟨s2, h2⟩ := cpFails_of (r := idxRead (enableAt 0x40000 0x100000000 0x60008 6) 0x100000000) (by decide +kernel)
  obtain ⟨s3, h3⟩ := cpFails_of (r := (cpState State.reset (idxRead (enableAt 0x40000 0x60000 0x100000000 6) 0x60000)).cpRead ownSpace 0 0x100000000 8)
    (by decide +kernel)
  refine ⟨by decide +kernel, ⟨s1, h1⟩,
    ⟨_, qdOf 0x60000 0x60008 5, cpOk_of State.reset (by decide +kernel), Or.inl (by decide +kernel)⟩,
    ⟨_, qdOf 0x100000000 0x60008 6, qdIs 0x100000000 0x60008 6, s2, cpOk_of State.reset (by decide +kernel), by decide +kernel, rfl, rfl, h2⟩,
    ⟨_, qdOf 0x60000 0x100000000 6, qdIs 0x60000 0x100000000 6, _, s3, toBytes 8 0, cpOk_of State.reset (by decide +kernel), by decide +kernel,
      cpOk_of State.reset (by decide +kernel), h3⟩⟩

/-- A ring whose first packet is given, with what stands at its kernel's address. -/
def ringQ (base : Nat) : Queue := { bigQ with desc := { bigQ.desc with qbase := base } }
def ringWith (base raw : Nat) (kernel : List Byte) : State := qDev (ringQ base) {} [(0x50000, toBytes 64 raw), (0x10000, kernel)]
def headOf (s : State) : CpRead := s.cpRead (Queue.space bigQ) 0 0x50000 4
def bodyOf (s : State) : CpRead := (cpState State.reset (headOf s)).cpAcquire.cpRead (Queue.space bigQ) 0 0x50000 64
def kernelOf (s : State) (addr : Nat) : CpRead := (cpState State.reset (bodyOf s)).cpRead (Queue.space bigQ) 0 addr 128
/-- The packet of a ring is read. -/
def readsPacket (raw : Nat) (kernel : List Byte) : Prop :=
  ∃ s1 s2, headOf (ringWith 0x50000 raw kernel) = .ok s1 (toBytes 4 (raw % 2 ^ 32)) ∧ ((toBytes 4 (raw % 2 ^ 32)).headD 0).getLsbD 0 = true ∧
    s1.cpAcquire.cpRead (Queue.space bigQ) 0 0x50000 64 = .ok s2 (toBytes 64 raw) ∧ BitVec.ofNat 512 (leNat (toBytes 64 raw)) = BitVec.ofNat 512 raw
theorem reads_of (raw : Nat) (kernel : List Byte) (h : cpBytes (headOf (ringWith 0x50000 raw kernel)) = some (toBytes 4 (raw % 2 ^ 32)) ∧
    ((toBytes 4 (raw % 2 ^ 32)).headD 0).getLsbD 0 = true ∧ cpBytes (bodyOf (ringWith 0x50000 raw kernel)) = some (toBytes 64 raw) ∧
    BitVec.ofNat 512 (leNat (toBytes 64 raw)) = BitVec.ofNat 512 raw) : readsPacket raw kernel :=
  ⟨_, _, cpOk_of State.reset h.1, h.2.1, cpOk_of State.reset h.2.2.1, h.2.2.2⟩
def farRaw : Nat := 1 + 1 * 2 + 65 * 2 ^ 256 + 0x100000000 * 2 ^ 64
def kdBytes : List Byte := toBytes 128 (8 + 3 * 2 ^ 56)
def kernelState : State := cpState State.reset (kernelOf (ringWith 0x50000 launchRaw kdBytes) 0x10000)
theorem witness_PacketFlowResults_refused : eventQueue (ringWith 0x50000 (plainRaw 5 0) []) (ringQ 0x50000) ∧ (ringQ 0x50000).state = .idle ∧
    (ringQ 0x50000).disabling = false ∧ (ringQ 0x50000).ridx < (ringQ 0x50000).widx ∧ (ringWith 0x50000 (plainRaw 5 0) []).served 0 = true ∧
    (∃ s1, (ringWith 0x100000000 (plainRaw 5 0) []).cpRead (Queue.space bigQ) 0 ((ringQ 0x100000000).slotAddr 0) 4 = .fail s1) ∧
    (readsPacket (plainRaw 0 0) [] ∧ (packet (plainRaw 0 0) .consumed).ty = 0) ∧ (readsPacket (plainRaw 9 0) [] ∧ 8 < (packet (plainRaw 9 0) .consumed).ty) ∧
    (readsPacket (plainRaw 5 (2 ^ 20)) [] ∧ (packet (plainRaw 5 (2 ^ 20)) .consumed).wellFormed = false) ∧
    (readsPacket farRaw [] ∧ (packet farRaw .consumed).wellFormed = true ∧ (packet farRaw .consumed).hasKernel = true ∧ (packet farRaw .consumed).fld 120 64 = 0x100000000 ∧
      ∃ s3, kernelOf (ringWith 0x50000 farRaw []) 0x100000000 = .fail s3) ∧
    (readsPacket launchRaw (toBytes 128 0) ∧ (packet launchRaw .consumed).wellFormed = true ∧ (packet launchRaw .consumed).fld 120 64 = 0x10000 ∧
      ∃ s3, kernelOf (ringWith 0x50000 launchRaw (toBytes 128 0)) 0x10000 = .ok s3 (toBytes 128 0) ∧ parseKDesc 0x10000 (toBytes 128 0) = none) ∧
    (readsPacket launchRaw kdBytes ∧ kernelOf (ringWith 0x50000 launchRaw kdBytes) 0x10000 = .ok kernelState kdBytes ∧ (∃ k, parseKDesc 0x10000 kdBytes = some k) ∧
      kernelState.page (cpView (Queue.space bigQ) 0) 0x50000 true = .ok (pageAt 0x50000) ∧
      kernelState.page (cpView (Queue.space bigQ) 0) bigQ.desc.ridxAddr true = .ok (pageAt 0x60000) ∧ kernelState.runHeld none 0x50000 1 = false ∧
      kernelState.runHeld none 0x60000 8 = false) :=
  ⟨⟨by decide, by decide, rfl⟩, rfl, rfl, by decide, by decide +kernel, cpFails_of (by decide +kernel), ⟨reads_of _ _ (by decide +kernel), by decide +kernel⟩,
    ⟨reads_of _ _ (by decide +kernel), by decide +kernel⟩, ⟨reads_of _ _ (by decide +kernel), by decide +kernel⟩,
    ⟨reads_of _ _ (by decide +kernel), by decide +kernel, by decide +kernel, by decide +kernel, cpFails_of (by decide +kernel)⟩,
    ⟨reads_of _ _ (by decide +kernel), by decide +kernel, by decide +kernel, _, cpOk_of State.reset (by decide +kernel), by decide +kernel⟩,
    ⟨reads_of _ _ (by decide +kernel), cpOk_of State.reset (by decide +kernel), Option.isSome_iff_exists.mp (by decide +kernel), by decide +kernel, by decide +kernel,
      by decide +kernel, by decide +kernel⟩⟩

/-- A close of domain 5, open, alone in its queue; and behind a launch of one wave that gives domain 5 away. -/
def closing : Packet := packet (1 + 6 * 2 + 5 * 2 ^ 32) .consumed
def openClose : State := (withPacket closing []).putDomain 0 5 openDom
def namer : Packet := packet (launchRaw + 2 ^ 17 + 5 * 2 ^ 32) .started
def closingNext : Packet := { closing with idx := 1 }
def bothQ : Queue := { queue with packets := [namer, closingNext] }
def behind : State := { (qDev bothQ {} []).putDomain 0 5 openDom with launches := [launch none none] }
theorem witness_PacketEffectResults_close : starts openClose (pq closing) closing .estateClose ∧ (∀ y ∈ (pq closing).packets, y.idx < closing.idx → y.names 5 = false) ∧
    (∀ y ∈ (pq closing).packets, y.stage = .started → y.waits = false) ∧ closing.fld 43 32 = 5 ∧ (openClose.domain 0 5).state = .open ∧
    starts behind bothQ closingNext .estateClose ∧ bothQ.packets = [namer, closingNext] ∧ namer.idx < closingNext.idx ∧ namer.names 5 = true ∧ namer.stage = .started ∧
    behind.launch? namer.launch = some (launch none none) ∧ wave ∈ behind.waves ∧ wave.launch = (launch none none).id :=
  ⟨⟨⟨by decide, by decide, rfl⟩, by decide +kernel, by decide +kernel, by decide +kernel, by decide +kernel⟩, by decide +kernel, by decide +kernel, by decide +kernel,
    by decide +kernel, ⟨⟨by decide, by decide, by decide +kernel⟩, by decide +kernel, by decide +kernel, by decide +kernel, by decide +kernel⟩, by decide +kernel⟩

/-- Host memory of process 5, whose pages 0x10 to 0x15 are the host's pages of those numbers: a context at 0x10000 in state 3 with one
accepted step, a free one at 0x10040, the history of each, their segment, which has two references, and a grammar of four states whose state
3 goes to 2 on token 1. -/
def gCells : List (Nat × List Byte) :=
  [(0x10000, toBytes 64 (1 + 2 * 2 ^ 168 + 3 * 2 ^ 208 + 2 ^ 224 + 0x12000 * 2 ^ 240 + 0x13000 * 2 ^ 304 + 0x11000 * 2 ^ 368 + 0x14000 * 2 ^ 432)),
   (0x10040, toBytes 64 (0x15000 * 2 ^ 368 + 0x14000 * 2 ^ 432)), (0x11000, toBytes 16 (1 + 0x12000 * 2 ^ 64) ++ toBytes 16 (2 + 2 ^ 32 + 0x12000 * 2 ^ 64)),
   (0x12000, toBytes 44 (2 * 2 ^ 320)),
   (0x13000, toBytes 128 (0xB7A13E03 + 2 ^ 64 + 4 * 2 ^ 80 + 4 * 2 ^ 85 + 2 ^ 102 + 2 * 2 ^ 128 + 0xFFFFF * 2 ^ 160 + 0x80 * 2 ^ 192 + 0x100 * 2 ^ 224)),
   (0x130E0, toBytes 32 (2 ^ 128 + 0x200 * 2 ^ 96)),
   (0x13160, toBytes 16 (2 * 2 ^ 60 + 3 * 2 ^ 76 + 2 ^ 92 + 2 ^ 112)), (0x13200, toBytes 4 (2 ^ 31 + 1))]
def gView : View := { sp := { fn := 0, pv := true, pasid := 5 }, part := 0, tlbs := [], refused := [], cp := false, op := some 9 }
def gDev : State :=
  { dev wave with
    mem := (dev wave).mem ++ gCells.flatMap (fun e => ((List.range e.2.length).map (fun i => (Config.sysBase + e.1 + i, e.2.getD i 0))).filter (fun c => c.2 != 0))
    ats := [0x10, 0x11, 0x12, 0x13, 0x14, 0x15].map (fun p => ((5, p), { hostPage := p, w := true, x := true })) }
def gJob (fn : BrambleFn) (ctx arg : Nat) (imm : Int) : BrambleJob := { fn := fn, lane := 0, ctx := ctx, arg := arg, imm := imm, hist := none }
def hostSpot (s : State) (va n : Nat) : Bool :=
  (match s.page gView va true with | .ok p => p.pa == Config.sysBase + va | _ => false) && decide (Config.sysBase + va + n ≤ Config.peerBase) &&
    decide ((Config.sysBase + va) % 128 + n ≤ 128) && decide (va % 4096 + n ≤ 4096) && !s.homeHeld gView.op ((Config.sysBase + va) / 128) none &&
    !s.lineBad ((Config.sysBase + va) / 128)
theorem hostSpot_of {s : State} {va n : Nat} (h : hostSpot s va n = true) : HostSpot s gView va n (Config.sysBase + va) := by
  simp only [hostSpot, Bool.and_eq_true, Bool.not_eq_true', decide_eq_true_eq] at h
  obtain ⟨⟨⟨⟨⟨h1, h2⟩, h3⟩, h4⟩, h5⟩, h6⟩ := h
  refine ⟨rfl, ?_, ⟨by omega, h2⟩, h3, h4, h5, h6⟩
  split at h1
  · next p hp => exact ⟨p, hp, by simpa using h1⟩
  · exact absurd h1 (by decide)
def gVal {α : Type} : GOut α → Option α
  | .ok a _ => some a
  | _ => none
def gState_ {α : Type} : GOut α → State
  | .ok _ s => s
  | _ => State.reset
theorem gOk {α : Type} {x : GOut α} {a : α} (h : gVal x = some a) : x = .ok a (gState_ x) := by
  cases x <;> simp_all [gVal, gState_]
/-- The fields of the context and of the header, and the parts of the step. -/
def gC : CtxFields :=
  { pool := 0x14000, hist := 0x11000, image := 0x13000, stkseg := 0x12000, depth := 1, state := 3, steps := 2, commit := 0, flags := 1 }
def gX : GCtx :=
  { addr := 0x10000, pool := 0x14000, hist := 0x11000, image := 0x13000, stk := 0x12000, depth := 1, state := 3, steps := 2, commit := 0, error := false,
    rejected := false, active := true }
def g1 : State := gState_ (gDev.gCtx gView 0x10000)
def gH : GHead := { image := 0x13000, trans := 0x100, states := 0x80, eos := 0xFFFFF, vocab := 2, nsym := 1, nstate := 4, hashLog := 4, good := true }
def g2 : State := gState_ (g1.gHead gView 0x13000)
def g3 : State := gState_ (g2.gAllowed gView gH gX 1)
def g4 : State := gState_ (g3.gStepTo gView gH gX 1)
theorem witness_BrambleResults_records : quiet gDev ∧ HostSpot gDev gView 0x10000 64 (Config.sysBase + 0x10000) ∧ HostSpot gDev gView 0x10040 64 (Config.sysBase + 0x10040) ∧
    HostSpot gDev gView 0x13000 128 (Config.sysBase + 0x13000) ∧ HostSpot gDev gView 0x11010 16 (Config.sysBase + 0x11010) ∧
    HostSpot gDev gView 0x11000 16 (Config.sysBase + 0x11000) ∧ HostSpot gDev gView 0x12000 64 (Config.sysBase + 0x12000) ∧
    ctxFields (homeNat gDev (Config.sysBase + 0x10000) 64) = gC ∧ (ctxFields (homeNat gDev (Config.sysBase + 0x10040) 64)).flags = 0 ∧
    (ctxFields (homeNat gDev (Config.sysBase + 0x10040) 64)).pool = gC.pool ∧ 2 ≤ homeNat gDev (Config.sysBase + 0x12000 + 40) 4 ∧
    homeNat gDev (Config.sysBase + 0x11000) 16 / 2 ^ 64 % 2 ^ 57 = 0x12000 ∧ gC.hist + 16 * ((gC.steps - 1) % 64) = 0x11010 ∧ gC.hist + 16 * (gC.commit % 64) = 0x11000 ∧
    goodHeader (homeNat gDev (Config.sysBase + 0x13000) 128) ∧ homeNat gDev (Config.sysBase + 0x13000) 128 / 2 ^ 85 % 2 ^ 17 = 4 ∧
    apart (Config.sysBase + 0x10000) 64 (Config.sysBase + 0x10040) 64 ∧ apart (Config.sysBase + 0x10000) 64 (Config.sysBase + 0x12000) 64 := by
  refine ⟨⟨by decide +kernel, by decide +kernel⟩, hostSpot_of (by decide +kernel), hostSpot_of (by decide +kernel), hostSpot_of (by decide +kernel), hostSpot_of (by decide +kernel),
    hostSpot_of (by decide +kernel), hostSpot_of (by decide +kernel), ?_⟩
  simp only [goodHeader, apart]
  decide +kernel
theorem gX_read : gVal (gDev.gCtx gView 0x10000) = some gX := by decide +kernel
theorem gH_read : gVal (g1.gHead gView 0x13000) = some gH := by decide +kernel
theorem g_allowed : gVal (g2.gAllowed gView gH gX 1) = some true := by decide +kernel
theorem g_next : gVal (g3.gStepTo gView gH gX 1) = some (2, 0, 0) := by decide +kernel
theorem g4_spots : ((g4.holders = [] ∧ g4.proxy.length + 16 ≤ 524288) ∧ hostSpot g4 0x10000 64 = true ∧ hostSpot g4 0x11020 16 = true) ∧ hostSpot g4 0x12000 64 = true := by
  decide +kernel
theorem witness_BrambleResults_step : gDev.gCtx gView 0x10000 = .ok gX g1 ∧ g1.gHead gView gX.image = .ok gH g2 ∧ g2.gAllowed gView gH gX 1 = .ok true g3 ∧
    g3.gStepTo gView gH gX 1 = .ok (2, 0, 0) g4 ∧ quiet g4 ∧ HostSpot g4 gView 0x10000 64 (Config.sysBase + 0x10000) ∧
    gC.hist + 16 * (gC.steps % 64) = 0x11020 ∧ HostSpot g4 gView 0x11020 16 (Config.sysBase + 0x11020) ∧ HostSpot g4 gView 0x12000 64 (Config.sysBase + 0x12000) ∧
    apart (Config.sysBase + 0x10000) 64 (Config.sysBase + 0x11020) 16 ∧ apart (Config.sysBase + 0x11020) 16 (Config.sysBase + 0x12000) 64 := by
  refine ⟨gOk gX_read, gOk gH_read, gOk g_allowed, gOk g_next, g4_spots.1.1, hostSpot_of g4_spots.1.2.1, rfl, hostSpot_of g4_spots.1.2.2, hostSpot_of g4_spots.2, ?_⟩
  simp only [apart]
  decide +kernel

end Sys2Proof.Tests
end

section
/-! SUPPORT. Where a wave's vector registers lie (R99), and the moves to and from its backing store (R100, R146): bytes and words of
a register, whole lines written at their home, and the short vector forms. -/

open Sys2Proof Sys2Proof.Machine Sys2Proof.Claims

namespace Sys2Proof.Machine

/-! ### Bytes and words -/

theorem memBytes_add (m : List Host.Cell) (a j k : Nat) : memBytes m a (j + k) = memBytes m a j ++ memBytes m (a + j) k := by
  simp [memBytes, List.range_add, Nat.add_assoc, Function.comp_def]

@[simp] theorem length_memBytes (m : List Host.Cell) (a n : Nat) : (memBytes m a n).length = n := by simp [memBytes]

/-- The bytes that were put are read back as one run. -/
theorem memBytes_putAll_same (m : List Host.Cell) (a : Nat) (bs : List Byte) : memBytes (memPutAll m a bs) a bs.length = bs := by
  refine List.ext_getElem (by simp) fun i _ hi => ?_
  simp [memBytes, memByte_putAll_inside m a i bs hi, List.getElem?_eq_getElem hi]

theorem memPutAll_append (m : List Host.Cell) (a : Nat) (x y : List Byte) :
    memPutAll m a (x ++ y) = memPutAll (memPutAll m a x) (a + x.length) y := by
  induction x generalizing m a with
  | nil => rfl
  | cons b r ih => simp [memPutAll, ih, Nat.add_assoc, Nat.add_comm 1]

@[simp] theorem length_bytesFrom (v : VReg) : (bytesFrom v).length = 4 * v.length := by
  simp [bytesFrom, List.length_flatMap, length_toBytes, Nat.mul_comm]

/-- A register's words are the words that its bytes stand for. -/
theorem wordsFrom_bytesFrom (v : VReg) : wordsFrom v.length (bytesFrom v) = v := by
  induction v with
  | nil => rfl
  | cons x r ih =>
    have hb : bytesFrom (x :: r) = toBytes 4 x.toNat ++ bytesFrom r := rfl
    have hx : BitVec.ofNat 32 (leNat (toBytes 4 x.toNat)) = x := by
      rw [leNat_toBytes, Nat.mod_eq_of_lt (b := 256 ^ 4) x.isLt, BitVec.ofNat_toNat, BitVec.setWidth_eq]
    rw [List.length_cons, wordsFrom, hb, List.take_left' (length_toBytes 4 _), List.drop_left' (length_toBytes 4 _), hx, ih]

/-- Lane l of n words in memory is the word of its own four bytes. -/
theorem laneOf_wordsFrom_memBytes (m : List Host.Cell) (a n l : Nat) (h : l < n) :
    laneOf (wordsFrom n (memBytes m a (4 * n))) l = BitVec.ofNat 32 (leNat (memBytes m (a + 4 * l) 4)) := by
  induction n generalizing a l with
  | zero => omega
  | succ n ih =>
    rw [Nat.mul_succ, Nat.add_comm (4 * n), memBytes_add, wordsFrom, List.take_left' (length_memBytes m a 4), List.drop_left' (length_memBytes m a 4)]
    cases l with
    | zero => rfl
    | succ l =>
      have := ih (a + 4) l (by omega)
      rwa [show a + 4 + 4 * l = a + 4 * (l + 1) by omega] at this

/-! ### Whole lines at their home -/

theorem isSysLine_dram {line : Nat} (h : (line + 1) * 128 ≤ Config.dramBytes) : isSysLine line = false := by
  have : line * 128 < Config.sysBase := by simp only [Config.dramBytes, Config.sysBase] at *; omega
  simp [isSysLine, isSysPa, this]

theorem byteMask_line : byteMask 0 128 = BitVec.allOnes 128 := by decide

theorem patch_whole (old new : List Byte) (h : new.length = 128) : patch old new (BitVec.allOnes 128) = new := by
  refine List.ext_getElem (by simp [patch, h]) fun i _ hi => ?_
  have hi' : i < 128 := h ▸ hi
  simp only [patch, List.getElem_map, List.getElem_range, BitVec.getLsbD_allOnes, hi', decide_true, if_true, List.getD_eq_getElem _ _ hi]

/-- A write request of a whole line of device memory puts its bytes and no others. -/
theorem State.homePut_line_mem (s : State) {line : Nat} {bs : List Byte} (hl : bs.length = 128) (hd : (line + 1) * 128 ≤ Config.dramBytes) :
    (s.homePut (line * 128) bs).mem = memPutAll s.mem (line * 128) bs := by
  have hp : placed 0 bs = bs := by simp [placed, hl]
  simp only [State.homePut, State.homeWrite, State.lineWrite, Nat.mul_div_cancel line (Nat.zero_lt_succ 127), Nat.mul_mod_left, hl, byteMask_line, hp,
    isSysLine_dram hd, patch_whole _ bs hl, beq_self_eq_true, if_true, Bool.false_eq_true, if_false]

theorem linesOf_lines (line k : Nat) : linesOf (line * 128) (128 * k) = (List.range k).map (line + ·) := by
  cases k with
  | zero => rfl
  | succ k =>
    have hn : (line * 128 + 128 * (k + 1) - 1) / 128 - line * 128 / 128 + 1 = k + 1 := by omega
    rw [linesOf, if_neg (by omega), hn, Nat.mul_div_cancel line (Nat.zero_lt_succ 127)]

/-- One line of a run of bytes reaches its home: the run's i-th. -/
def State.putLineOf (line : Nat) (bs : List Byte) (s : State) (i : Nat) : State :=
  s.homePut ((line + i) * 128) ((bs.drop (128 * i)).take 128)

/-- A run of whole lines goes out line by line. -/
theorem State.homeRun_lines (s : State) {line k : Nat} {bs : List Byte} (hk : bs.length = 128 * k) :
    s.homeRun (line * 128) bs = (List.range k).foldl (State.putLineOf line bs) s := by
  simp only [State.homeRun, hk, linesOf_lines, List.foldl_map]
  refine List.foldl_ext _ _ s fun t i hi => ?_
  have hi := List.mem_range.1 hi
  have hlo : max (line * 128) ((line + i) * 128) = (line + i) * 128 := by omega
  have hhi : min (line * 128 + 128 * k) ((line + i) * 128 + 128) = (line + i) * 128 + 128 := by omega
  rw [hlo, hhi, State.putLineOf, show (line + i) * 128 - line * 128 = 128 * i by omega, Nat.add_sub_cancel_left]

/-- A run of whole lines of device memory: its bytes are put and no others. -/
theorem State.homeRun_lines_mem (s : State) {line k : Nat} {bs : List Byte} (hk : bs.length = 128 * k)
    (hd : (line + k) * 128 ≤ Config.dramBytes) : (s.homeRun (line * 128) bs).mem = memPutAll s.mem (line * 128) bs := by
  rw [State.homeRun_lines s hk]
  have upTo (j : Nat) (hj : j ≤ k) : ((List.range j).foldl (State.putLineOf line bs) s).mem = memPutAll s.mem (line * 128) (bs.take (128 * j)) := by
    induction j with
    | zero => rfl
    | succ j ih =>
      have hlen : ((bs.drop (128 * j)).take 128).length = 128 := by simp; omega
      have htake : bs.take (128 * (j + 1)) = bs.take (128 * j) ++ (bs.drop (128 * j)).take 128 := List.take_add
      rw [List.range_succ, List.foldl_concat, State.putLineOf, State.homePut_line_mem _ hlen (by omega), ih (by omega), htake, memPutAll_append,
        List.length_take_of_le (by omega), Nat.add_mul, Nat.mul_comm j]
  rw [upTo k le_rfl, List.take_of_length_le hk.le]

/-! ### Words of the read-only special registers -/

theorem opOf_leadW (c : Bool) (op : Nat) (f : BitVec 24) : opOf (leadW c op f) = op % 128 := by
  have h : fld (leadW c op f) 24 7 = BitVec.ofNat 7 op :=
    (BitVec.extractLsb'_append_eq_of_add_le (by decide)).trans ((BitVec.extractLsb'_append_eq_of_le (by decide)).trans BitVec.extractLsb'_eq_self)
  rw [opOf, h, BitVec.toNat_ofNat]

theorem fA_leadW (c : Bool) (op : Nat) (a b d : R8) : fA (leadW c op (p3 a b d)) = a :=
  (BitVec.extractLsb'_append_eq_of_add_le (by decide)).trans ((BitVec.extractLsb'_append_eq_of_add_le (by decide)).trans
    ((BitVec.extractLsb'_append_eq_of_le (by decide)).trans BitVec.extractLsb'_eq_self))

/-- A word that writes a read-only special register does not decode (R152). -/
theorem decodeWords_sput_readOnly {w0 : Word} (hop : opOf w0 = 0x2F) (h : sregWritable (fA w0) = false) :
    decodeWords false [] [w0] = .illegalEncoding := by
  have hp (w1 w2 : Word) : parse w0 w1 w2 = some (.sput (cOf w0) (fA w0) (fB w0), fD w0 == 0) := by simp only [parse, hop, parse2]
  have hw : (Instr.sput (cOf w0) (fA w0) (fB w0)).wf = false := by
    have he : (Instr.sput (cOf w0) (fA w0) (fB w0)).wf = (sregWritable (fA w0) && _) := rfl
    rw [he, h, Bool.false_and]
  have hn : opWords 0x2F = 1 := rfl
  have hx : (Instr.sput (cOf w0) (fA w0) (fB w0)).experimental = false := rfl
  simp [decodeWords, hop, hp, hw, hn, hx]

theorem loWord_ofNat (v : Nat) : loWord (BitVec.ofNat 64 v) = BitVec.ofNat 32 v := by
  simp [loWord, BitVec.setWidth_ofNat_of_le]

/-- `sget` of a 32-bit special register (R152). -/
theorem exec_sget_word {s : State} {w : Wave} (hs : s.issuing = some w) (c : Bool) (d : R8) {n : R8} (hn : sregWidth n = 32) :
    exec (.sget c d n) s = becomes s ((w.setS d.toNat (loWord (s.sreg w n.toNat))).advance 1 c .S) := by
  have he : exec (.sget c d n) s = s.scalar 1 c _ := rfl
  simp only [he, State.scalar, State.onWave_issuing hs, hn, becomes, if_false, Nat.reduceEqDiff]

/-- A read-only special register of 32 bits: `sget` copies it, and no `sput` word of it decodes (R151, R152). -/
theorem sget_sput_readOnly {s : State} {w : Wave} {num : R8} {v : Nat} (hv : s.sreg w num.toNat = BitVec.ofNat 64 v) (hr : sregWidth num = 32)
    (hw : sregWritable num = false) (c : Bool) (d : R8) :
    (s.issuing = some w → exec (.sget c d num) s = becomes s ((w.setS d.toNat (BitVec.ofNat 32 v)).advance 1 c .S)) ∧
      decodeWords false [] [leadW false 0x2F (p3 num d 0)] = .illegalEncoding := by
  refine ⟨fun hs => ?_, decodeWords_sput_readOnly (opOf_leadW _ _ _) (by rwa [fA_leadW])⟩
  rw [exec_sget_word hs c d hr, hv, loWord_ofNat]

/-! ### Homes -/

/-- The cores that WaveIndex() counts (R99): those of the partition below the wave's own. -/
theorem State.waveIndex_eq (s : State) (w : Wave) :
    s.waveIndex w = 128 * ((List.range w.core).filter (fun k => decide (k < 192) && (s.part w.part).clusters.testBit (k / 8))).length + w.slot := by
  refine congrArg (128 * · + w.slot) (List.Perm.length_eq ?_)
  refine (List.perm_ext_iff_of_nodup ((List.nodup_range.filter _).filter _) (List.nodup_range.filter _)).2 fun k => ?_
  simp only [coreCluster, List.mem_filter, List.mem_range, Bool.and_eq_true, decide_eq_true_eq]
  tauto

theorem State.vloc_estate (s : State) {w : Wave} {n : Nat} (h : n < 8 * w.foot.ewin) :
    s.vloc w n = .row (rowKey w.cc (w.ebase + n / 8) (n % 8)) := by simp [State.vloc, h]

theorem State.vloc_work (s : State) {w : Wave} {n : Nat} (he : 8 * w.foot.ewin ≤ n) (h : n < 8 * w.foot.ewin + 8 * w.foot.wwin) :
    s.vloc w n = .row (rowKey w.cc (w.wbase + (n - 8 * w.foot.ewin) / 8) ((n - 8 * w.foot.ewin) % 8)) := by
  simp [State.vloc, Nat.not_lt.2 he, h]

theorem State.vloc_back (s : State) {w : Wave} {n : Nat} (h : 8 * w.foot.ewin + 8 * w.foot.wwin ≤ n) :
    s.vloc w n = .back ((s.part w.part).bstore.toNat + 65536 * s.waveIndex w + 256 * n) := by
  simp [State.vloc, Nat.not_lt.2 h, show ¬ n < 8 * w.foot.ewin by omega]

/-- A register in the windows lies in the register file. -/
theorem State.vloc_inWindows (s : State) {w : Wave} {n : Nat} (h : inWindows w n) : ∃ key, s.vloc w n = .row key := by
  by_cases he : n < 8 * w.foot.ewin
  · exact ⟨_, s.vloc_estate he⟩
  · exact ⟨_, s.vloc_work (Nat.not_lt.1 he) (by unfold inWindows at h; omega)⟩

/-- Where a register lies depends on the partitions alone, beside its wave. -/
theorem State.vloc_parts {s t : State} (h : t.parts = s.parts) (w : Wave) (n : Nat) : t.vloc w n = s.vloc w n := by
  simp only [State.vloc, State.waveIndex, State.partCores, State.part, h]

theorem State.vloc_moved (s : State) (w : Wave) (g : BitVec 6) (k : Nat) (c : Bool) (p : Pipe) (n : Nat) :
    s.vloc ((w.raise g).advance k c p) n = s.vloc w n := by
  simp [State.vloc, State.waveIndex, Wave.cc]

theorem State.readV_row {s : State} {w : Wave} {n key : Nat} (h : s.vloc w n = .row key) : s.readV w n = kvGet zeroV s.rf key := by
  simp [State.readV, h]

theorem State.readV_backed {s : State} {w : Wave} {n pa : Nat} (h : s.vloc w n = .back pa) (hb : w.backed.contains n = true) :
    s.readV w n = wordsFrom 64 (memBytes s.mem pa 256) := by
  simp only [State.readV, h, hb, if_true]

/-- A backing-store register that the wave has not written reads zero (R146). -/
theorem State.readV_unwritten {s : State} {w : Wave} {n pa : Nat} (h : s.vloc w n = .back pa) (hb : w.backed.contains n = false) :
    s.readV w n = zeroV := by
  simp only [State.readV, h, hb, Bool.false_eq_true, if_false]

/-- What a register holds depends on memory, the register file and the partitions alone, beside its wave. -/
theorem State.readV_congr {s t : State} (hm : t.mem = s.mem) (hr : t.rf = s.rf) (hp : t.parts = s.parts) (w : Wave) (n : Nat) :
    t.readV w n = s.readV w n := by
  simp only [State.readV, State.vloc_parts hp, hm, hr]

/-- Checking the lines of a backing store that is read changes no register. -/
theorem State.readV_spillRead (s : State) (w x : Wave) (rs : List Nat) (n : Nat) : (s.spillRead w rs).readV x n = s.readV x n :=
  State.readV_congr (State.spillRead_mem s w rs) (State.spillRead_rf s w rs) (State.spillRead_parts s w rs) x n

theorem State.readV_moved (s : State) (w : Wave) (g : BitVec 6) (k : Nat) (c : Bool) (p : Pipe) (n : Nat) :
    s.readV ((w.raise g).advance k c p) n = s.readV w n := by
  simp only [State.readV, State.vloc_moved, Wave.advance_backed, Wave.raise_backed]

/-! ### Writing a register -/

/-- The wave with the written bit of register n (R146). -/
def Wave.markBacked (w : Wave) (n : Nat) : Wave := { w with backed := if w.backed.contains n then w.backed else n :: w.backed }

theorem Wave.markBacked_contains (w : Wave) (n : Nat) : (w.markBacked n).backed.contains n = true := by
  unfold Wave.markBacked
  dsimp only
  split
  · assumption
  · simp

theorem State.vloc_markBacked (s : State) (w : Wave) (m n : Nat) : s.vloc (w.markBacked m) n = s.vloc w n := rfl

/-- What no step of a fold changes, the fold does not change. -/
theorem foldl_unchanged {α β : Type} (g : State → β) {f : State → α → State} (hf : ∀ s a, g (f s a) = g s) (l : List α) (s : State) :
    g (l.foldl f s) = g s := by
  induction l generalizing s with
  | nil => rfl
  | cons a r ih => rw [List.foldl_cons, ih, hf]

theorem State.checkLine_mem (s : State) (line : Nat) : (s.checkLine line).mem = s.mem := by
  have h := State.checkLines_frame [line] s
  simp only [List.foldl_cons, List.foldl_nil] at h
  rw [h]

theorem State.writeV_row {s : State} {w : Wave} {n key : Nat} (hw : s.wave? w.uid = some w) (hl : s.vloc w n = .row key) (lanes : LaneMask)
    (v : VReg) :
    s.writeV w.uid n lanes v = { s with rf := kvPut zeroV s.rf key (mergeV (s.readV w n) lanes (laneOf v)) } := by
  simp only [State.writeV, hw, hl]

/-- A line stays poisoned (R251). -/
def State.keepPoison (s : State) (line : Nat) : State := { s with poison := kvPut false s.poison line true }

/-- Bytes go to the backing store: the lines that they do not cover are checked first, and those of them that were poisoned stay so. -/
def State.backWrite (s : State) (merged keep : List Nat) (pa : Nat) (bs : List Byte) : State :=
  keep.foldl State.keepPoison ((merged.foldl State.checkLine s).homeRun pa bs)

theorem State.backWrite_memOnly (s : State) (merged keep : List Nat) (pa : Nat) (bs : List Byte) : MemOnly s (s.backWrite merged keep pa bs) :=
  (((MemStep.foldl _ State.checkLine_step merged s).trans (State.homeRun_step _ pa bs)).trans
    (MemStep.foldl State.keepPoison (fun _ _ => ⟨rfl, id⟩) keep _)).1

/-- A register's bytes at an aligned place of device memory are put there, and no others. -/
theorem State.backWrite_mem (s : State) (merged keep : List Nat) {pa : Nat} {bs : List Byte} (hl : bs.length = 256) (ha : pa % 128 = 0)
    (hd : pa + 256 ≤ Config.dramBytes) : (s.backWrite merged keep pa bs).mem = memPutAll s.mem pa bs := by
  obtain ⟨line, rfl⟩ : ∃ line, pa = line * 128 := ⟨pa / 128, by omega⟩
  rw [State.backWrite, foldl_unchanged State.mem (f := State.keepPoison) (fun _ _ => rfl), State.homeRun_lines_mem (k := 2) _ hl (by omega),
    foldl_unchanged State.mem State.checkLine_mem]

/-- A write to the backing store (R100) puts the merged register's bytes there and gives the wave its written bit. -/
theorem State.writeV_back {s : State} {w : Wave} {n pa : Nat} (hw : s.wave? w.uid = some w) (hl : s.vloc w n = .back pa) (lanes : LaneMask)
    (v : VReg) :
    ∃ merged keep, s.writeV w.uid n lanes v =
      let t := s.backWrite merged keep pa (bytesFrom (mergeV (s.readV w n) lanes (laneOf v)))
      { t with spillBytes := t.spillBytes + 256 }.modWave w.uid (·.markBacked n) := by
  simp only [State.writeV, hw, hl]
  exact ⟨_, _, rfl⟩

/-! ### Faults of backing-store registers -/

theorem linesOf_aligned {pa : Nat} (h : pa % 128 = 0) : linesOf pa 256 = [pa / 128, pa / 128 + 1] := by
  obtain ⟨line, rfl⟩ : ∃ line, pa = line * 128 := ⟨pa / 128, by omega⟩
  rw [linesOf_lines line 2, Nat.mul_div_cancel line (Nat.zero_lt_succ 127)]
  rfl

/-- The lines of an aligned register are those in which its lanes lie. -/
theorem mem_linesOf_aligned {pa line : Nat} (h : pa % 128 = 0) : line ∈ linesOf pa 256 ↔ ∃ l, l < 64 ∧ line = (pa + 4 * l) / 128 := by
  rw [linesOf_aligned h]
  simp only [List.mem_cons, List.not_mem_nil, or_false]
  constructor
  · rintro (rfl | rfl)
    · exact ⟨0, by omega, by omega⟩
    · exact ⟨32, by omega, by omega⟩
  · rintro ⟨l, hl, rfl⟩
    omega

/-- The lowest lane of a mask given by a predicate. -/
theorem lowDetail_maskWhere {p : Nat → Bool} {l : Nat} (hl : l < 64) (hp : p l = true) (hlow : ∀ k, k < l → p k = false) :
    lowDetail (maskWhere p) = l := by
  have hbits (k : Nat) (hk : k < 64) : (maskWhere p).getLsbD k = p k := by
    refine BitVec.getLsbD_ofBoolListLE.trans ?_
    simp [allLanes, hk]
  have hf : allLanes.find? (fun k => (maskWhere p).getLsbD k) = some l := by
    rw [allLanes, List.find?_range_eq_some, hbits l hl]
    exact ⟨hp, List.mem_range.2 hl, fun k hk => by rw [hbits k (by omega), hlow k hk]; rfl⟩
  rw [lowDetail, lowestLane, lanesOf, List.head?_filter, hf, Option.getD_some]

/-- The registers of a list that lie in the backing store, with where they lie. -/
def State.backPairs (s : State) (w : Wave) (ns : List Nat) : List (Nat × Nat) :=
  ns.filterMap fun n => match s.vloc w n with | .back pa => some (n, pa) | .row _ => none

/-- All of a backing-store register lies in the wave's slice. -/
def State.spillFits (s : State) (w : Wave) (pa : Nat) : Bool := s.inSlice w.part pa && s.inSlice w.part (pa + 255)

/-- The POISON trap of a source register at pa, with the lines whose checks have failed. -/
def State.spillPoison (s : State) (pa : Nat) (lines : List Nat) : Trap :=
  let lanes := maskWhere fun l => s.lineBad ((pa + 4 * l) / 128)
  { memTrap 0x0C 0 (pa + 4 * lowDetail lanes) lanes with classed := false, lines := lines }

section
variable {s : State} {w : Wave} {srcs dsts : List Nat}

theorem State.backPairs_row {n key : Nat} (h : s.vloc w n = .row key) (ns : List Nat) : s.backPairs w (n :: ns) = s.backPairs w ns := by
  simp only [State.backPairs, List.filterMap_cons, h]

theorem State.backPairs_back {n pa : Nat} (h : s.vloc w n = .back pa) (ns : List Nat) : s.backPairs w (n :: ns) = (n, pa) :: s.backPairs w ns := by
  simp only [State.backPairs, List.filterMap_cons, h]

/-- The order of the faults of backing-store registers: SPILL_FAULT, then the first poisoned source. -/
theorem State.spillTrap_eq : s.spillTrap w srcs dsts =
    if (s.backPairs w (srcs ++ dsts)).any (fun e => !s.spillFits w e.2) then some { cause := 0x12 }
    else ((s.backPairs w srcs).find? fun e => w.backed.contains e.1 && (linesOf e.2 256).any s.lineBad).map fun e =>
      s.spillPoison e.2 ((s.backPairs w srcs).flatMap fun e => if w.backed.contains e.1 then (linesOf e.2 256).filter s.lineBad else []) := by
  refine congrArg (ite _ _) ?_
  change (match (s.backPairs w srcs).find? (fun e => w.backed.contains e.1 && (linesOf e.2 256).any s.lineBad) with | some e => _ | none => _) = _
  cases (s.backPairs w srcs).find? (fun e => w.backed.contains e.1 && (linesOf e.2 256).any s.lineBad) <;> rfl

/-- A backing-store register outside the slice (R100). -/
theorem State.spillTrap_outside {e : Nat × Nat} (he : e ∈ s.backPairs w (srcs ++ dsts)) (ho : s.spillFits w e.2 = false) :
    s.spillTrap w srcs dsts = some { cause := 0x12 } := by
  rw [State.spillTrap_eq, if_pos (List.any_eq_true.2 ⟨e, he, by rw [ho]; rfl⟩)]

theorem State.not_any_outside (hi : ∀ e ∈ s.backPairs w srcs, s.spillFits w e.2 = true) :
    ¬ (s.backPairs w srcs).any (fun e => !s.spillFits w e.2) = true := by
  simpa using hi

/-- Every backing-store register lies in the slice, and no source in a line whose data are bad. -/
theorem State.spillTrap_none (hi : ∀ e ∈ s.backPairs w (srcs ++ dsts), s.spillFits w e.2 = true)
    (hg : ∀ e ∈ s.backPairs w srcs, ∀ line ∈ linesOf e.2 256, s.lineBad line = false) : s.spillTrap w srcs dsts = none := by
  rw [State.spillTrap_eq, if_neg (State.not_any_outside hi), Option.map_eq_none_iff, List.find?_eq_none]
  intro e he hb
  obtain ⟨line, hline, hbad⟩ := List.any_eq_true.1 (Bool.and_eq_true_iff.1 hb).2
  rw [hg e he line hline] at hbad
  cases hbad

/-- The only source in the backing store has been written and lies in a line whose data are bad (R100, R250). -/
theorem State.spillTrap_poison {n pa line : Nat} (hp : s.backPairs w srcs = [(n, pa)]) (hb : w.backed.contains n = true)
    (hi : ∀ e ∈ s.backPairs w (srcs ++ dsts), s.spillFits w e.2 = true) (hm : line ∈ linesOf pa 256) (hbad : s.lineBad line = true) :
    s.spillTrap w srcs dsts = some (s.spillPoison pa ((linesOf pa 256).filter s.lineBad)) := by
  have ha : (linesOf pa 256).any s.lineBad = true := List.any_eq_true.2 ⟨line, hm, hbad⟩
  rw [State.spillTrap_eq, if_neg (State.not_any_outside hi), hp, List.find?_cons_of_pos (by rw [hb, ha]; rfl)]
  simp only [Option.map_some, List.flatMap_cons, List.flatMap_nil, List.append_nil, hb, if_true]

/-- The POISON trap names the lowest lane in a bad line, its address and every such lane (R100). -/
theorem State.spillPoison_of_lowest {pa l : Nat} (lines : List Nat) (hl : l < 64) (hbad : s.lineBad ((pa + 4 * l) / 128) = true)
    (hlow : ∀ k, k < l → s.lineBad ((pa + 4 * k) / 128) = false) :
    s.spillPoison pa lines = { cause := 0x0C, addr := BitVec.ofNat 64 (pa + 4 * l), lanes := maskWhere fun l => s.lineBad ((pa + 4 * l) / 128),
                               detail := l, classed := false, lines := lines } := by
  have h := lowDetail_maskWhere (p := fun l => s.lineBad ((pa + 4 * l) / 128)) hl hbad hlow
  simp only [State.spillPoison, memTrap, h]

end

/-! ### A result register -/

theorem State.writeMasked_active (s : State) (u n : Nat) (v : VReg) {act : LaneMask} (h : act ≠ 0) :
    s.writeMasked u act false n v = s.writeV u n act v := by
  simp only [State.writeMasked, Bool.false_eq_true, if_false, if_neg h]

theorem State.readV_putRow {s : State} {w : Wave} {n key : Nat} (h : s.vloc w n = .row key) (v : VReg) :
    { s with rf := kvPut zeroV s.rf key v }.readV w n = v :=
  (State.readV_row (s := { s with rf := kvPut zeroV s.rf key v }) h).trans (kvGet_put_same zeroV s.rf key v)

theorem laneOf_runLanes (act : LaneMask) (f : Nat → Word × Flags) {l : Nat} (h : l < 64) :
    laneOf (runLanes act f).1 l = if act.getLsbD l then (f l).1 else 0 :=
  laneOf_range (fun l => if act.getLsbD l then (f l).1 else 0) h

/-- A lane of a register merged with the results of the active lanes. -/
theorem laneOf_mergeV_runLanes (old : VReg) (act : LaneMask) (f : Nat → Word × Flags) {l : Nat} (h : l < 64) :
    laneOf (mergeV old act (laneOf (runLanes act f).1)) l = if act.getLsbD l then (f l).1 else laneOf old l := by
  rw [laneOf_mergeV old act _ h, laneOf_runLanes act f h]
  split <;> rfl

section
variable {s : State} {w : Wave} {d : Nat} (act : LaneMask) (f : Nat → Word × Flags)

/-- A masked result in the register file: the register has the active lanes, and memory is as it was. -/
theorem State.writeMasked_row {key : Nat} (hw : s.wave? w.uid = some w) (hl : s.vloc w d = .row key) :
    let t := s.writeMasked w.uid act false d (runLanes act f).1
    t.wave? w.uid = some w ∧ t.mem = s.mem ∧
      ∀ l, l < 64 → laneOf (t.readV w d) l = if act.getLsbD l then (f l).1 else laneOf (s.readV w d) l := by
  by_cases h0 : act = 0
  · subst h0
    exact ⟨hw, rfl, fun l _ => by simp [State.writeMasked]⟩
  · rw [State.writeMasked_active s _ _ _ h0, State.writeV_row hw hl]
    exact ⟨hw, rfl, fun l h => by rw [State.readV_putRow hl, laneOf_mergeV_runLanes _ act f h]⟩

/-- A masked result in the backing store (R100, R146): the register has the active lanes and its written bit, and no other byte of
memory has changed. -/
theorem State.writeMasked_back {pa : Nat} (hw : s.wave? w.uid = some w) (hl : s.vloc w d = .back pa) (hact : act ≠ 0) (ha : pa % 128 = 0)
    (hd : pa + 256 ≤ Config.dramBytes) :
    let t := s.writeMasked w.uid act false d (runLanes act f).1
    t.wave? w.uid = some (w.markBacked d) ∧ t.rf = s.rf ∧ (∀ x, x < pa ∨ pa + 256 ≤ x → memByte t.mem x = memByte s.mem x) ∧
      ∀ l, l < 64 → laneOf (t.readV (w.markBacked d) d) l = if act.getLsbD l then (f l).1 else laneOf (s.readV w d) l := by
  obtain ⟨merged, keep, hv⟩ := State.writeV_back hw hl act (runLanes act f).1
  rw [State.writeMasked_active s _ _ _ hact, hv]
  have hlen : (mergeV (s.readV w d) act (laneOf (runLanes act f).1)).length = 64 := length_mergeV _ _ _
  generalize hnew : mergeV (s.readV w d) act (laneOf (runLanes act f).1) = new at hlen
  have hb : (bytesFrom new).length = 256 := by rw [length_bytesFrom, hlen]
  have hm := s.backWrite_mem merged keep hb ha hd
  have ho := s.backWrite_memOnly merged keep pa (bytesFrom new)
  generalize s.backWrite merged keep pa (bytesFrom new) = t at hm ho
  dsimp only
  refine ⟨?_, by rw [ho]; rfl, fun x hx => ?_, fun l h => ?_⟩
  · refine State.wave?_modWave_same (·.markBacked d) (fun _ h => h) ?_
    rw [ho]
    exact hw
  · rw [State.modWave_mem, hm, memByte_putAll_outside _ _ _ _ (hb ▸ hx)]
  · have hl' : ({ t with spillBytes := t.spillBytes + 256 }.modWave w.uid (·.markBacked d)).vloc (w.markBacked d) d = .back pa := by
      rw [State.vloc_parts (s := s) (by rw [ho]; rfl), State.vloc_markBacked, hl]
    have hr : memBytes (memPutAll s.mem pa (bytesFrom new)) pa 256 = bytesFrom new := hb ▸ memBytes_putAll_same s.mem pa (bytesFrom new)
    have hwords : wordsFrom 64 (bytesFrom new) = new := hlen ▸ wordsFrom_bytesFrom new
    rw [State.readV_backed hl' (w.markBacked_contains d), State.modWave_mem, hm, hr, hwords, ← hnew, laneOf_mergeV_runLanes _ act f h]

theorem State.vecFinish_laneOut_eq (z : Bool) (n : Nat) (c : Bool) : s.vecFinish w act z n c (laneOut d act f) =
    (((s.writeMasked w.uid act z d (runLanes act f).1).modWave w.uid fun x => (x.raise (runLanes act f).2).setK 0 0).modWave w.uid
      fun x => x).advanceWave w.uid n c .V := rfl

/-- After its result register a vector instruction only raises flags and goes on. -/
theorem State.vecFinish_laneOut {x : Wave} {z : Bool} (h : (s.writeMasked w.uid act z d (runLanes act f).1).wave? w.uid = some x) (n : Nat)
    (c : Bool) :
    let r := s.writeMasked w.uid act z d (runLanes act f).1
    let t := s.vecFinish w act z n c (laneOut d act f)
    let x' := (x.raise (runLanes act f).2).advance n c .V
    t.wave? w.uid = some x' ∧ t.mem = r.mem ∧ t.rf = r.rf ∧ ∀ m, t.readV x' m = r.readV x m := by
  rw [State.vecFinish_laneOut_eq]
  generalize s.writeMasked w.uid act z d (runLanes act f).1 = r at h ⊢
  have hx : x.uid = w.uid := State.wave?_uid h
  rw [← hx] at h ⊢
  have hraise := State.wave?_modWave_same (fun x => (x.raise (runLanes act f).2).setK 0 0) (fun _ hy => hy) h
  have hscc := State.wave?_modWave_same (fun x => x) (fun _ hy => hy) hraise
  refine ⟨State.wave?_advanceWave (w := x.raise (runLanes act f).2) n c .V hscc, rfl, rfl, fun m => ?_⟩
  rw [State.readV_moved]
  exact State.readV_congr rfl rfl rfl x m

end

/-! ### The short move -/

section
variable {s : State} {w : Wave} {c : Bool} {d a : R8}

theorem exec_vmovShort (hs : s.issuing = some w) : exec (.vmovShort c d a) s =
    .next (s.vector w [a.toNat] [d.toNat] w.exec false 1 c fun rd => laneOut d.toNat w.exec fun l => (laneOf (rd a.toNat) l, 0)) :=
  State.onWave_issuing hs _

/-- Without a fault the source's lines are checked and then the result is written. -/
theorem exec_vmovShort_completes (hs : s.issuing = some w) (h : s.spillTrap w [a.toNat] [d.toNat] = none) :
    exec (.vmovShort c d a) s = .next ((s.spillRead w [a.toNat]).vecFinish w w.exec false 1 c
      (laneOut d.toNat w.exec fun l => (laneOf (s.readV w a.toNat) l, 0))) := by
  rw [exec_vmovShort hs, State.vector, h]
  rfl

theorem exec_vmovShort_traps (hs : s.issuing = some w) {t : Trap} (h : s.spillTrap w [a.toNat] [d.toNat] = some t) :
    exec (.vmovShort c d a) s = .next (s.takeTrap w t) := by
  rw [exec_vmovShort hs, State.vector, h]

theorem State.wave?_spillRead (rs : List Nat) (h : s.wave? w.uid = some w) : (s.spillRead w rs).wave? w.uid = some w := by
  rwa [State.wave?, State.spillRead_waves]

/-- A short move into the register file: the active lanes of the source, and memory as it was. -/
theorem exec_vmovShort_toRow {key : Nat} (hs : s.issuing = some w) (hd : s.vloc w d.toNat = .row key)
    (hn : s.spillTrap w [a.toNat] [d.toNat] = none) :
    ∃ t, exec (.vmovShort c d a) s = .next t ∧ t.mem = s.mem ∧
      lanesBecome s t w w.exec false d.toNat (fun l => laneOf (s.readV w a.toNat) l) := by
  have hw := State.wave?_spillRead [a.toNat] (State.issuing_wave? hs)
  have hd' : (s.spillRead w [a.toNat]).vloc w d.toNat = .row key := by rw [State.vloc_parts (State.spillRead_parts s w _), hd]
  obtain ⟨hx, hmem, hlanes⟩ := State.writeMasked_row w.exec (fun l => (laneOf (s.readV w a.toNat) l, 0)) hw hd'
  obtain ⟨hx', hmem', -, hread⟩ := State.vecFinish_laneOut w.exec _ hx 1 c
  refine ⟨_, exec_vmovShort_completes hs hn, by rw [hmem', hmem, State.spillRead_mem], _, hx', fun l hl => ?_⟩
  rw [hread, hlanes l hl, State.readV_spillRead]
  rfl

/-- A short move into the backing store with a lane to move: the active lanes of the source, the register's written bit, and every
other byte of memory as it was. -/
theorem exec_vmovShort_toBack {pa : Nat} (hs : s.issuing = some w) (hd : s.vloc w d.toNat = .back pa)
    (hn : s.spillTrap w [a.toNat] [d.toNat] = none) (h128 : pa % 128 = 0) (hdram : pa + 256 ≤ Config.dramBytes) (hex : w.exec ≠ 0) :
    ∃ t w', exec (.vmovShort c d a) s = .next t ∧ t.wave? w.uid = some w' ∧ w'.backed.contains d.toNat = true ∧
      (∀ l, l < 64 → laneOf (t.readV w' d.toNat) l = if w.exec.getLsbD l then laneOf (s.readV w a.toNat) l else laneOf (s.readV w d.toNat) l) ∧
      (∀ x, x < pa ∨ pa + 256 ≤ x → memByte t.mem x = memByte s.mem x) ∧ t.rf = s.rf := by
  have hw := State.wave?_spillRead [a.toNat] (State.issuing_wave? hs)
  have hd' : (s.spillRead w [a.toNat]).vloc w d.toNat = .back pa := by rw [State.vloc_parts (State.spillRead_parts s w _), hd]
  obtain ⟨hx, hrf, hmem, hlanes⟩ :=
    State.writeMasked_back w.exec (fun l => (laneOf (s.readV w a.toNat) l, 0)) hw hd' hex h128 hdram
  obtain ⟨hx', hmem', hrf', hread⟩ := State.vecFinish_laneOut w.exec _ hx 1 c
  refine ⟨_, _, exec_vmovShort_completes hs hn, hx', ?_, fun l hl => ?_, fun x hx => ?_, by rw [hrf', hrf, State.spillRead_rf]⟩
  · rw [Wave.advance_backed, Wave.raise_backed, Wave.markBacked_contains]
  · rw [hread, hlanes l hl, State.readV_spillRead]
  · rw [hmem', hmem x hx, State.spillRead_mem]

end

/-- Settles O17: the homes by the cases of `State.vloc`; the moves by the faults of `State.spillTrap`, and, where there is none, by what
writing the result register does in the register file and in the backing store. -/
theorem vectorRegisterHomes : Obligations.VectorRegisterHomes := by
  unfold Obligations.VectorRegisterHomes
  refine ⟨fun s w n l c d => ?_, fun s w c d a pa hs ha hd => ?_, fun s w c d a pa hs hd ha hlo hhi hb => ?_⟩
  · refine ⟨fun h => State.readV_row (s.vloc_estate h), fun he h => State.readV_row (s.vloc_work he h), fun h hb hl => ?_,
      fun h hb => State.readV_unwritten (s.vloc_back h) hb, sget_sput_readOnly rfl rfl rfl c d, sget_sput_readOnly rfl rfl rfl c d,
      sget_sput_readOnly rfl rfl rfl c d, sget_sput_readOnly rfl rfl rfl c d⟩
    rw [State.readV_backed (s.vloc_back h) hb, State.waveIndex_eq, laneOf_wordsFrom_memBytes _ _ 64 l hl]
  · obtain ⟨key, ha⟩ := s.vloc_inWindows ha
    have hsrc : s.backPairs w [a.toNat] = [] := State.backPairs_row ha _
    have hall : s.backPairs w ([a.toNat] ++ [d.toNat]) = [(d.toNat, pa)] := (State.backPairs_row ha _).trans (State.backPairs_back hd _)
    refine ⟨fun ho => ?_, fun hi h128 hdram hex => ?_⟩
    · refine exec_vmovShort_traps hs (State.spillTrap_outside (e := (d.toNat, pa)) (hall ▸ List.mem_singleton_self _) ?_)
      rwa [← Bool.and_eq_true, Bool.not_eq_true] at ho
    · refine exec_vmovShort_toBack hs hd (State.spillTrap_none ?_ ?_) h128 hdram hex
      · rw [hall]
        exact List.forall_mem_singleton.2 (Bool.and_eq_true_iff.2 hi)
      · rw [hsrc]
        exact fun _ h => absurd h List.not_mem_nil
  · obtain ⟨key, hd⟩ := s.vloc_inWindows hd
    have hsrc : s.backPairs w [a.toNat] = [(a.toNat, pa)] := State.backPairs_back ha _
    have hfits : ∀ e ∈ s.backPairs w ([a.toNat] ++ [d.toNat]), s.spillFits w e.2 = true := by
      rw [show s.backPairs w ([a.toNat] ++ [d.toNat]) = [(a.toNat, pa)] from (State.backPairs_back ha _).trans (congrArg _ (State.backPairs_row hd _))]
      exact List.forall_mem_singleton.2 (Bool.and_eq_true_iff.2 ⟨hlo, hhi⟩)
    refine ⟨fun hgood h128 => ?_, fun l hl hbad hlow h128 => ?_⟩
    · refine exec_vmovShort_toRow hs hd (State.spillTrap_none hfits ?_)
      rw [hsrc]
      refine List.forall_mem_singleton.2 fun line hline => ?_
      obtain ⟨l, hl, rfl⟩ := (mem_linesOf_aligned h128).1 hline
      exact hgood l hl
    · rw [exec_vmovShort_traps hs (State.spillTrap_poison hsrc hb hfits ((mem_linesOf_aligned h128).2 ⟨l, hl, rfl⟩) hbad),
        State.spillPoison_of_lowest _ hl hbad hlow]

end Sys2Proof.Machine
end

section
/-! SUPPORT. Reads and writes of the special registers (R151, R152), and the words that leave the wave as it was (R22). -/

open Sys2Proof Sys2Proof.Machine Sys2Proof.Claims

namespace Sys2Proof.Machine

/-! ### What the issuing wave becomes -/

theorem loWord_truncate (v : Word) : loWord (v.truncate 64) = v :=
  (BitVec.setWidth_setWidth_of_le v (by decide)).trans (BitVec.setWidth_eq v)

section
variable {s : State} {w : Wave} (hs : s.issuing = some w)
include hs

/-- A scalar instruction completes: the issuing wave becomes what the instruction makes of it, and moves on. -/
theorem State.scalar_issuing (n : Nat) (c : Bool) (f : Wave → Wave) : s.scalar n c f = becomes s ((f w).advance n c .S) :=
  State.onWave_issuing hs _

theorem exec_nop_issuing (c : Bool) : exec (.nop c) s = becomes s (w.advance 1 c .none) := State.onWave_issuing hs _

/-- A header word executes as a `nop` (R22). -/
theorem exec_nopHeader_issuing (budget mstk : BitVec 6) : exec (.nopHeader budget mstk) s = becomes s (w.advance 1 false .none) :=
  State.onWave_issuing hs _

/-- `sget` of a 64-bit special register writes a pair (R152). -/
theorem exec_sget_wide (c : Bool) (d : R8) {n : R8} (hn : sregWidth n = 64) :
    exec (.sget c d n) s = becomes s ((w.setPair d.toNat (s.sreg w n.toNat)).advance 1 c .S) := by
  have he : exec (.sget c d n) s = s.scalar 1 c _ := rfl
  rw [he, State.scalar_issuing hs, if_pos hn]

/-- `sget` of a special register whose value is a word of the wave. -/
theorem exec_sget_held (c : Bool) (d : R8) {n : R8} {v : Word} (hn : sregWidth n = 32) (hv : s.sreg w n.toNat = v.truncate 64) :
    exec (.sget c d n) s = becomes s ((w.setS d.toNat v).advance 1 c .S) := by
  rw [exec_sget_word hs c d hn, hv, loWord_truncate]

/-- `sget` of a special register whose value is a number: the number's low 32 bits. -/
theorem exec_sget_number (c : Bool) (d : R8) {n : R8} {v : Nat} (hn : sregWidth n = 32) (hv : s.sreg w n.toNat = BitVec.ofNat 64 v) :
    exec (.sget c d n) s = becomes s ((w.setS d.toNat (BitVec.ofNat 32 v)).advance 1 c .S) := by
  rw [exec_sget_word hs c d hn, hv, loWord_ofNat]

end

/-! ### Words of the reserved special registers -/

theorem fB_leadW (c : Bool) (op : Nat) (a b d : R8) : fB (leadW c op (p3 a b d)) = b :=
  (BitVec.extractLsb'_append_eq_of_add_le (by decide)).trans ((BitVec.extractLsb'_append_eq_of_add_le (by decide)).trans
    ((BitVec.extractLsb'_append_eq_of_add_le (by decide)).trans ((BitVec.extractLsb'_append_eq_of_le (by decide)).trans
      BitVec.extractLsb'_eq_self)))

/-- An `sget` word of a reserved special register does not decode (R151). -/
theorem decodeWords_sget_reserved {w0 : Word} (hop : opOf w0 = 0x2E) (h : 0x18 ≤ (fB w0).toNat) :
    decodeWords false [] [w0] = .illegalEncoding := by
  have hp (w1 w2 : Word) : parse w0 w1 w2 = some (.sget (cOf w0) (fA w0) (fB w0), fD w0 == 0) := by simp only [parse, hop, parse2]
  have hw : (Instr.sget (cOf w0) (fA w0) (fB w0)).wf = false := by
    have he : (Instr.sget (cOf w0) (fA w0) (fB w0)).wf = (decide ((fB w0).toNat ≤ 0x17) && _) := rfl
    rw [he, decide_eq_false (Nat.not_le.2 h), Bool.false_and]
  have hn : opWords 0x2E = 1 := rfl
  have hx : (Instr.sget (cOf w0) (fA w0) (fB w0)).experimental = false := rfl
  simp [decodeWords, hop, hp, hw, hn, hx]

/-- `sput` may write inld, tbudget, exec and scc alone (R151). -/
theorem sregWritable_eq_false {n : R8} (hinld : n ≠ 0x09) (htbudget : n ≠ 0x0A) (hexec : n ≠ 0x10) (hscc : n ≠ 0x12) :
    sregWritable n = false := by
  simp only [sregWritable, beq_eq_false_iff_ne.2 hinld, beq_eq_false_iff_ne.2 htbudget, beq_eq_false_iff_ne.2 hexec,
    beq_eq_false_iff_ne.2 hscc, Bool.or_false]

/-- Settles O4: a special register is a pair, a word of the wave or a number, and `sget` copies each by its own law; `sput` is a scalar
instruction; a number outside the table, or one that is read-only, makes the word ill-formed. -/
theorem specialRegisterResults : Obligations.SpecialRegisterResults := by
  unfold Obligations.SpecialRegisterResults
  refine ⟨fun s w c d a b m hs => ?_, fun n r => ⟨fun hn => ?_, fun hinld htbudget hexec hscc => ?_⟩⟩
  · intro word wide
    have pair (n : R8) (hn : sregWidth n = 64) : wide n (s.sreg w n.toNat) := exec_sget_wide hs c d hn
    have held (n : R8) (v : Word) (hn : sregWidth n = 32) (hv : s.sreg w n.toNat = v.truncate 64) : word n v := exec_sget_held hs c d hn hv
    have number (n : R8) (v : Nat) (hn : sregWidth n = 32) (hv : s.sreg w n.toNat = BitVec.ofNat 64 v) : word n (BitVec.ofNat 32 v) :=
      exec_sget_number hs c d hn hv
    have sput (f : Wave → Wave) : s.scalar 1 c f = becomes s ((f w).advance 1 c .S) := State.scalar_issuing hs 1 c f
    exact ⟨exec_nop_issuing hs c, exec_nopHeader_issuing hs b m,
      pair 0x00 rfl, held 0x01 _ rfl rfl, held 0x02 _ rfl rfl, pair 0x03 rfl, pair 0x04 rfl, pair 0x05 rfl,
      held 0x06 _ rfl rfl, held 0x07 _ rfl rfl, number 0x08 _ rfl rfl, number 0x09 _ rfl rfl, held 0x0A _ rfl rfl, pair 0x0B rfl,
      number 0x0C _ rfl rfl, number 0x0D _ rfl rfl, number 0x0E _ rfl rfl, number 0x0F _ rfl rfl, pair 0x10 rfl, held 0x11 _ rfl rfl,
      held 0x12 _ rfl rfl, number 0x13 _ rfl rfl, number 0x14 _ rfl rfl, pair 0x15 rfl, number 0x16 _ rfl rfl, number 0x17 _ rfl rfl,
      sput _, sput _, sput _, sput _⟩
  · exact decodeWords_sget_reserved (opOf_leadW _ _ _) (by rwa [fB_leadW])
  · exact decodeWords_sput_readOnly (opOf_leadW _ _ _) (by rw [fA_leadW, sregWritable_eq_false hinld htbudget hexec hscc])

end Sys2Proof.Machine
end

section
/-! SUPPORT. The scalar forms that write one word (R185, R186, R188): each operation of the model in the terms of R185's table, and the
words of the forms of one word. -/

open Sys2Proof Sys2Proof.Machine Sys2Proof.Claims

namespace Sys2Proof.Machine

/-! ### The operations of R185's table -/

/-- The operation that the model gives to an OP of R185's table, and to the function code of the same number (R186). -/
def scalarAlu (op : Nat) : Word → Word → Word :=
  match op with
  | 0x02 => (· + ·)
  | 0x03 => (· - ·)
  | 0x04 => (· * ·)
  | 0x05 => mulHigh true
  | 0x06 => mulHigh false
  | 0x07 => divSigned
  | 0x08 => divUnsigned
  | 0x09 => remSigned
  | 0x0A => remUnsigned
  | 0x0B => (· &&& ·)
  | 0x0C => (· ||| ·)
  | 0x0D => (· ^^^ ·)
  | 0x0E => fun x y => shiftLeft x y.toNat
  | 0x0F => fun x y => shiftRight x y.toNat
  | 0x10 => fun x y => shiftArith x y.toNat
  | 0x11 => minSigned
  | 0x12 => maxSigned
  | 0x13 => minUnsigned
  | _ => maxUnsigned

theorem ofInt_toInt_add (x y : Word) : BitVec.ofInt 32 (x.toInt + y.toInt) = x + y := by
  rw [BitVec.ofInt_add, BitVec.ofInt_toInt, BitVec.ofInt_toInt]

theorem ofInt_toInt_sub (x y : Word) : BitVec.ofInt 32 (x.toInt - y.toInt) = x - y :=
  BitVec.eq_of_toInt_eq (by rw [BitVec.toInt_ofInt, BitVec.toInt_sub])

theorem ofInt_toInt_mul (x y : Word) : BitVec.ofInt 32 (x.toInt * y.toInt) = x * y := by
  rw [BitVec.ofInt_mul, BitVec.ofInt_toInt, BitVec.ofInt_toInt]

theorem divUnsigned_eq (x y : Word) : divUnsigned x y = if y = 0 then 0xFFFFFFFF else BitVec.ofNat 32 (x.toNat / y.toNat) := by
  rw [divUnsigned, BitVec.udiv_def]

theorem remUnsigned_eq (x y : Word) : remUnsigned x y = if y = 0 then x else BitVec.ofNat 32 (x.toNat % y.toNat) := by
  rw [remUnsigned, BitVec.umod_def]

theorem shiftLeft_eq {n : Nat} (x : BitVec n) (k : Nat) : shiftLeft x k = if k < n then BitVec.ofNat n (x.toNat * 2 ^ k) else 0 := by
  have h : x <<< k = BitVec.ofNat n (x.toNat * 2 ^ k) :=
    BitVec.eq_of_toNat_eq (by rw [BitVec.toNat_shiftLeft, BitVec.toNat_ofNat, Nat.shiftLeft_eq])
  rw [shiftLeft, h]

theorem shiftRight_eq {n : Nat} (x : BitVec n) (k : Nat) : shiftRight x k = if k < n then BitVec.ofNat n (x.toNat / 2 ^ k) else 0 := by
  have h : x >>> k = BitVec.ofNat n (x.toNat / 2 ^ k) := by
    rw [← Nat.shiftRight_eq_div_pow, ← BitVec.toNat_ushiftRight, BitVec.ofNat_toNat, BitVec.setWidth_eq]
  rw [shiftRight, h]

/-- An arithmetic shift rounds towards minus infinity; one by the whole width or more leaves the sign alone. -/
theorem shiftArith_eq (x : Word) (k : Nat) :
    shiftArith x k = if k < 32 then BitVec.ofInt 32 (x.toInt / 2 ^ k) else if x.toInt < 0 then 0xFFFFFFFF else 0 := by
  have hshift (j : Nat) : x.sshiftRight j = BitVec.ofInt 32 (x.toInt / 2 ^ j) := by
    rw [BitVec.sshiftRight_eq, Int.shiftRight_eq_div_pow, Nat.cast_pow, Nat.cast_ofNat]
  rw [shiftArith, hshift]
  split
  next hk => rw [Nat.min_eq_left hk.le]
  next hk =>
    rw [Nat.min_eq_right (Nat.not_lt.1 hk)]
    have hlo : -2 ^ 31 ≤ x.toInt := BitVec.le_toInt x
    have hhi : x.toInt < 2 ^ 31 := BitVec.toInt_lt
    split
    next hneg =>
      rw [show x.toInt / 2 ^ 32 = -1 by omega]
      rfl
    next hpos =>
      rw [show x.toInt / 2 ^ 32 = 0 by omega]
      rfl

theorem minSigned_eq (x y : Word) : minSigned x y = if x.toInt ≤ y.toInt then x else y := by
  simp only [minSigned, BitVec.slt_iff_toInt_lt, ← Int.not_le, ite_not]

theorem minUnsigned_eq (x y : Word) : minUnsigned x y = if x.toNat ≤ y.toNat then x else y := by
  simp only [minUnsigned, BitVec.lt_def, ← Nat.not_le, ite_not]

theorem maxSigned_eq (x y : Word) : maxSigned x y = if x.toInt ≤ y.toInt then y else x := by
  rw [maxSigned]
  rcases lt_trichotomy x.toInt y.toInt with h | h | h
  · rw [if_pos (BitVec.slt_iff_toInt_lt.2 h), if_pos h.le]
  · rw [BitVec.eq_of_toInt_eq h, ite_self, ite_self]
  · rw [if_neg (mt BitVec.slt_iff_toInt_lt.1 h.not_gt), if_neg h.not_ge]

theorem maxUnsigned_eq (x y : Word) : maxUnsigned x y = if x.toNat ≤ y.toNat then y else x := by
  rw [maxUnsigned]
  rcases lt_trichotomy x.toNat y.toNat with h | h | h
  · rw [if_pos (BitVec.lt_def.2 h), if_pos h.le]
  · rw [BitVec.eq_of_toNat_eq h, ite_self, ite_self]
  · rw [if_neg (mt BitVec.lt_def.1 h.not_gt), if_neg h.not_ge]

/-- The model's operation of each OP is the one that R185's table gives. -/
theorem scalarAlu_eq_scalarOp {op : Nat} (hlo : 2 ≤ op) (hhi : op ≤ 20) (x y : Word) : scalarAlu op x y = scalarOp op x y := by
  interval_cases op
  · exact (ofInt_toInt_add x y).symm
  · exact (ofInt_toInt_sub x y).symm
  · exact (ofInt_toInt_mul x y).symm
  · rfl
  · rfl
  · rfl
  · exact divUnsigned_eq x y
  · rfl
  · exact remUnsigned_eq x y
  · rfl
  · rfl
  · rfl
  · exact shiftLeft_eq x y.toNat
  · exact shiftRight_eq x y.toNat
  · exact shiftArith_eq x y.toNat
  · exact minSigned_eq x y
  · exact maxSigned_eq x y
  · exact minUnsigned_eq x y
  · exact maxUnsigned_eq x y

/-! ### The three forms of an operation -/

theorem immS_eq_extended (imm : BitVec 24) : immS imm = extended imm := rfl

section
variable {op : Nat} (hlo : 2 ≤ op) (hhi : op ≤ 20)
include hlo hhi

theorem exec_registerForm (c : Bool) (d a b : R8) (s : State) : exec (registerForm op c d a b) s = s.s3 c d a b (scalarAlu op) := by
  interval_cases op <;> rfl

theorem exec_immForm (c : Bool) (d a : R8) (imm : BitVec 24) (s : State) :
    exec (immForm op c d a imm) s = s.si c d a imm (scalarAlu op) := by
  interval_cases op <;> rfl

theorem exec_imm32Form (d a : R8) (imm : Word) (s : State) : exec (imm32Form op d a imm) s = s.si32 d a imm (scalarAlu op) := by
  interval_cases op <;> rfl

variable {s : State} {w : Wave} (hs : s.issuing = some w)
include hs

theorem exec_registerForm_issuing (c : Bool) (d a b : R8) : exec (registerForm op c d a b) s =
    becomes s ((w.setS d.toNat (scalarOp op (w.rs a.toNat) (w.rs b.toNat))).advance 1 c .S) := by
  rw [exec_registerForm hlo hhi, State.s3, State.scalar_issuing hs, scalarAlu_eq_scalarOp hlo hhi]

theorem exec_immForm_issuing (c : Bool) (d a : R8) (imm : BitVec 24) : exec (immForm op c d a imm) s =
    becomes s ((w.setS d.toNat (scalarOp op (w.rs a.toNat) (extended imm))).advance 2 c .S) := by
  rw [exec_immForm hlo hhi, State.si, State.scalar_issuing hs, scalarAlu_eq_scalarOp hlo hhi, immS_eq_extended]

theorem exec_imm32Form_issuing (d a : R8) (imm : Word) : exec (imm32Form op d a imm) s =
    becomes s ((w.setS d.toNat (scalarOp op (w.rs a.toNat) imm)).advance 3 false .S) := by
  rw [exec_imm32Form hlo hhi, State.si32, State.scalar_issuing hs, scalarAlu_eq_scalarOp hlo hhi]

end

theorem exec_ssel_issuing {s : State} {w : Wave} (hs : s.issuing = some w) (c : Bool) (d a b : R8) : exec (.ssel c d a b) s =
    becomes s ((w.setS d.toNat (if w.scc.getLsbD 0 then w.rs a.toNat else w.rs b.toNat)).advance 1 c .S) :=
  State.scalar_issuing hs 1 c _

/-! ### Words of the forms of one word -/

theorem fD_leadW (c : Bool) (op : Nat) (a b d : R8) : fD (leadW c op (p3 a b d)) = d :=
  (BitVec.extractLsb'_append_eq_of_add_le (by decide)).trans ((BitVec.extractLsb'_append_eq_of_add_le (by decide)).trans
    ((BitVec.extractLsb'_append_eq_of_add_le (by decide)).trans ((BitVec.extractLsb'_append_eq_of_add_le (by decide)).trans
      BitVec.extractLsb'_eq_self)))

theorem cOf_leadW (c : Bool) (op : Nat) (f : BitVec 24) : cOf (leadW c op f) = c :=
  (BitVec.getLsbD_append (x := BitVec.ofBool c) (i := 31)).trans (by cases c <;> rfl)

/-- An instruction of one word passes check 5 of R129 unless it carries C into a chain that R112 forbids. -/
theorem wordsOk_one {w0 : Word} {grp : List Pipe} {rest : List Word} (h : cOf w0 = true → chainOk (opPipe (opOf w0) :: grp) rest = true) :
    wordsOk grp 1 (w0 :: rest) = true := by
  cases hc : cOf w0 with
  | false => simp [wordsOk, hc]
  | true => simp [wordsOk, hc, h hc]

/-- A word that is a whole instruction, well-formed and not experimental (R26), decodes to it. -/
theorem decodeWords_one {w0 : Word} {grp : List Pipe} {rest : List Word} {i : Instr} (hn : opWords (opOf w0) = 1)
    (hp : ∀ w1 w2, parse w0 w1 w2 = some (i, true)) (hx : i.experimental = false) (hw : i.wf = true)
    (hc : cOf w0 = true → chainOk (opPipe (opOf w0) :: grp) rest = true) : decodeWords false grp (w0 :: rest) = .ok i 1 := by
  simp [decodeWords, hn, hp, hx, hw, wordsOk_one hc]

theorem opPipe_registerForm {op : Nat} (hlo : 2 ≤ op) (hhi : op ≤ 20) : opPipe op = .S := by
  interval_cases op <;> rfl

/-- A word of a register form decodes to the form of its OP (R185), also where it carries C and the chain is right (R112). -/
theorem decodeWords_registerForm {op : Nat} (hlo : 2 ≤ op) (hhi : op ≤ 20) (c : Bool) (d a b : R8) {rest : List Word}
    (hc : c = true → chainOk [.S] rest = true) :
    decodeWords false [] (leadW c op (p3 d a b) :: rest) = .ok (registerForm op c d a b) 1 := by
  have hop : opOf (leadW c op (p3 d a b)) = op := by rw [opOf_leadW, Nat.mod_eq_of_lt (by omega)]
  refine decodeWords_one ?_ (fun w1 w2 => ?_) ?_ ?_ fun h => ?_
  · rw [hop]
    interval_cases op <;> rfl
  · rw [parse, hop]
    interval_cases op <;> simp only [parse0, parse1, registerForm, cOf_leadW, fA_leadW, fB_leadW, fD_leadW, Nat.reduceDiv]
  · interval_cases op <;> rfl
  · interval_cases op <;> rfl
  · rw [hop, opPipe_registerForm hlo hhi]
    exact hc (by rwa [cOf_leadW] at h)

theorem decodeWords_ssel (d a b : R8) : decodeWords false [] [leadW false 0x18 (p3 d a b)] = .ok (.ssel false d a b) 1 := by
  have hop : opOf (leadW false 0x18 (p3 d a b)) = 0x18 := opOf_leadW _ _ _
  refine decodeWords_one (by rw [hop]; rfl) (fun w1 w2 => ?_) rfl rfl fun h => ?_
  · simp only [parse, hop, parse1, cOf_leadW, fA_leadW, fB_leadW, fD_leadW, Nat.reduceDiv]
  · rw [cOf_leadW] at h
    exact absurd h Bool.false_ne_true

/-- Settles O1: the three forms of an OP run one operation of the model, which is the one of R185's table, on the issuing wave; a word of
OP 0x02 to 0x14 passes the checks of R129 whatever its registers. -/
theorem scalarArithmeticResults : Obligations.ScalarArithmeticResults := by
  unfold Obligations.ScalarArithmeticResults
  refine ⟨fun s w op c d a b imm imm32 hs hlo hhi => ?_, fun op d a b after hlo hhi => ?_, ?_⟩
  · exact ⟨exec_registerForm_issuing hlo hhi hs c d a b, exec_immForm_issuing hlo hhi hs c d a imm,
      exec_imm32Form_issuing hlo hhi hs d a imm32⟩
  · exact ⟨opPipe_registerForm hlo hhi, decodeWords_registerForm hlo hhi false d a b fun h => absurd h Bool.false_ne_true,
      fun h => decodeWords_registerForm hlo hhi true d a b fun _ => h⟩
  · exact decodeWords_registerForm (op := 0x07) (by decide) (by decide) false 2 3 4 fun h => absurd h Bool.false_ne_true

/-- Settles O3: `ssel` is a scalar instruction on the issuing wave, and its word passes the checks of R129 whatever its registers; the
example's word is the one of registers 6, 7 and 8. -/
theorem sselChoosesByT : Obligations.SselChoosesByT := by
  unfold Obligations.SselChoosesByT
  exact ⟨fun s w c d a b hs => exec_ssel_issuing hs c d a b, decodeWords_ssel, decodeWords_ssel 6 7 8, rfl⟩

end Sys2Proof.Machine
end
